-- ==== Sys2Proof/Word.lean ====
section
/-!
DEFINITION. The words of the Birnel B9: bytes, slot words, registers, and the plainest reading of a byte list
as a little-endian number (spec/00_scope.md R3).
-/

namespace Sys2Proof

/-- One byte. -/
abbrev Byte := BitVec 8

/-- One slot word, and every 32-bit register (R44). -/
abbrev Word := BitVec 32

/-- One scalar register (spec/01_machine_state.md Table 01-1). -/
abbrev Reg := BitVec 64

/-- The little-endian number that a byte list holds (R3). -/
def leNat : List Byte → Nat
  | [] => 0
  | b :: r => b.toNat + 256 * leNat r

/-- The low `n` bytes of a number, least significant first (R3). -/
def leBytes : Nat → Nat → List Byte
  | 0, _ => []
  | n + 1, x => BitVec.ofNat 8 x :: leBytes n (x / 256)

end Sys2Proof
end

