-- ==== Sys2Proof/Syntax.lean ====
section
/-!
DEFINITION. The instructions of the B9: one constructor of `Instr` for each row of spec/opcode_table.json.
The first 191 are slot forms (their fields are those of the spec's encoding tables); the other 107 are the part's
remaining indivisible steps (spec/95_what_each_step_holds.md), whose operands name what the step works on.
-/

namespace Sys2Proof

/-- The guard of a guarded form (spec/02_bundles_and_encoding.md R48): `neg` is OP[0], `p` is the field G. -/
structure Guard where
  neg : Bool
  p : BitVec 4
  deriving DecidableEq, Repr

/-- Which of the two scalar units a form of the shared A/B table belongs to (spec/07_instr_scalar.md R141). -/
inductive AB where
  | a
  | b
  deriving DecidableEq, Repr

/-- V element types (spec/02_bundles_and_encoding.md Table 02-4). -/
inductive ElemType where
  | f32
  | bf16
  | f16
  | i32
  | i16
  | i8
  deriving DecidableEq, Repr

/-- Which slot of which bundle of which context an effect in flight belongs to. `ctx` is the context key
(core key times 4 plus the context index), `t` the real cycle of issue, `slot` the index in the bundle, `unit` the
unit class and `word` the slot word (spec/17_traps_preemption.md R337, R338); `lag` is its core's count of frozen cycles at the
issue (spec/16_scheduling.md R330). -/
structure Origin where
  ctx : Nat
  t : Nat
  pc : Word
  slot : Nat
  unit : Nat
  word : Word
  lag : Nat := 0
  deriving DecidableEq, Repr

/-- A register write in flight (spec/02_bundles_and_encoding.md R55, R56). Register numbers are physical
(spec/01_machine_state.md R19). -/
inductive Write where
  | a (i : Nat) (v : Reg)
  | b (i : Nat) (v : Reg)
  | n (i : Nat) (v : Reg)
  | d (i : Nat) (v : Reg)
  | l (i : Nat) (v : Reg) (poison : Bool)
  | pred (i : Nat) (v : Bool)
  | mask (q : Nat) (bits : BitVec 8192)
  | vec (r : Nat) (cells : List (Nat × Byte))
  | spec (num : Nat) (v : Reg)
  | record (num : Nat) (v : Reg)
  | token (tk : Nat) (st : Nat)
  | barrierToken (i : Nat) (v : BitVec 17)
  deriving DecidableEq, Repr

/-- A scratchpad access: shelf, exact byte offset and size (spec/09_instr_scratchpad.md R184). -/
structure Access where
  sh : Nat
  off : Int
  size : Nat
  deriving DecidableEq, Repr

/-- A requested shelf transition (spec/09_instr_scratchpad.md R190, R193); `readOut` is the completion of a read-out with
release flag, with the physical half that it named when it started (R191, R192). -/
inductive Trans where
  | claim
  | pub
  | drain
  | rel
  | relB
  | decl (desc : Reg)
  | readOut (half : Bool)
  deriving DecidableEq, Repr

/-- The three vector loads (spec/08_instr_vector.md R177, R178). -/
inductive VLoadKind where
  | ld
  | lds
  | ldt
  deriving DecidableEq, Repr

/-- A vector load whose quarters have been read: destination register, element width in bytes, element count,
activity of each element, the mask register named, and the access (R176 to R178). -/
structure VLoad where
  kind : VLoadKind
  vd : Nat
  w : Nat
  n : Nat
  active : List Bool
  q : Nat
  acc : Access
  last : Nat
  deriving DecidableEq, Repr

/-- DRAM commands (spec/11_instr_dram.md R223); `reserve` is an arrival cycle that a `d.nop` keeps free (R228). -/
inductive DKind where
  | act
  | pre
  | prea
  | rd
  | wr
  | ref
  | refpb
  | sre
  | srx
  | pde
  | pdx
  | mrs
  | reserve
  deriving DecidableEq, Repr

/-- Who committed a DRAM command (R223, R296, R300, R304). `timed`: a D slot; `loan`: the open-slot issuer for
the request with that number; `control`: the controller on its own account. -/
inductive DSource where
  | timed (o : Origin) (burst : Nat)
  | request (id : Nat) (col : Nat)
  | control
  deriving DecidableEq, Repr

/-- A committed DRAM command: pseudo-channel (stack times 64 plus pch), bank, physical row, column, arrival cycle
on the concordance count and its source. -/
structure DCmd where
  kind : DKind
  pc : Nat
  bank : Nat
  row : Nat
  col : Nat
  at_ : Int
  src : DSource
  deriving DecidableEq, Repr

/-- One burst of a `d.rd` or `d.wr`: its access, its pseudo-channel location, whether it is the instruction's last,
whether `.last` or `.rel` stands, and for a `d.wr` with `.rel` the physical half that its first sample named, whether it has been
named and whether an `l.rel` has let go of it (spec/11_instr_dram.md R231, R232, spec/09_instr_scratchpad.md R192). -/
structure Burst where
  acc : Access
  pc : Nat
  bank : Nat
  row : Nat
  col : Nat
  final : Bool
  flag : Bool
  half : Bool
  named : Bool := false
  freed : Bool := false
  deriving DecidableEq, Repr

/-- A link flit: 64 data bytes, 8 sideband bytes and the header of spec/19_span_fabric.md Table 19-1 (R373). -/
structure Flit where
  data : BitVec 512
  side : BitVec 64
  hdr : BitVec 64
  deriving DecidableEq, Repr

/-- An untimed packet: its header words and the 64-byte record and data of its flits (R388). -/
structure Packet where
  dst : Nat
  src : Nat
  engine : Nat
  seq : BitVec 32
  cls : Nat
  response : Bool
  record : BitVec 512
  data : List (BitVec 512)
  deriving DecidableEq, Repr

/-- A soft error (spec/18_integrity_repair.md R354, the row SOFT_ERROR): an uncorrectable or a correctable error in
8 bytes of a core's pool, an uncorrectable HBM4 column, or a flipped accumulator or margin bit. -/
inductive Upset where
  | poolWord (core : Nat) (addr : Nat) (correctable : Bool)
  | column (dpa : Nat) (correctable : Bool)
  | accumulator (ctx : Nat) (z : Nat) (i : Nat) (j : Nat) (bit : Nat)
  deriving DecidableEq, Repr

/-- What the steward writes with PARTITION_TABLE_WRITE (spec/16_scheduling.md R318, spec/14_dram_system.md R294,
spec/19_span_fabric.md R377). -/
inductive PartWrite where
  | cores (part : Nat) (cores : List Nat)
  | root (part : Nat) (dpa : Nat)
  | latches (part : Nat) (bay : Nat) (mask : BitVec 8)
  | circulation (pc : Nat) (slot : Nat) (entry : BitVec 8)
  | openBanks (pc : Nat) (mask : BitVec 32)
  | window (part : Nat) (pc : Nat) (base : BitVec 24) (count : BitVec 24)
  | timetable (link : Nat) (out : Bool) (slot : Nat) (kind : BitVec 2) (al : Bool) (part : Nat)
  deriving DecidableEq, Repr

/-- Registers that have no row of their own (REGISTER_WRITE, spec/00_scope.md R6): link registers, route-table entries,
queue descriptors with the function that writes (`none` for the steward), the end-to-end timer, the class of a function, a
mailbox's cmd, sts and page words, HBM4 mode registers, the contexts that the PF names for the 95 °C interrupt, the size of a
function's BAR2, and eight bytes of a function's BAR0 by their offset (spec/20_bringup_power.md R400). -/
inductive DevReg where
  | link (l : Nat)
  | route (dst : Nat)
  | queue (fn : Option Nat) (q : Nat) (word : Nat)
  | endTimer
  | functionClass (fn : Nat)
  | mailboxCmd (fn : Nat)
  | mailboxSts (fn : Nat)
  | mailboxArg (fn : Nat) (word : Nat)
  | unitMode (pc : Nat) (num : Nat)
  | hotContext (ctx : Nat)
  | barSize (fn : Nat)
  | bar0 (fn off : Nat)
  deriving DecidableEq, Repr

/-- One constructor for each row of spec/opcode_table.json. Constructors without operands stand last. -/
inductive Instr where
  -- K slot (spec/06_instr_control.md Table 06-1)
  | kTrap (n : BitVec 8)
  | kBr (g : Guard) (off : BitVec 19)
  | kCall (g : Guard) (off : BitVec 19)
  | kJr (g : Guard) (s : BitVec 5) (off : BitVec 14)
  | kRet (g : Guard)
  | kLoop (cnt : BitVec 8) (e : BitVec 11)
  | kLoopReg (s : BitVec 5) (e : BitVec 11)
  | kBrk (g : Guard)
  | kRot (v : Bool) (cnt : BitVec 6) (e : BitVec 11)
  | kRotReg (v : Bool) (s : BitVec 5) (e : BitVec 11)
  | kHold (s : BitVec 5)
  | kWait (m : BitVec 8)
  | kArrive (b : BitVec 2) (bar : BitVec 8)
  | kBwait (b : BitVec 2)
  | kSpawn (g : Guard) (pd : BitVec 4) (sh : BitVec 6) (idx : BitVec 9)
  | kChk (grp : BitVec 3) (m : BitVec 4) (off : BitVec 12)
  | kMsr (s : BitVec 5) (num : BitVec 10)
  | kMrs (s : BitVec 5) (num : BitVec 10)
  | kInval (s : BitVec 5) (tk : BitVec 3)
  | kInvalAll (tk : BitVec 3)
  | kMode (il : Bool)
  -- A and B slots (spec/07_instr_scalar.md Table 07-1)
  | nop (u : AB)
  | add (u : AB) (g : Guard) (d s t : BitVec 5)
  | sub (u : AB) (g : Guard) (d s t : BitVec 5)
  | and (u : AB) (g : Guard) (d s t : BitVec 5)
  | or (u : AB) (g : Guard) (d s t : BitVec 5)
  | xor (u : AB) (g : Guard) (d s t : BitVec 5)
  | andn (u : AB) (g : Guard) (d s t : BitVec 5)
  | min (u : AB) (g : Guard) (d s t : BitVec 5)
  | max (u : AB) (g : Guard) (d s t : BitVec 5)
  | minn (u : AB) (g : Guard) (d s t : BitVec 5)
  | maxn (u : AB) (g : Guard) (d s t : BitVec 5)
  | shl (u : AB) (g : Guard) (d s t : BitVec 5)
  | shr (u : AB) (g : Guard) (d s t : BitVec 5)
  | sar (u : AB) (g : Guard) (d s t : BitVec 5)
  | rol (u : AB) (g : Guard) (d s t : BitVec 5)
  | popc (u : AB) (g : Guard) (d s : BitVec 5)
  | clz (u : AB) (g : Guard) (d s : BitVec 5)
  | brev (u : AB) (g : Guard) (d s : BitVec 5)
  | bfx (u : AB) (g : Guard) (d s t : BitVec 5)
  | bfxs (u : AB) (g : Guard) (d s t : BitVec 5)
  | bfi (u : AB) (g : Guard) (d s t : BitVec 5)
  | mul (u : AB) (g : Guard) (d s t : BitVec 5)
  | mulh (u : AB) (g : Guard) (d s t : BitVec 5)
  | mulhn (u : AB) (g : Guard) (d s t : BitVec 5)
  | eq (u : AB) (g : Guard) (pd : BitVec 4) (s t : BitVec 5)
  | ne (u : AB) (g : Guard) (pd : BitVec 4) (s t : BitVec 5)
  | lt (u : AB) (g : Guard) (pd : BitVec 4) (s t : BitVec 5)
  | ltn (u : AB) (g : Guard) (pd : BitVec 4) (s t : BitVec 5)
  | le (u : AB) (g : Guard) (pd : BitVec 4) (s t : BitVec 5)
  | len (u : AB) (g : Guard) (pd : BitVec 4) (s t : BitVec 5)
  | pand (u : AB) (g : Guard) (pd ps pt : BitVec 4)
  | por (u : AB) (g : Guard) (pd ps pt : BitVec 4)
  | pxor (u : AB) (g : Guard) (pd ps pt : BitVec 4)
  | pandn (u : AB) (g : Guard) (pd ps pt : BitVec 4)
  | sel (u : AB) (g : Guard) (d s t : BitVec 5) (pn : BitVec 4)
  | getOther (u : AB) (g : Guard) (d s : BitVec 5)
  | getL (u : AB) (g : Guard) (d s : BitVec 5)
  | getN (u : AB) (g : Guard) (d : BitVec 5) (s : BitVec 4)
  | getD (u : AB) (g : Guard) (d : BitVec 5) (s : BitVec 4)
  | addImm (u : AB) (g : Guard) (d s : BitVec 5) (imm : BitVec 9)
  | andImm (u : AB) (g : Guard) (d s : BitVec 5) (imm : BitVec 9)
  | orImm (u : AB) (g : Guard) (d s : BitVec 5) (imm : BitVec 9)
  | xorImm (u : AB) (g : Guard) (d s : BitVec 5) (imm : BitVec 9)
  | shlImm (u : AB) (g : Guard) (d s : BitVec 5) (amt : BitVec 6)
  | shrImm (u : AB) (g : Guard) (d s : BitVec 5) (amt : BitVec 6)
  | sarImm (u : AB) (g : Guard) (d s : BitVec 5) (amt : BitVec 6)
  | rolImm (u : AB) (g : Guard) (d s : BitVec 5) (amt : BitVec 6)
  | eqImm (u : AB) (g : Guard) (pd : BitVec 4) (s : BitVec 5) (imm : BitVec 6)
  | neImm (u : AB) (g : Guard) (pd : BitVec 4) (s : BitVec 5) (imm : BitVec 6)
  | ltImm (u : AB) (g : Guard) (pd : BitVec 4) (s : BitVec 5) (imm : BitVec 6)
  | ltnImm (u : AB) (g : Guard) (pd : BitVec 4) (s : BitVec 5) (imm : BitVec 6)
  | leImm (u : AB) (g : Guard) (pd : BitVec 4) (s : BitVec 5) (imm : BitVec 6)
  | lenImm (u : AB) (g : Guard) (pd : BitVec 4) (s : BitVec 5) (imm : BitVec 6)
  | li (u : AB) (d : BitVec 5) (imm : BitVec 16)
  | lui (u : AB) (d : BitVec 5) (imm : BitVec 16)
  | rsr (u : AB) (d : BitVec 5) (num : BitVec 10)
  -- V slot (spec/08_instr_vector.md Tables 08-1, 08-2)
  | vAdd (t : ElemType) (q : BitVec 2) (vd vs vt : BitVec 6)
  | vSub (t : ElemType) (q : BitVec 2) (vd vs vt : BitVec 6)
  | vMul (t : ElemType) (q : BitVec 2) (vd vs vt : BitVec 6)
  | vFma (t : ElemType) (q : BitVec 2) (vd vs vt : BitVec 6)
  | vMin (t : ElemType) (q : BitVec 2) (vd vs vt : BitVec 6)
  | vMax (t : ElemType) (q : BitVec 2) (vd vs vt : BitVec 6)
  | vAbs (t : ElemType) (q : BitVec 2) (vd vs : BitVec 6)
  | vNeg (t : ElemType) (q : BitVec 2) (vd vs : BitVec 6)
  | vNot (t : ElemType) (q : BitVec 2) (vd vs : BitVec 6)
  | vExp2 (t : ElemType) (q : BitVec 2) (vd vs : BitVec 6)
  | vRcp (t : ElemType) (q : BitVec 2) (vd vs : BitVec 6)
  | vRsqrt (t : ElemType) (q : BitVec 2) (vd vs : BitVec 6)
  | vQp (t : ElemType) (q : BitVec 2) (qd : BitVec 2) (p : BitVec 4)
  | vGet (t : ElemType) (q : BitVec 2) (vd : BitVec 6) (l : BitVec 5)
  | vAnd (t : ElemType) (q : BitVec 2) (vd vs vt : BitVec 6)
  | vOr (t : ElemType) (q : BitVec 2) (vd vs vt : BitVec 6)
  | vXor (t : ElemType) (q : BitVec 2) (vd vs vt : BitVec 6)
  | vAndn (t : ElemType) (q : BitVec 2) (vd vs vt : BitVec 6)
  | vShl (t : ElemType) (q : BitVec 2) (vd vs : BitVec 6) (amt : BitVec 6)
  | vShr (t : ElemType) (q : BitVec 2) (vd vs : BitVec 6) (amt : BitVec 6)
  | vSar (t : ElemType) (q : BitVec 2) (vd vs : BitVec 6) (amt : BitVec 6)
  | vEq (t : ElemType) (q : BitVec 2) (qd : BitVec 2) (vs vt : BitVec 6)
  | vNe (t : ElemType) (q : BitVec 2) (qd : BitVec 2) (vs vt : BitVec 6)
  | vLt (t : ElemType) (q : BitVec 2) (qd : BitVec 2) (vs vt : BitVec 6)
  | vLe (t : ElemType) (q : BitVec 2) (qd : BitVec 2) (vs vt : BitVec 6)
  | vSel (t : ElemType) (q : BitVec 2) (vd vs vt : BitVec 6)
  | vCvt (t : ElemType) (q : BitVec 2) (vd vs : BitVec 6) (mode : BitVec 3) (target : ElemType)
  | vCvtSr (t : ElemType) (q : BitVec 2) (vd vs vt : BitVec 6)
  | vQuant (vd vs : BitVec 6) (mode : BitVec 2) (target : BitVec 4)
  | vHash (q : BitVec 2) (vd vs vt : BitVec 6)
  | vScan (t : ElemType) (q : BitVec 2) (vd vs : BitVec 6) (segq : BitVec 2) (seg : Bool) (op : BitVec 2) (excl : Bool)
  | vRed (t : ElemType) (q : BitVec 2) (vd vs : BitVec 6) (op : BitVec 2)
  | vPerm (t : ElemType) (q : BitVec 2) (vd vs vt : BitVec 6)
  | vBcast (t : ElemType) (q : BitVec 2) (vd vs : BitVec 6) (grp : BitVec 6)
  | vWiden (t : ElemType) (q : BitVec 2) (vd vs : BitVec 6)
  | vNarrow (t : ElemType) (q : BitVec 2) (vd vs : BitVec 6)
  | vLd (t : ElemType) (q : BitVec 2) (vd : BitVec 6) (l : BitVec 5) (off : BitVec 6)
  | vLdS (t : ElemType) (q : BitVec 2) (vd : BitVec 6) (l : BitVec 5) (off : BitVec 6)
  | vLdt (t : ElemType) (q : BitVec 2) (vd : BitVec 6) (l : BitVec 5) (off : BitVec 6)
  | vSt (t : ElemType) (q : BitVec 2) (l : BitVec 5) (vs : BitVec 6) (off : BitVec 6)
  | vLdz (t : ElemType) (q : BitVec 2) (vd : BitVec 6) (z : BitVec 4) (grp : BitVec 4)
  -- L slot (spec/09_instr_scratchpad.md Table 09-1)
  | lLd (g : Guard) (d s : BitVec 5) (sz : BitVec 2) (x : Bool) (off : BitVec 6)
  | lSt (g : Guard) (v s : BitVec 5) (sz : BitVec 2) (off : BitVec 6)
  | lLdx (g : Guard) (d s t : BitVec 5) (sz : BitVec 2) (x sc : Bool)
  | lStx (g : Guard) (v s t : BitVec 5) (sz : BitVec 2) (sc : Bool)
  | lLdS (g : Guard) (d s : BitVec 5) (sz : BitVec 2) (x : Bool) (off : BitVec 6)
  | lAdd (g : Guard) (d s t : BitVec 5)
  | lAddImm (g : Guard) (d s : BitVec 5) (imm : BitVec 7)
  | lAddImm64 (g : Guard) (d s : BitVec 5) (imm : BitVec 7)
  | lClaim (g : Guard) (sh : BitVec 6)
  | lClaimDecl (g : Guard) (r : BitVec 5) (sh : BitVec 6)
  | lPub (g : Guard) (sh : BitVec 6)
  | lDrain (g : Guard) (sh : BitVec 6)
  | lRel (g : Guard) (sh : BitVec 6)
  | lRelB (g : Guard) (sh : BitVec 6)
  | lSst (g : Guard) (d : BitVec 5) (sh : BitVec 6)
  | lGetA (g : Guard) (d s : BitVec 5)
  | lGetB (g : Guard) (d s : BitVec 5)
  | lGetN (g : Guard) (d : BitVec 5) (s : BitVec 4)
  | lGetD (g : Guard) (d : BitVec 5) (s : BitVec 4)
  -- M slot (spec/10_instr_matrix.md Table 10-1)
  | mFmt (g : Guard) (sel : BitVec 2) (word : BitVec 17)
  | mLdb (g : Guard) (s : BitVec 5) (gen : Bool) (off : BitVec 13)
  | mLdbt (g : Guard) (s : BitVec 5) (gen : Bool) (off : BitVec 13)
  | mMulSet (g : Guard) (z : BitVec 4) (asrc : BitVec 2) (wide : Bool) (a : BitVec 5)
  | mMulAcc (g : Guard) (z : BitVec 4) (asrc : BitVec 2) (wide : Bool) (a : BitVec 5)
  | mMulPch (g : Guard) (z : BitVec 4) (asrc : BitVec 2) (wide : Bool) (a : BitVec 5)
  | mMulPq (g : Guard) (z : BitVec 4) (asrc : BitVec 2) (wide : Bool) (a : BitVec 5) (pq : BitVec 4)
  | mDrain (g : Guard) (z : BitVec 4) (l : BitVec 5) (e : BitVec 4) (wide pub : Bool)
  | mDrainQueue (g : Guard) (z : BitVec 4) (lq : BitVec 4) (e : BitVec 4) (wide : Bool)
  | mChk (g : Guard) (z : BitVec 4) (e : BitVec 4) (wide : Bool)
  | mZero (g : Guard) (z : BitVec 4)
  | mChain (g : Guard) (af pf : Bool)
  | mTol (g : Guard) (e : BitVec 4) (s : BitVec 5)
  -- N slot (spec/12_instr_network.md Table 12-1)
  | nSend (g : Guard) (lq : BitVec 4) (s : BitVec 5) (off : BitVec 10)
  | nRecv (g : Guard) (lq : BitVec 4) (s : BitVec 5) (off : BitVec 10)
  | nFwd (g : Guard) (m : BitVec 4) (lq : BitVec 4)
  | nBsend (g : Guard) (c : BitVec 3) (s : BitVec 4)
  | nBlatch (g : Guard) (d : BitVec 4) (c : BitVec 3)
  | nQfmt (g : Guard) (lq : BitVec 4) (s : BitVec 4)
  | nLoan (g : Guard) (s : BitVec 5) (off : BitVec 14)
  | nFence (g : Guard) (sc : BitVec 3)
  | nRed (g : Guard) (m : BitVec 4) (lq : BitVec 4) (s : BitVec 5) (ty : Bool)
  | nQsl (g : Guard) (lq : BitVec 4) (clr : Bool) (k : BitVec 6)
  | nGetA (g : Guard) (d : BitVec 4) (s : BitVec 5)
  | nGetB (g : Guard) (d : BitVec 4) (s : BitVec 5)
  | nGetL (g : Guard) (d : BitVec 4) (s : BitVec 5)
  | nGetD (g : Guard) (d : BitVec 4) (s : BitVec 4)
  -- D slot (spec/11_instr_dram.md Table 11-1)
  | dNopReserve (d : BitVec 4) (u : BitVec 2) (f : BitVec 5) (cnt : BitVec 8)
  | dGet (d : BitVec 4) (f : BitVec 5)
  | dIncRow (d : BitVec 4) (f : BitVec 5)
  | dIncBank (d : BitVec 4) (f : BitVec 5)
  | dAct (g : Guard) (d : BitVec 4) (u : BitVec 2) (f : BitVec 5)
  | dPre (g : Guard) (d : BitVec 4) (u : BitVec 2) (f : BitVec 5)
  | dPrea (g : Guard) (d : BitVec 4) (u : BitVec 2) (f : BitVec 5)
  | dRd (g : Guard) (d : BitVec 4) (s : BitVec 5) (cnt : BitVec 6) (last : Bool)
  | dWr (g : Guard) (d : BitVec 4) (s : BitVec 5) (cnt : BitVec 6) (rel : Bool)
  | dRef (g : Guard) (d : BitVec 4) (u : BitVec 2) (f : BitVec 5)
  | dRefpb (g : Guard) (d : BitVec 4) (u : BitVec 2) (f : BitVec 5)
  | dSre (g : Guard) (d : BitVec 4) (u : BitVec 2) (f : BitVec 5)
  | dSrx (g : Guard) (d : BitVec 4) (u : BitVec 2) (f : BitVec 5)
  | dPde (g : Guard) (d : BitVec 4) (u : BitVec 2) (f : BitVec 5)
  | dPdx (g : Guard) (d : BitVec 4) (u : BitVec 2) (f : BitVec 5)
  | dMrs (g : Guard) (d : BitVec 4) (s : BitVec 5)
  | dWin (g : Guard) (d : BitVec 4) (s : BitVec 5)
  -- Issue, landing and scratchpad steps
  | issueSelection (core : Nat)
  | quietBoundExpiry (ctx : Nat)
  | retimingRelease (ctx : Nat)
  | resultLanding (o : Origin) (w : Write)
  | shelfTransitionApply (o : Origin) (sh : Nat) (tr : Trans)
  | scalarLoadSample (o : Origin) (acc : Access) (d : Nat) (x : Bool) (spec : Bool)
  | scalarStorePerform (o : Origin) (acc : Access) (v : Reg)
  | vectorLoadSample (o : Origin) (l : VLoad)
  | vectorStorePerform (o : Origin) (acc : Access) (cells : List (Nat × Byte))
  -- Array and drain steps
  | stationaryLoadComplete (o : Origin)
  | arrayRowUpdate (o : Origin) (i : Nat)
  | drainRowRead (o : Origin) (i : Nat)
  | drainVerdict (o : Origin)
  | elementRecompute (o : Origin)
  | drainRowWrite (o : Origin) (i : Nat)
  | drainComplete (o : Origin)
  -- DRAM steps
  | commandArrival (c : DCmd)
  | readBurstLanding (o : Origin) (j : Nat) (b : Burst) (data : BitVec 256) (poison : Bool)
  | writeBurstSample (o : Origin) (j : Nat) (b : Burst)
  -- Link steps
  | flitDeparture (link : Nat) (f : Flit)
  | flitArrival (link : Nat) (f : Flit)
  | replay (link : Nat)
  | linkDown (link : Nat)
  | receiveOrderPass (link : Nat)
  | passThrough (link : Nat) (f : Flit)
  | recvShelfWrite (o : Origin) (acc : Access) (data : BitVec 512)
  | bayLatchWrite (o : Origin) (bay : Nat) (c : Nat) (v : Reg)
  | spanMarkerReceive (link : Nat) (c : BitVec 64)
  | countStep (slip : Int)
  -- Loan steps; `id` is the number of the loan
  | loanCompletion (id : Nat)
  | loanDelivery (id : Nat)
  | invalidationComplete (id : Nat)
  | homeRequest (p : Packet)
  | packetRoute (p : Packet)
  | packetResponse (p : Packet)
  | endToEndTimerExpiry (home : Nat) (engine : Nat) (seq : BitVec 32)
  -- DRAM controller steps
  | openSlotIssue (pc : Nat)
  | refreshRateChange (double : Bool)
  -- Trap, record and launch steps
  | trapEntry (ctx : Nat)
  | resumptionFromRecord (ctx : Nat)
  | contextEnd (ctx : Nat)
  | contextSave (ctx : Nat)
  | launchCheck (id : Nat)
  | launchStart (id : Nat)
  | launchEnd (id : Nat)
  | childPlacement (die : Nat)
  -- Host steps; `fn` is the PCIe function (0 PF, n VFn)
  | hostMemoryRead (fn : Nat) (off : Nat) (len : Nat)
  | hostMemoryWrite (fn : Nat) (off : Nat) (bytes : List Byte) (ep : Bool)
  | hostFetchadd (fn : Nat) (off : Nat) (size : Nat) (v : Reg)
  | hostSwap (fn : Nat) (off : Nat) (size : Nat) (v : Reg)
  | hostCas (fn : Nat) (off : Nat) (size : Nat) (cmp : Reg) (v : Reg)
  | queueDoorbell (q : Nat)
  | queuePoll (q : Nat)
  -- Start, power and repair steps
  | powerSample (milliwatts : Nat)
  | temperatureSample (die : Nat) (millidegrees : Nat)
  | dieStatusPoll (die : Nat) (answers : Bool)
  | reserveCoreTakeover (core : Nat)
  | spareDieTakeover (die : Nat)
  | saveDeadlineExpiry (die : Nat)
  | statusOverrunClear (fn : Nat)
  | registerWrite (r : DevReg) (v : BitVec 64)
  | softError (u : Upset)
  | partitionTableWrite (w : PartWrite)
  -- Rows of the loan engine: they work on the loan that State names as the one being performed
  | loanCopy
  | loanGather
  | loanScatter
  | loanScatterAccumulate
  | loanFill
  | loanDeposit
  | atomicAdd
  | atomicMin
  | atomicMax
  | atomicAnd
  | atomicOr
  | atomicXor
  | atomicSwap
  | atomicCas
  | remotePublish
  | remoteBarrierArrive
  | ownershipTokenAcquire
  | ownershipTokenRelease
  -- Mailbox commands (spec/20_bringup_power.md R400): their operands are the mailbox registers of State
  | status
  | warmStart
  | coldStart
  | launch
  | endLaunch
  | preEmpt
  | restore
  | invalidate
  | breakpoints
  | hostInterrupt
  | windowFigures
  | telemetry
  | functionBinding
  | attestation
  | imageWrite
  | clearQuarantine
  -- Rows without operands
  | kNop
  | kQuiet
  | kYield
  | kRti
  | kHalt
  | vNop
  | lNop
  | mNop
  | nNop
  | dNop
  | spanMarkerSend
  | refreshDebtGain
  | selfRefreshTimer
  | powerOn
  | pcieHotReset
  | startTimeout
  | restartAfterFailure
  | startLogClear
  | coolantFlowLost
  | powerLoss
  deriving DecidableEq, Repr

end Sys2Proof
end

