-- ==== Sys2Proof/WellFormed.lean ====
section
/-!
DEFINITION. Which terms of `Instr` are well-formed: the operand values that the encodings admit
(spec/05_opcode_map.md R107 to R115 and the slot chapters), and for the other rows the numbers the part has.
-/

namespace Sys2Proof

/-- Special-register numbers of Table 05-5. -/
def specialNumber (n : Nat) : Bool :=
  decide (n ≤ 0xE) || (decide (0x10 ≤ n) && decide (n ≤ 0x14)) || n == 0x18 || n == 0x19 ||
    (decide (0x20 ≤ n) && decide (n ≤ 0x2F))

/-- Integer and floating element types (Table 02-4). -/
def ElemType.isFloat : ElemType → Bool
  | .f32 => true
  | .bf16 => true
  | .f16 => true
  | _ => false

/-- The T code of an element type (Table 02-4). -/
def ElemType.code : ElemType → Nat
  | .f32 => 0
  | .bf16 => 1
  | .f16 => 2
  | .i32 => 4
  | .i16 => 5
  | .i8 => 6

/-- Width of an element in bytes. -/
def ElemType.width : ElemType → Nat
  | .f32 => 4
  | .bf16 => 2
  | .f16 => 2
  | .i32 => 4
  | .i16 => 2
  | .i8 => 1

/-- Types that `v.widen` and `v.narrow` accept (Table 08-1). -/
def ElemType.widens : ElemType → Bool
  | .bf16 => true
  | .f16 => true
  | .i16 => true
  | .i8 => true
  | _ => false

/-- Whether a format word is invalid (spec/04_number_formats.md R85). -/
def formatInvalid (w : Nat) : Bool :=
  let code := w % 32
  let bw := w / 32 % 16
  let sgn := w / 512 % 2
  let sym := w / 1024 % 2
  let xsub := w / 2048 % 4
  let rnd := w / 8192 % 8
  let block := (decide (5 ≤ code) && decide (code ≤ 0xA)) || code == 0xD
  let int := code == 0xB || code == 0xC
  decide (0xE ≤ code) ||
  (if code == 0xD then decide (bw < 2) || decide (8 < bw) else bw != 0) ||
  (sgn == 1 && !int) ||
  (sym == 1 && !(code == 0xA || code == 0xD || (int && sgn == 1))) ||
  (xsub != 0 && !block) || xsub == 3 || decide (4 ≤ rnd) || decide (131072 ≤ w)

/-- Whether the A source of an `m.mul` is encoded without reserved bits (spec/10_instr_matrix.md R197). -/
def mulSourceOk (asrc : BitVec 2) (a : BitVec 5) : Bool :=
  match asrc.toNat with
  | 0 => true
  | 1 => a == 0
  | 2 => decide (a.toNat < 16)
  | _ => false

/-- The update fields of a D slot: without an update, f is reserved (Table 11-1, Table 11-2). -/
def updateOk (u : BitVec 2) (f : BitVec 5) : Bool := u != 0 || f == 0

/-- The scalar load sizes: 64-bit loads have no sign extension (spec/09_instr_scratchpad.md R182). -/
def loadSizeOk (sz : BitVec 2) (x : Bool) : Bool := !(sz == 3 && x)

/-- A write of the steward's tables that names what the device has: partitions 0 to 15, cores of the eight dies, bays, bank
and link entries (spec/16_scheduling.md R318, spec/14_dram_system.md Table 14-3, spec/19_span_fabric.md R377). -/
def PartWrite.ok : PartWrite → Bool
  | .cores part l => decide (part < 16) && l.all (fun c => decide (c < 288))
  | .root part _ => decide (part < 16)
  | .latches part bay _ => decide (part < 16) && decide (bay < 48)
  | .circulation pc slot _ => decide (pc < 512) && decide (slot < 64)
  | .openBanks pc _ => decide (pc < 512)
  | .window part pc _ _ => decide (part < 16) && decide (pc < 512)
  | .timetable link _ slot _ _ part => decide (link < 24) && decide (slot < 256) && decide (part < 16)

/-- A register of the device's own: links 0 to 23, devices below 2,048, queues 0 to 255 of eight words, functions 0 to 15 with
the argument and result words of their mailbox page at 0x040 to 0xFFF, contexts of the eight dies, and aligned offsets of a
BAR0 of 64 MiB. -/
def DevReg.ok : DevReg → Bool
  | .link l => decide (l < 24)
  | .route dst => decide (dst < 2048)
  | .queue fn q word => decide (fn.getD 0 < 16) && decide (q < 256) && decide (word < 8)
  | .endTimer => true
  | .functionClass fn => decide (fn < 16)
  | .mailboxCmd fn => decide (fn < 16)
  | .mailboxSts fn => decide (fn < 16)
  | .mailboxArg fn word => decide (fn < 16) && decide (word < 504)
  | .unitMode pc num => decide (pc < 512) && decide (num < 12)
  | .hotContext ctx => decide (ctx < 1152)
  | .barSize fn => decide (fn < 16)
  | .bar0 fn off => decide (fn < 16) && decide (off < 2 ^ 26) && off % 8 == 0

/-- Well-formed instructions: every operand at a value that its encoding or the part admits. -/
def Instr.wf : Instr → Bool
  | .kMsr _ num => specialNumber num.toNat
  | .kMrs _ num => specialNumber num.toNat
  | .rsr _ _ num => specialNumber num.toNat
  | .vExp2 t _ _ _ => t.isFloat
  | .vRcp t _ _ _ => t.isFloat
  | .vRsqrt t _ _ _ => t.isFloat
  | .vShl t _ _ _ _ => !t.isFloat
  | .vShr t _ _ _ _ => !t.isFloat
  | .vSar t _ _ _ _ => !t.isFloat
  | .vCvt _ _ _ _ mode _ => decide (mode.toNat < 4)
  | .vCvtSr t _ _ _ _ => t != .f32
  | .vQuant _ _ _ target => decide (target.toNat < 13)
  | .vHash _ _ _ vt => vt.toNat % 2 == 0
  | .vScan _ _ _ _ segq seg op _ => decide (op.toNat < 3) && (seg || segq == 0)
  | .vRed _ _ _ _ op => decide (op.toNat < 3)
  | .vBcast _ _ _ _ grp => decide (grp.toNat < 14)
  | .vWiden t _ vd _ => t.widens && vd.toNat % 2 == 0
  | .vNarrow t _ _ vs => t.widens && vs.toNat % 2 == 0
  | .vLdz t _ _ _ _ => t == .f32 || t == .i32
  | .lLd _ _ _ sz x _ => loadSizeOk sz x
  | .lLdx _ _ _ _ sz x _ => loadSizeOk sz x
  | .lLdS _ _ _ sz x _ => loadSizeOk sz x
  | .mFmt _ which word => decide (which.toNat < 3) && !formatInvalid word.toNat
  | .mMulSet _ z asrc wide a => mulSourceOk asrc a && !(wide && z.toNat % 2 == 1)
  | .mMulAcc _ z asrc wide a => mulSourceOk asrc a && !(wide && z.toNat % 2 == 1)
  | .mMulPch _ _ asrc wide a => mulSourceOk asrc a && !wide
  | .mMulPq _ _ asrc wide a _ => mulSourceOk asrc a && !wide
  | .mDrain _ z _ _ wide _ => !(wide && z.toNat % 2 == 1)
  | .mDrainQueue _ z _ _ wide => !(wide && z.toNat % 2 == 1)
  | .mChk _ z _ wide => !(wide && z.toNat % 2 == 1)
  | .nFence _ sc => decide (sc.toNat < 7)
  | .dNopReserve _ u f cnt => updateOk u f && cnt != 0
  | .dAct _ _ u f => updateOk u f
  | .dPre _ _ u f => updateOk u f
  | .dPrea _ _ u f => updateOk u f
  | .dRef _ _ u f => updateOk u f
  | .dRefpb _ _ u f => updateOk u f
  | .dSre _ _ u f => updateOk u f
  | .dSrx _ _ u f => updateOk u f
  | .dPde _ _ u f => updateOk u f
  | .dPdx _ _ u f => updateOk u f
  | .issueSelection core => decide (core < 288)
  | .quietBoundExpiry ctx => decide (ctx < 1152)
  | .retimingRelease ctx => decide (ctx < 1152)
  | .trapEntry ctx => decide (ctx < 1152)
  | .resumptionFromRecord ctx => decide (ctx < 1152)
  | .contextEnd ctx => decide (ctx < 1152)
  | .contextSave ctx => decide (ctx < 1152)
  | .childPlacement die => decide (die < 8)
  | .flitDeparture link _ => decide (link < 24)
  | .flitArrival link _ => decide (link < 24)
  | .replay link => decide (link < 24)
  | .linkDown link => decide (link < 24)
  | .receiveOrderPass link => decide (link < 24)
  | .passThrough link _ => decide (link < 24)
  | .spanMarkerReceive link _ => decide (link < 24)
  | .openSlotIssue pc => decide (pc < 512)
  | .queueDoorbell q => decide (q < 256)
  | .queuePoll q => decide (q < 256)
  | .temperatureSample die _ => decide (die < 9)
  | .dieStatusPoll die _ => decide (die < 9)
  | .spareDieTakeover die => decide (die < 9)
  | .saveDeadlineExpiry die => decide (die < 9)
  | .reserveCoreTakeover core => decide (core < 378)
  | .registerWrite r _ => r.ok
  | .partitionTableWrite w => w.ok
  | .statusOverrunClear fn => decide (fn < 16)
  | _ => true

/-- Which V and Z registers an instruction names, in the order its fields are read: file (0 v, 1 z) and number
(spec/05_opcode_map.md Table 05-3, spec/01_machine_state.md R11). A pair names its partner too (R159, R197). -/
def Instr.named : Instr → List (Nat × Nat)
  | .vAdd _ _ vd vs vt => [(0, vd.toNat), (0, vs.toNat), (0, vt.toNat)]
  | .vSub _ _ vd vs vt => [(0, vd.toNat), (0, vs.toNat), (0, vt.toNat)]
  | .vMul _ _ vd vs vt => [(0, vd.toNat), (0, vs.toNat), (0, vt.toNat)]
  | .vFma _ _ vd vs vt => [(0, vd.toNat), (0, vs.toNat), (0, vt.toNat)]
  | .vMin _ _ vd vs vt => [(0, vd.toNat), (0, vs.toNat), (0, vt.toNat)]
  | .vMax _ _ vd vs vt => [(0, vd.toNat), (0, vs.toNat), (0, vt.toNat)]
  | .vAbs _ _ vd vs => [(0, vd.toNat), (0, vs.toNat)]
  | .vNeg _ _ vd vs => [(0, vd.toNat), (0, vs.toNat)]
  | .vNot _ _ vd vs => [(0, vd.toNat), (0, vs.toNat)]
  | .vExp2 _ _ vd vs => [(0, vd.toNat), (0, vs.toNat)]
  | .vRcp _ _ vd vs => [(0, vd.toNat), (0, vs.toNat)]
  | .vRsqrt _ _ vd vs => [(0, vd.toNat), (0, vs.toNat)]
  | .vGet _ _ vd _ => [(0, vd.toNat)]
  | .vAnd _ _ vd vs vt => [(0, vd.toNat), (0, vs.toNat), (0, vt.toNat)]
  | .vOr _ _ vd vs vt => [(0, vd.toNat), (0, vs.toNat), (0, vt.toNat)]
  | .vXor _ _ vd vs vt => [(0, vd.toNat), (0, vs.toNat), (0, vt.toNat)]
  | .vAndn _ _ vd vs vt => [(0, vd.toNat), (0, vs.toNat), (0, vt.toNat)]
  | .vShl _ _ vd vs _ => [(0, vd.toNat), (0, vs.toNat)]
  | .vShr _ _ vd vs _ => [(0, vd.toNat), (0, vs.toNat)]
  | .vSar _ _ vd vs _ => [(0, vd.toNat), (0, vs.toNat)]
  | .vEq _ _ _ vs vt => [(0, vs.toNat), (0, vt.toNat)]
  | .vNe _ _ _ vs vt => [(0, vs.toNat), (0, vt.toNat)]
  | .vLt _ _ _ vs vt => [(0, vs.toNat), (0, vt.toNat)]
  | .vLe _ _ _ vs vt => [(0, vs.toNat), (0, vt.toNat)]
  | .vSel _ _ vd vs vt => [(0, vd.toNat), (0, vs.toNat), (0, vt.toNat)]
  | .vCvt _ _ vd vs _ _ => [(0, vd.toNat), (0, vs.toNat)]
  | .vCvtSr _ _ vd vs vt => [(0, vd.toNat), (0, vs.toNat), (0, vt.toNat)]
  | .vQuant vd vs _ _ => [(0, vd.toNat), (0, vs.toNat)]
  | .vHash _ vd vs vt => [(0, vd.toNat), (0, vs.toNat), (0, vt.toNat), (0, vt.toNat + 1)]
  | .vScan _ _ vd vs _ _ _ _ => [(0, vd.toNat), (0, vs.toNat)]
  | .vRed _ _ vd vs _ => [(0, vd.toNat), (0, vs.toNat)]
  | .vPerm _ _ vd vs vt => [(0, vd.toNat), (0, vs.toNat), (0, vt.toNat)]
  | .vBcast _ _ vd vs _ => [(0, vd.toNat), (0, vs.toNat)]
  | .vWiden _ _ vd vs => [(0, vd.toNat), (0, vd.toNat + 1), (0, vs.toNat)]
  | .vNarrow _ _ vd vs => [(0, vd.toNat), (0, vs.toNat), (0, vs.toNat + 1)]
  | .vLd _ _ vd _ _ => [(0, vd.toNat)]
  | .vLdS _ _ vd _ _ => [(0, vd.toNat)]
  | .vLdt _ _ vd _ _ => [(0, vd.toNat)]
  | .vSt _ _ _ vs _ => [(0, vs.toNat)]
  | .vLdz _ _ vd z _ => [(0, vd.toNat), (1, z.toNat)]
  | .mMulSet _ z _ wide _ => if wide then [(1, z.toNat), (1, z.toNat + 1)] else [(1, z.toNat)]
  | .mMulAcc _ z _ wide _ => if wide then [(1, z.toNat), (1, z.toNat + 1)] else [(1, z.toNat)]
  | .mMulPch _ z _ wide _ => if wide then [(1, z.toNat), (1, z.toNat + 1)] else [(1, z.toNat)]
  | .mMulPq _ z _ wide _ _ => if wide then [(1, z.toNat), (1, z.toNat + 1)] else [(1, z.toNat)]
  | .mDrain _ z _ _ wide _ => if wide then [(1, z.toNat), (1, z.toNat + 1)] else [(1, z.toNat)]
  | .mDrainQueue _ z _ _ wide => if wide then [(1, z.toNat), (1, z.toNat + 1)] else [(1, z.toNat)]
  | .mChk _ z _ wide => if wide then [(1, z.toNat), (1, z.toNat + 1)] else [(1, z.toNat)]
  | .mZero _ z => [(1, z.toNat)]
  | _ => []

/-- The first register that an instruction names and a context with `vg` V granules and `zg` accumulators lacks. -/
def Instr.missing (vg zg : Nat) (i : Instr) : Option (Nat × Nat) :=
  i.named.find? (fun r => if r.1 == 0 then decide (8 * vg ≤ r.2) else decide (zg ≤ r.2))

end Sys2Proof
end

