-- ==== Sys2Proof/Decode.lean ====
section
/-!
DEFINITION. The decoder and the encoder of slot words (spec/02_bundles_and_encoding.md R47 to R52,
spec/05_opcode_map.md R107 to R115 and the layout table of each slot chapter).
-/

namespace Sys2Proof

/-- Why a slot word is refused (spec/05_opcode_map.md Tables 05-2 and 05-3): the reason, for reason 4 the file and the
register, for reason 7 the detail. -/
structure Illegal where
  why : Nat
  file : Nat := 0
  index : Nat := 0
  detail : Nat := 0
  deriving DecidableEq, Repr

/-- `n` bits of a word from bit `lo` on. -/
def fld (w : Word) (lo n : Nat) : BitVec n := BitVec.ofNat n (w.toNat / 2 ^ lo)

/-- One bit of a word. -/
def fbit (w : Word) (lo : Nat) : Bool := w.toNat / 2 ^ lo % 2 == 1

/-- Refuse with a reason unless the condition holds; the conditions of one form stand in rising order of reason, so the
lowest reason is reported (R110). -/
def need (c : Bool) (why : Nat) (k : Except Illegal Instr) : Except Illegal Instr :=
  if c then k else .error { why := why }

/-- Refuse for a reason 7 with its detail. -/
def need7 (c : Bool) (detail : Nat) (k : Except Illegal Instr) : Except Illegal Instr :=
  if c then k else .error { why := 7, detail := detail }

/-- A selector's form, or reason 2 where the sub-table lists the value as reserved. -/
def choose (o : Option Instr) : Except Illegal Instr :=
  match o with
  | some i => .ok i
  | none => .error { why := 2 }

/-- The first register that an instruction names and its context lacks: its file and its number. -/
abbrev Lacks := Instr → Option (Nat × Nat)

/-- Reason 4 when a named V or Z register does not exist (R11, Table 05-3), then the rest. -/
def needRegs (lacks : Lacks) (i : Instr) (k : Except Illegal Instr) : Except Illegal Instr :=
  match lacks i with
  | some (f, n) => .error { why := 4, file := f, index := n }
  | none => k

/-- The guard of a guarded form (R48). -/
def guardOf (w : Word) : Guard := ⟨fbit w 23, fld w 19 4⟩

/-- K slots (spec/06_instr_control.md Table 06-1). -/
def decodeK (w : Word) : Except Illegal Instr :=
  let g := guardOf w
  let noG := fld w 19 4 == 0
  match (fld w 23 5).toNat with
  | 0 => need (fld w 0 23 == 0) 3 (.ok .kNop)
  | 1 => need (noG && fld w 8 11 == 0) 3 (.ok (.kTrap (fld w 0 8)))
  | 2 => .ok (.kBr g (fld w 0 19))
  | 3 => .ok (.kBr g (fld w 0 19))
  | 4 => .ok (.kCall g (fld w 0 19))
  | 5 => .ok (.kCall g (fld w 0 19))
  | 6 => .ok (.kJr g (fld w 14 5) (fld w 0 14))
  | 7 => .ok (.kJr g (fld w 14 5) (fld w 0 14))
  | 8 => need (fld w 0 19 == 0) 3 (.ok (.kRet g))
  | 9 => need (fld w 0 19 == 0) 3 (.ok (.kRet g))
  | 10 => need noG 3 (.ok (.kLoop (fld w 11 8) (fld w 0 11)))
  | 11 => need (noG && fld w 11 3 == 0) 3 (.ok (.kLoopReg (fld w 14 5) (fld w 0 11)))
  | 12 => need (fld w 0 19 == 0) 3 (.ok (.kBrk g))
  | 13 => need (fld w 0 19 == 0) 3 (.ok (.kBrk g))
  | 14 =>
    if fbit w 17 then need (noG && !fbit w 16) 3 (.ok (.kRotReg (fbit w 18) (fld w 11 5) (fld w 0 11)))
    else need noG 3 (.ok (.kRot (fbit w 18) (fld w 11 6) (fld w 0 11)))
  | 15 => need (fld w 0 23 == 0) 3 (.ok .kQuiet)
  | 16 => need (noG && fld w 0 14 == 0) 3 (.ok (.kHold (fld w 14 5)))
  | 17 => need (noG && fld w 8 11 == 0) 3 (.ok (.kWait (fld w 0 8)))
  | 18 => need (noG && fld w 10 9 == 0) 3 (.ok (.kArrive (fld w 8 2) (fld w 0 8)))
  | 19 => need (noG && fld w 2 17 == 0) 3 (.ok (.kBwait (fld w 0 2)))
  | 20 => .ok (.kSpawn g (fld w 15 4) (fld w 9 6) (fld w 0 9))
  | 21 => .ok (.kSpawn g (fld w 15 4) (fld w 9 6) (fld w 0 9))
  | 22 => need (fld w 0 23 == 0) 3 (.ok .kYield)
  | 23 => need noG 3 (.ok (.kChk (fld w 16 3) (fld w 12 4) (fld w 0 12)))
  | 24 => need (fld w 0 23 == 0) 3 (.ok .kRti)
  | 25 =>
    need (specialNumber (fld w 4 10).toNat) 2
      (need (noG && fld w 0 4 == 0) 3 (.ok (.kMsr (fld w 14 5) (fld w 4 10))))
  | 26 =>
    need (specialNumber (fld w 4 10).toNat) 2
      (need (noG && fld w 0 4 == 0) 3 (.ok (.kMrs (fld w 14 5) (fld w 4 10))))
  | 27 =>
    need (noG && fld w 0 10 == 0) 3
      (if fbit w 13 then need (fld w 14 5 == 0) 3 (.ok (.kInvalAll (fld w 10 3)))
       else .ok (.kInval (fld w 14 5) (fld w 10 3)))
  | 28 => need (fld w 0 23 == 0) 3 (.ok .kHalt)
  | 29 => need (noG && fld w 1 18 == 0) 3 (.ok (.kMode (fbit w 0)))
  | _ => .error { why := 1 }

/-- ALU group (Table 05-4). -/
def aluForm (n : Nat) (u : AB) (g : Guard) (d s t : BitVec 5) : Option Instr :=
  match n with
  | 0 => some (.add u g d s t)
  | 1 => some (.sub u g d s t)
  | 2 => some (.and u g d s t)
  | 3 => some (.or u g d s t)
  | 4 => some (.xor u g d s t)
  | 5 => some (.andn u g d s t)
  | 6 => some (.min u g d s t)
  | 7 => some (.max u g d s t)
  | 8 => some (.minn u g d s t)
  | 9 => some (.maxn u g d s t)
  | _ => none

/-- Multiply group (Table 05-4). -/
def multiplyForm (n : Nat) (u : AB) (g : Guard) (d s t : BitVec 5) : Option Instr :=
  match n with
  | 0 => some (.mul u g d s t)
  | 1 => some (.mulh u g d s t)
  | 2 => some (.mulhn u g d s t)
  | _ => none

/-- Compare group (Table 05-4). -/
def compareForm (n : Nat) (u : AB) (g : Guard) (pd : BitVec 4) (s t : BitVec 5) : Option Instr :=
  match n with
  | 0 => some (.eq u g pd s t)
  | 1 => some (.ne u g pd s t)
  | 2 => some (.lt u g pd s t)
  | 3 => some (.ltn u g pd s t)
  | 4 => some (.le u g pd s t)
  | 5 => some (.len u g pd s t)
  | _ => none

/-- Compare with an immediate (R112). -/
def compareImmForm (n : Nat) (u : AB) (g : Guard) (pd : BitVec 4) (s : BitVec 5) (i : BitVec 6) : Option Instr :=
  match n with
  | 0 => some (.eqImm u g pd s i)
  | 1 => some (.neImm u g pd s i)
  | 2 => some (.ltImm u g pd s i)
  | 3 => some (.ltnImm u g pd s i)
  | 4 => some (.leImm u g pd s i)
  | 5 => some (.lenImm u g pd s i)
  | _ => none

/-- Predicate-logic group (Table 05-4). -/
def predicateForm (n : Nat) (u : AB) (g : Guard) (pd ps pt : BitVec 4) : Option Instr :=
  match n with
  | 0 => some (.pand u g pd ps pt)
  | 1 => some (.por u g pd ps pt)
  | 2 => some (.pxor u g pd ps pt)
  | 3 => some (.pandn u g pd ps pt)
  | _ => none

/-- Shift and bit group (Table 05-4); for `popc`, `clz` and `brev` t is reserved. -/
def shiftForm (n : Nat) (u : AB) (g : Guard) (d s t : BitVec 5) : Except Illegal Instr :=
  match n with
  | 0 => .ok (.shl u g d s t)
  | 1 => .ok (.shr u g d s t)
  | 2 => .ok (.sar u g d s t)
  | 3 => .ok (.rol u g d s t)
  | 4 => need (t == 0) 3 (.ok (.popc u g d s))
  | 5 => need (t == 0) 3 (.ok (.clz u g d s))
  | 6 => need (t == 0) 3 (.ok (.brev u g d s))
  | 7 => .ok (.bfx u g d s t)
  | 8 => .ok (.bfxs u g d s t)
  | 9 => .ok (.bfi u g d s t)
  | _ => .error { why := 2 }

/-- `get` (Table 05-4). -/
def getForm (n : Nat) (u : AB) (g : Guard) (d s t : BitVec 5) (s4 : BitVec 4) (hi : Bool) : Except Illegal Instr :=
  match n with
  | 0 => need (t == 0) 3 (.ok (.getOther u g d s))
  | 1 => need (t == 0) 3 (.ok (.getL u g d s))
  | 2 => need (t == 0 && !hi) 3 (.ok (.getN u g d s4))
  | 3 => need (t == 0 && !hi) 3 (.ok (.getD u g d s4))
  | _ => .error { why := 2 }

/-- Shift by an immediate (R112). -/
def shiftImmForm (n : Nat) (u : AB) (g : Guard) (d s : BitVec 5) (a : BitVec 6) : Instr :=
  match n with
  | 0 => .shlImm u g d s a
  | 1 => .shrImm u g d s a
  | 2 => .sarImm u g d s a
  | _ => .rolImm u g d s a

/-- A and B slots (spec/05_opcode_map.md Table 05-1, R112, R113). -/
def decodeAB (u : AB) (w : Word) : Except Illegal Instr :=
  let g := guardOf w
  let d := fld w 14 5
  let s := fld w 9 5
  let t := fld w 4 5
  let fn := (fld w 0 4).toNat
  match (fld w 23 5).toNat / 2 with
  | 0 => if fbit w 23 then .error { why := 1 } else need (fld w 0 23 == 0) 3 (.ok (.nop u))
  | 1 => choose (aluForm fn u g d s t)
  | 2 => shiftForm fn u g d s t
  | 3 => choose (multiplyForm fn u g d s t)
  | 4 =>
    match compareForm fn u g (fld w 14 4) s t with
    | some i => need (!fbit w 18) 3 (.ok i)
    | none => .error { why := 2 }
  | 5 =>
    match predicateForm fn u g (fld w 14 4) (fld w 9 4) (fld w 4 4) with
    | some i => need (!fbit w 18 && !fbit w 13 && !fbit w 8) 3 (.ok i)
    | none => .error { why := 2 }
  | 6 => .ok (.sel u g d s t (fld w 0 4))
  | 7 => getForm fn u g d s t (fld w 9 4) (fbit w 13)
  | 8 => .ok (.addImm u g d s (fld w 0 9))
  | 9 => .ok (.andImm u g d s (fld w 0 9))
  | 10 => .ok (.orImm u g d s (fld w 0 9))
  | 11 => .ok (.xorImm u g d s (fld w 0 9))
  | 12 => need (!fbit w 8) 3 (.ok (shiftImmForm (fld w 6 2).toNat u g d s (fld w 0 6)))
  | 13 =>
    match compareImmForm (fld w 6 3).toNat u g (fld w 14 4) s (fld w 0 6) with
    | some i => need (!fbit w 18) 3 (.ok i)
    | none => .error { why := 2 }
  | 14 =>
    need (fld w 21 2 == 0) 3
      (.ok (if fbit w 23 then .lui u (fld w 16 5) (fld w 0 16) else .li u (fld w 16 5) (fld w 0 16)))
  | _ =>
    if fbit w 23 then .error { why := 1 }
    else need (specialNumber (fld w 4 10).toNat) 2
      (need (fld w 19 4 == 0 && fld w 0 4 == 0) 3 (.ok (.rsr u d (fld w 4 10))))

/-- The element type of a T code (Table 02-4). -/
def elemOf (n : Nat) : Option ElemType :=
  match n with
  | 0 => some .f32
  | 1 => some .bf16
  | 2 => some .f16
  | 4 => some .i32
  | 5 => some .i16
  | 6 => some .i8
  | _ => none

/-- A V form: its registers exist (reason 4), its T is accepted (reason 5), its pairs are even (reason 7). The form is
built with type i8 where T is reserved, which only the register test reads. -/
def vForm (lacks : Lacks) (w : Word) (accepts : ElemType → Bool) (even : Bool) (f : ElemType → Instr) :
    Except Illegal Instr :=
  needRegs lacks (f .i8)
    (match elemOf (fld w 20 3).toNat with
     | some t => need (accepts t) 5 (need7 even 1 (.ok (f t)))
     | none => .error { why := 5 })

def anyType : ElemType → Bool := fun _ => true

def intType (t : ElemType) : Bool := !t.isFloat

/-- The unary group of V (Table 05-6, OP 7). -/
def decodeUnary (lacks : Lacks) (w : Word) : Except Illegal Instr :=
  let q := fld w 18 2
  let vd := fld w 12 6
  let vs := fld w 6 6
  match (fld w 0 6).toNat with
  | 0 => vForm lacks w anyType true (fun t => .vAbs t q vd vs)
  | 1 => vForm lacks w anyType true (fun t => .vNeg t q vd vs)
  | 2 => vForm lacks w anyType true (fun t => .vNot t q vd vs)
  | 3 => vForm lacks w ElemType.isFloat true (fun t => .vExp2 t q vd vs)
  | 4 => vForm lacks w ElemType.isFloat true (fun t => .vRcp t q vd vs)
  | 5 => vForm lacks w ElemType.isFloat true (fun t => .vRsqrt t q vd vs)
  | 6 =>
    need (fld w 14 4 == 0 && fld w 10 2 == 0) 3
      (vForm lacks w anyType true (fun t => .vQp t q (fld w 12 2) (fld w 6 4)))
  | 7 => need (!fbit w 11) 3 (vForm lacks w anyType true (fun t => .vGet t q vd (fld w 6 5)))
  | _ => .error { why := 2 }

/-- The compare group of V (Table 05-6, OP 15). -/
def decodeVCompare (lacks : Lacks) (w : Word) : Except Illegal Instr :=
  let q := fld w 18 2
  let qd := fld w 12 2
  let vs := fld w 6 6
  let vt := fld w 0 6
  let ok := !fbit w 17
  match (fld w 14 3).toNat with
  | 0 => need ok 3 (vForm lacks w anyType true (fun t => .vEq t q qd vs vt))
  | 1 => need ok 3 (vForm lacks w anyType true (fun t => .vNe t q qd vs vt))
  | 2 => need ok 3 (vForm lacks w anyType true (fun t => .vLt t q qd vs vt))
  | 3 => need ok 3 (vForm lacks w anyType true (fun t => .vLe t q qd vs vt))
  | _ => .error { why := 2 }

/-- `v.cvt`: mode (reason 2), registers, type and target type (reason 5; R114, R166). -/
def decodeCvt (lacks : Lacks) (w : Word) : Except Illegal Instr :=
  let f := fun (t u : ElemType) => Instr.vCvt t (fld w 18 2) (fld w 12 6) (fld w 6 6) (fld w 3 3) u
  need (decide ((fld w 3 3).toNat < 4)) 2
    (needRegs lacks (f .i8 .i8)
      (match elemOf (fld w 20 3).toNat, elemOf (fld w 0 3).toNat with
       | some t, some u => .ok (f t u)
       | _, _ => .error { why := 5 }))

/-- V slots (spec/08_instr_vector.md Tables 08-1 and 08-2). -/
def decodeV (lacks : Lacks) (w : Word) : Except Illegal Instr :=
  let q := fld w 18 2
  let vd := fld w 12 6
  let vs := fld w 6 6
  let vt := fld w 0 6
  let all := vForm lacks w anyType true
  match (fld w 23 5).toNat with
  | 0 => need (fld w 0 23 == 0) 3 (.ok .vNop)
  | 1 => all (fun t => .vAdd t q vd vs vt)
  | 2 => all (fun t => .vSub t q vd vs vt)
  | 3 => all (fun t => .vMul t q vd vs vt)
  | 4 => all (fun t => .vFma t q vd vs vt)
  | 5 => all (fun t => .vMin t q vd vs vt)
  | 6 => all (fun t => .vMax t q vd vs vt)
  | 7 => decodeUnary lacks w
  | 8 => all (fun t => .vAnd t q vd vs vt)
  | 9 => all (fun t => .vOr t q vd vs vt)
  | 10 => all (fun t => .vXor t q vd vs vt)
  | 11 => all (fun t => .vAndn t q vd vs vt)
  | 12 => vForm lacks w intType true (fun t => .vShl t q vd vs vt)
  | 13 => vForm lacks w intType true (fun t => .vShr t q vd vs vt)
  | 14 => vForm lacks w intType true (fun t => .vSar t q vd vs vt)
  | 15 => decodeVCompare lacks w
  | 16 => all (fun t => .vSel t q vd vs vt)
  | 17 => decodeCvt lacks w
  | 18 => vForm lacks w (fun t => t != .f32) true (fun t => .vCvtSr t q vd vs vt)
  | 19 =>
    need (decide ((fld w 0 4).toNat < 13)) 2 (need (q == 0) 3
      (vForm lacks w (fun t => t == .f32) true (fun _ => .vQuant vd vs (fld w 4 2) (fld w 0 4))))
  | 20 => vForm lacks w (fun t => t == .i32) (vt.toNat % 2 == 0) (fun _ => .vHash q vd vs vt)
  | 21 =>
    need (decide ((fld w 1 2).toNat < 3)) 2 (need (fbit w 3 || fld w 4 2 == 0) 3
      (all (fun t => .vScan t q vd vs (fld w 4 2) (fbit w 3) (fld w 1 2) (fbit w 0))))
  | 22 =>
    need (decide ((fld w 1 2).toNat < 3)) 2 (need (!fbit w 0 && fld w 3 3 == 0) 3
      (all (fun t => .vRed t q vd vs (fld w 1 2))))
  | 23 => all (fun t => .vPerm t q vd vs vt)
  | 24 => need (decide (vt.toNat < 14)) 2 (all (fun t => .vBcast t q vd vs vt))
  | 25 =>
    need (fld w 1 5 == 0) 3
      (if fbit w 0 then vForm lacks w ElemType.widens (vs.toNat % 2 == 0) (fun t => .vNarrow t q vd vs)
       else vForm lacks w ElemType.widens (vd.toNat % 2 == 0) (fun t => .vWiden t q vd vs))
  | 26 => need (!fbit w 11) 3 (all (fun t => .vLd t q vd (fld w 6 5) vt))
  | 27 => need (!fbit w 11) 3 (all (fun t => .vLdS t q vd (fld w 6 5) vt))
  | 28 => need (!fbit w 11) 3 (all (fun t => .vLdt t q vd (fld w 6 5) vt))
  | 29 => need (!fbit w 17) 3 (all (fun t => .vSt t q (fld w 12 5) vs vt))
  | 30 =>
    need (fld w 10 2 == 0 && fld w 4 2 == 0) 3
      (vForm lacks w (fun t => t == .f32 || t == .i32) true (fun t => .vLdz t q vd (fld w 6 4) (fld w 0 4)))
  | _ => .error { why := 1 }

/-- L slots (spec/09_instr_scratchpad.md Table 09-1). -/
def decodeL (w : Word) : Except Illegal Instr :=
  let g := guardOf w
  let d := fld w 14 5
  let s := fld w 9 5
  let sh := fld w 8 6
  match (fld w 23 5).toNat / 2 with
  | 0 => if fbit w 23 then .error { why := 1 } else need (fld w 0 23 == 0) 3 (.ok .lNop)
  | 1 => need (loadSizeOk (fld w 7 2) (fbit w 6)) 3 (.ok (.lLd g d s (fld w 7 2) (fbit w 6) (fld w 0 6)))
  | 2 => need (!fbit w 6) 3 (.ok (.lSt g d s (fld w 7 2) (fld w 0 6)))
  | 3 =>
    need (loadSizeOk (fld w 2 2) (fbit w 1)) 3
      (.ok (.lLdx g d s (fld w 4 5) (fld w 2 2) (fbit w 1) (fbit w 0)))
  | 4 => need (!fbit w 1) 3 (.ok (.lStx g d s (fld w 4 5) (fld w 2 2) (fbit w 0)))
  | 5 => need (loadSizeOk (fld w 7 2) (fbit w 6)) 3 (.ok (.lLdS g d s (fld w 7 2) (fbit w 6) (fld w 0 6)))
  | 6 =>
    match (fld w 7 2).toNat with
    | 0 => need (fld w 0 2 == 0) 3 (.ok (.lAdd g d s (fld w 2 5)))
    | 1 => .ok (.lAddImm g d s (fld w 0 7))
    | 2 => .ok (.lAddImm64 g d s (fld w 0 7))
    | _ => .error { why := 2 }
  | 7 =>
    match (fld w 6 2).toNat with
    | 0 => need (fld w 0 6 == 0 && d == 0) 3 (.ok (.lClaim g sh))
    | 1 => need (fld w 0 6 == 0) 3 (.ok (.lClaimDecl g d sh))
    | _ => .error { why := 2 }
  | 8 => need (d == 0 && fld w 0 8 == 0) 3 (.ok (.lPub g sh))
  | 9 => need (d == 0 && fld w 0 8 == 0) 3 (.ok (.lDrain g sh))
  | 10 =>
    match (fld w 6 2).toNat with
    | 0 => need (d == 0 && fld w 0 6 == 0) 3 (.ok (.lRel g sh))
    | 1 => need (d == 0 && fld w 0 6 == 0) 3 (.ok (.lRelB g sh))
    | _ => .error { why := 2 }
  | 11 => need (fld w 0 8 == 0) 3 (.ok (.lSst g d sh))
  | 12 =>
    need (fld w 0 7 == 0) 3
      (match (fld w 7 2).toNat with
       | 0 => .ok (.lGetA g d s)
       | 1 => .ok (.lGetB g d s)
       | 2 => need (!fbit w 13) 3 (.ok (.lGetN g d (fld w 9 4)))
       | _ => need (!fbit w 13) 3 (.ok (.lGetD g d (fld w 9 4))))
  | _ => .error { why := 1 }

/-- An `m.mul` by its P-in selector (spec/10_instr_matrix.md R197). -/
def mulForm (pin : Nat) (g : Guard) (z : BitVec 4) (asrc : BitVec 2) (wide : Bool) (a : BitVec 5) (pq : BitVec 4) :
    Instr :=
  match pin with
  | 0 => .mMulSet g z asrc wide a
  | 1 => .mMulAcc g z asrc wide a
  | 2 => .mMulPch g z asrc wide a
  | _ => .mMulPq g z asrc wide a pq

/-- The accumulators of an `m.mul`: they exist; a pair takes no P-in 2 or 3 and begins even (R197, Table 10-2). -/
def mulZ (lacks : Lacks) (z : BitVec 4) (pin : Nat) (wide : Bool) (i : Instr) : Except Illegal Instr :=
  needRegs lacks i (need7 (!(wide && decide (2 ≤ pin))) 2 (need7 (!(wide && z.toNat % 2 == 1)) 3 (.ok i)))

/-- M slots (spec/10_instr_matrix.md Table 10-1). -/
def decodeM (lacks : Lacks) (w : Word) : Except Illegal Instr :=
  let g := guardOf w
  let z := fld w 15 4
  let even := fun (wide : Bool) => !(wide && z.toNat % 2 == 1)
  let zed := fun (wide : Bool) (i : Instr) => needRegs lacks i (need7 (even wide) 3 (.ok i))
  match (fld w 23 5).toNat / 2 with
  | 0 => if fbit w 23 then .error { why := 1 } else need (fld w 0 23 == 0) 3 (.ok .mNop)
  | 1 =>
    need (decide ((fld w 17 2).toNat < 3)) 2
      (need (!formatInvalid (fld w 0 17).toNat) 6 (.ok (.mFmt g (fld w 17 2) (fld w 0 17))))
  | 2 => .ok (.mLdb g (fld w 14 5) (fbit w 13) (fld w 0 13))
  | 3 => .ok (.mLdbt g (fld w 14 5) (fbit w 13) (fld w 0 13))
  | 4 =>
    need (decide ((fld w 13 2).toNat < 3)) 2
      (need (mulSourceOk (fld w 13 2) (fld w 5 5) && !fbit w 0 && (fld w 11 2 == 3 || fld w 1 4 == 0)) 3
        (mulZ lacks z (fld w 11 2).toNat (fbit w 10)
          (mulForm (fld w 11 2).toNat g z (fld w 13 2) (fbit w 10) (fld w 5 5) (fld w 1 4))))
  | 5 =>
    if fbit w 14 then
      need (fld w 0 4 == 0 && !fbit w 13) 3
        (zed (fbit w 4) (.mDrainQueue g z (fld w 9 4) (fld w 5 4) (fbit w 4)))
    else
      need (fld w 0 3 == 0) 3 (zed (fbit w 4) (.mDrain g z (fld w 9 5) (fld w 5 4) (fbit w 4) (fbit w 3)))
  | 6 => need (fld w 9 6 == 0 && fld w 0 4 == 0) 3 (zed (fbit w 4) (.mChk g z (fld w 5 4) (fbit w 4)))
  | 7 => need (fld w 0 15 == 0) 3 (zed false (.mZero g z))
  | 8 => need (fld w 2 17 == 0) 3 (.ok (.mChain g (fbit w 1) (fbit w 0)))
  | 9 => need (fld w 0 10 == 0) 3 (.ok (.mTol g z (fld w 10 5)))
  | _ => .error { why := 1 }

/-- N slots (spec/12_instr_network.md Table 12-1). -/
def decodeN (w : Word) : Except Illegal Instr :=
  let g := guardOf w
  let q := fld w 15 4
  match (fld w 23 5).toNat / 2 with
  | 0 => if fbit w 23 then .error { why := 1 } else need (fld w 0 23 == 0) 3 (.ok .nNop)
  | 1 => .ok (.nSend g q (fld w 10 5) (fld w 0 10))
  | 2 => .ok (.nRecv g q (fld w 10 5) (fld w 0 10))
  | 3 => need (fld w 0 11 == 0) 3 (.ok (.nFwd g q (fld w 11 4)))
  | 4 => need (fld w 0 12 == 0) 3 (.ok (.nBsend g (fld w 16 3) (fld w 12 4)))
  | 5 => need (fld w 0 12 == 0) 3 (.ok (.nBlatch g q (fld w 12 3)))
  | 6 => need (fld w 0 11 == 0) 3 (.ok (.nQfmt g q (fld w 11 4)))
  | 7 => .ok (.nLoan g (fld w 14 5) (fld w 0 14))
  | 8 => need (decide ((fld w 0 3).toNat < 7)) 2 (need (fld w 3 16 == 0) 3 (.ok (.nFence g (fld w 0 3))))
  | 9 => need (fld w 0 5 == 0) 3 (.ok (.nRed g q (fld w 11 4) (fld w 6 5) (fbit w 5)))
  | 10 => need (fld w 6 8 == 0) 3 (.ok (.nQsl g q (fbit w 14) (fld w 0 6)))
  | 11 =>
    need (fld w 0 8 == 0) 3
      (match (fld w 8 2).toNat with
       | 0 => .ok (.nGetA g q (fld w 10 5))
       | 1 => .ok (.nGetB g q (fld w 10 5))
       | 2 => .ok (.nGetL g q (fld w 10 5))
       | _ => need (!fbit w 14) 3 (.ok (.nGetD g q (fld w 10 4))))
  | _ => .error { why := 1 }

/-- The OP 0 word of D (Table 11-1, R109). -/
def decodeD0 (w : Word) : Except Illegal Instr :=
  let d := fld w 15 4
  let u := fld w 13 2
  let f := fld w 8 5
  need (fld w 19 4 == 0 && updateOk u f) 3
    (if fld w 0 8 == 0 then
       match u.toNat with
       | 0 => need (d == 0) 3 (.ok .dNop)
       | 1 => .ok (.dGet d f)
       | 2 => .ok (.dIncRow d f)
       | _ => .ok (.dIncBank d f)
     else .ok (.dNopReserve d u f (fld w 0 8)))

/-- A D command form: bits [7:0] are reserved, and f without an update. -/
def dForm (w : Word) (i : Instr) : Except Illegal Instr :=
  need (fld w 0 8 == 0 && updateOk (fld w 13 2) (fld w 8 5)) 3 (.ok i)

/-- D slots (spec/11_instr_dram.md Table 11-1). -/
def decodeD (w : Word) : Except Illegal Instr :=
  let g := guardOf w
  let d := fld w 15 4
  let u := fld w 13 2
  let f := fld w 8 5
  match (fld w 23 5).toNat / 2 with
  | 0 => if fbit w 23 then .error { why := 1 } else decodeD0 w
  | 1 => dForm w (.dAct g d u f)
  | 2 => dForm w (.dPre g d u f)
  | 3 => dForm w (.dPrea g d u f)
  | 4 => need (fld w 0 3 == 0) 3 (.ok (.dRd g d (fld w 10 5) (fld w 4 6) (fbit w 3)))
  | 5 => need (fld w 0 3 == 0) 3 (.ok (.dWr g d (fld w 10 5) (fld w 4 6) (fbit w 3)))
  | 6 => dForm w (.dRef g d u f)
  | 7 => dForm w (.dRefpb g d u f)
  | 8 => dForm w (.dSre g d u f)
  | 9 => dForm w (.dSrx g d u f)
  | 10 => dForm w (.dPde g d u f)
  | 11 => dForm w (.dPdx g d u f)
  | 12 => need (fld w 0 10 == 0) 3 (.ok (.dMrs g d (fld w 10 5)))
  | 13 => need (fld w 0 10 == 0) 3 (.ok (.dWin g d (fld w 10 5)))
  | _ => .error { why := 1 }

/-- The instruction of a slot word for a context that lacks certain registers, or the lowest reason for which it is illegal
(R110). -/
def decodeWith (lacks : Lacks) (w : Word) : Except Illegal Instr :=
  match (fld w 28 3).toNat with
  | 0 => decodeK w
  | 1 => decodeAB .a w
  | 2 => decodeAB .b w
  | 3 => decodeV lacks w
  | 4 => decodeL w
  | 5 => decodeM lacks w
  | 6 => decodeN w
  | _ => decodeD w

/-- The instruction of a slot word for a context with `vg` V granules and `zg` accumulators. -/
def decodeSlot (vg zg : Nat) (w : Word) : Except Illegal Instr := decodeWith (Instr.missing vg zg) w

/-! ### Encoder -/

/-- A slot word from its S bit, unit class, major opcode and the sum of its fields (Table 02-2). -/
def mkWord (last : Bool) (unit op rest : Nat) : Word :=
  BitVec.ofNat 32 (last.toNat * 2147483648 + unit * 268435456 + op * 8388608 + rest)

/-- Unit class of an A/B form (Table 02-2). -/
def AB.unit : AB → Nat
  | .a => 1
  | .b => 2

/-- The word of a guarded form at the even opcode `op` (R48). -/
def guarded (last : Bool) (unit op : Nat) (g : Guard) (rest : Nat) : Word :=
  mkWord last unit (op + g.neg.toNat) (g.p.toNat * 524288 + rest)

/-- Layout AR (Table 02-3). -/
def encAR (last : Bool) (u : AB) (op : Nat) (g : Guard) (d s t fn : Nat) : Word :=
  guarded last u.unit op g (d * 16384 + s * 512 + t * 16 + fn)

/-- Layout AI (Table 02-3). -/
def encAI (last : Bool) (u : AB) (op : Nat) (g : Guard) (d s imm : Nat) : Word :=
  guarded last u.unit op g (d * 16384 + s * 512 + imm)

/-- Layout VV (Table 02-3). -/
def encV (last : Bool) (op t q d s v : Nat) : Word :=
  mkWord last 3 op (t * 1048576 + q * 262144 + d * 4096 + s * 64 + v)

/-- The layout of the D command forms (Table 11-1). -/
def encDCmd (last : Bool) (op : Nat) (g : Guard) (d : BitVec 4) (u : BitVec 2) (f : BitVec 5) : Word :=
  guarded last 7 op g (d.toNat * 32768 + u.toNat * 8192 + f.toNat * 256)

/-- The word of an `m.mul` (Table 10-1). -/
def encMul (last : Bool) (pin : Nat) (g : Guard) (z : BitVec 4) (asrc : BitVec 2) (wide : Bool) (a : BitVec 5)
    (pq : Nat) : Word :=
  guarded last 5 8 g
    (z.toNat * 32768 + asrc.toNat * 8192 + pin * 2048 + wide.toNat * 1024 + a.toNat * 32 + pq * 2)

/-- The word of a K form. -/
def encodeK (e : Bool) : Instr → Word
  | .kTrap n => mkWord e 0 1 n.toNat
  | .kBr g o => guarded e 0 2 g o.toNat
  | .kCall g o => guarded e 0 4 g o.toNat
  | .kJr g s o => guarded e 0 6 g (s.toNat * 16384 + o.toNat)
  | .kRet g => guarded e 0 8 g 0
  | .kLoop c x => mkWord e 0 10 (c.toNat * 2048 + x.toNat)
  | .kLoopReg s x => mkWord e 0 11 (s.toNat * 16384 + x.toNat)
  | .kBrk g => guarded e 0 12 g 0
  | .kRot v c x => mkWord e 0 14 (v.toNat * 262144 + c.toNat * 2048 + x.toNat)
  | .kRotReg v s x => mkWord e 0 14 (v.toNat * 262144 + 131072 + s.toNat * 2048 + x.toNat)
  | .kQuiet => mkWord e 0 15 0
  | .kHold s => mkWord e 0 16 (s.toNat * 16384)
  | .kWait m => mkWord e 0 17 m.toNat
  | .kArrive b g => mkWord e 0 18 (b.toNat * 256 + g.toNat)
  | .kBwait b => mkWord e 0 19 b.toNat
  | .kSpawn g pd sh i => guarded e 0 20 g (pd.toNat * 32768 + sh.toNat * 512 + i.toNat)
  | .kYield => mkWord e 0 22 0
  | .kChk g m o => mkWord e 0 23 (g.toNat * 65536 + m.toNat * 4096 + o.toNat)
  | .kRti => mkWord e 0 24 0
  | .kMsr s n => mkWord e 0 25 (s.toNat * 16384 + n.toNat * 16)
  | .kMrs s n => mkWord e 0 26 (s.toNat * 16384 + n.toNat * 16)
  | .kInval s tk => mkWord e 0 27 (s.toNat * 16384 + tk.toNat * 1024)
  | .kInvalAll tk => mkWord e 0 27 (8192 + tk.toNat * 1024)
  | .kHalt => mkWord e 0 28 0
  | .kMode il => mkWord e 0 29 il.toNat
  | _ => mkWord e 0 0 0

/-- The word of an A or B form. -/
def encodeAB (e : Bool) : Instr → Word
  | .nop u => mkWord e u.unit 0 0
  | .add u g d s t => encAR e u 2 g d.toNat s.toNat t.toNat 0
  | .sub u g d s t => encAR e u 2 g d.toNat s.toNat t.toNat 1
  | .and u g d s t => encAR e u 2 g d.toNat s.toNat t.toNat 2
  | .or u g d s t => encAR e u 2 g d.toNat s.toNat t.toNat 3
  | .xor u g d s t => encAR e u 2 g d.toNat s.toNat t.toNat 4
  | .andn u g d s t => encAR e u 2 g d.toNat s.toNat t.toNat 5
  | .min u g d s t => encAR e u 2 g d.toNat s.toNat t.toNat 6
  | .max u g d s t => encAR e u 2 g d.toNat s.toNat t.toNat 7
  | .minn u g d s t => encAR e u 2 g d.toNat s.toNat t.toNat 8
  | .maxn u g d s t => encAR e u 2 g d.toNat s.toNat t.toNat 9
  | .shl u g d s t => encAR e u 4 g d.toNat s.toNat t.toNat 0
  | .shr u g d s t => encAR e u 4 g d.toNat s.toNat t.toNat 1
  | .sar u g d s t => encAR e u 4 g d.toNat s.toNat t.toNat 2
  | .rol u g d s t => encAR e u 4 g d.toNat s.toNat t.toNat 3
  | .popc u g d s => encAR e u 4 g d.toNat s.toNat 0 4
  | .clz u g d s => encAR e u 4 g d.toNat s.toNat 0 5
  | .brev u g d s => encAR e u 4 g d.toNat s.toNat 0 6
  | .bfx u g d s t => encAR e u 4 g d.toNat s.toNat t.toNat 7
  | .bfxs u g d s t => encAR e u 4 g d.toNat s.toNat t.toNat 8
  | .bfi u g d s t => encAR e u 4 g d.toNat s.toNat t.toNat 9
  | .mul u g d s t => encAR e u 6 g d.toNat s.toNat t.toNat 0
  | .mulh u g d s t => encAR e u 6 g d.toNat s.toNat t.toNat 1
  | .mulhn u g d s t => encAR e u 6 g d.toNat s.toNat t.toNat 2
  | .eq u g d s t => encAR e u 8 g d.toNat s.toNat t.toNat 0
  | .ne u g d s t => encAR e u 8 g d.toNat s.toNat t.toNat 1
  | .lt u g d s t => encAR e u 8 g d.toNat s.toNat t.toNat 2
  | .ltn u g d s t => encAR e u 8 g d.toNat s.toNat t.toNat 3
  | .le u g d s t => encAR e u 8 g d.toNat s.toNat t.toNat 4
  | .len u g d s t => encAR e u 8 g d.toNat s.toNat t.toNat 5
  | .pand u g d s t => encAR e u 10 g d.toNat s.toNat t.toNat 0
  | .por u g d s t => encAR e u 10 g d.toNat s.toNat t.toNat 1
  | .pxor u g d s t => encAR e u 10 g d.toNat s.toNat t.toNat 2
  | .pandn u g d s t => encAR e u 10 g d.toNat s.toNat t.toNat 3
  | .sel u g d s t pn => encAR e u 12 g d.toNat s.toNat t.toNat pn.toNat
  | .getOther u g d s => encAR e u 14 g d.toNat s.toNat 0 0
  | .getL u g d s => encAR e u 14 g d.toNat s.toNat 0 1
  | .getN u g d s => encAR e u 14 g d.toNat s.toNat 0 2
  | .getD u g d s => encAR e u 14 g d.toNat s.toNat 0 3
  | .addImm u g d s i => encAI e u 16 g d.toNat s.toNat i.toNat
  | .andImm u g d s i => encAI e u 18 g d.toNat s.toNat i.toNat
  | .orImm u g d s i => encAI e u 20 g d.toNat s.toNat i.toNat
  | .xorImm u g d s i => encAI e u 22 g d.toNat s.toNat i.toNat
  | .shlImm u g d s a => encAI e u 24 g d.toNat s.toNat a.toNat
  | .shrImm u g d s a => encAI e u 24 g d.toNat s.toNat (64 + a.toNat)
  | .sarImm u g d s a => encAI e u 24 g d.toNat s.toNat (128 + a.toNat)
  | .rolImm u g d s a => encAI e u 24 g d.toNat s.toNat (192 + a.toNat)
  | .eqImm u g d s i => encAI e u 26 g d.toNat s.toNat i.toNat
  | .neImm u g d s i => encAI e u 26 g d.toNat s.toNat (64 + i.toNat)
  | .ltImm u g d s i => encAI e u 26 g d.toNat s.toNat (128 + i.toNat)
  | .ltnImm u g d s i => encAI e u 26 g d.toNat s.toNat (192 + i.toNat)
  | .leImm u g d s i => encAI e u 26 g d.toNat s.toNat (256 + i.toNat)
  | .lenImm u g d s i => encAI e u 26 g d.toNat s.toNat (320 + i.toNat)
  | .li u d i => mkWord e u.unit 28 (d.toNat * 65536 + i.toNat)
  | .lui u d i => mkWord e u.unit 29 (d.toNat * 65536 + i.toNat)
  | .rsr u d n => mkWord e u.unit 30 (d.toNat * 16384 + n.toNat * 16)
  | _ => mkWord e 1 0 0

/-- The word of a V form. -/
def encodeV (e : Bool) : Instr → Word
  | .vAdd t q d s v => encV e 1 t.code q.toNat d.toNat s.toNat v.toNat
  | .vSub t q d s v => encV e 2 t.code q.toNat d.toNat s.toNat v.toNat
  | .vMul t q d s v => encV e 3 t.code q.toNat d.toNat s.toNat v.toNat
  | .vFma t q d s v => encV e 4 t.code q.toNat d.toNat s.toNat v.toNat
  | .vMin t q d s v => encV e 5 t.code q.toNat d.toNat s.toNat v.toNat
  | .vMax t q d s v => encV e 6 t.code q.toNat d.toNat s.toNat v.toNat
  | .vAbs t q d s => encV e 7 t.code q.toNat d.toNat s.toNat 0
  | .vNeg t q d s => encV e 7 t.code q.toNat d.toNat s.toNat 1
  | .vNot t q d s => encV e 7 t.code q.toNat d.toNat s.toNat 2
  | .vExp2 t q d s => encV e 7 t.code q.toNat d.toNat s.toNat 3
  | .vRcp t q d s => encV e 7 t.code q.toNat d.toNat s.toNat 4
  | .vRsqrt t q d s => encV e 7 t.code q.toNat d.toNat s.toNat 5
  | .vQp t q qd p => encV e 7 t.code q.toNat qd.toNat p.toNat 6
  | .vGet t q d l => encV e 7 t.code q.toNat d.toNat l.toNat 7
  | .vAnd t q d s v => encV e 8 t.code q.toNat d.toNat s.toNat v.toNat
  | .vOr t q d s v => encV e 9 t.code q.toNat d.toNat s.toNat v.toNat
  | .vXor t q d s v => encV e 10 t.code q.toNat d.toNat s.toNat v.toNat
  | .vAndn t q d s v => encV e 11 t.code q.toNat d.toNat s.toNat v.toNat
  | .vShl t q d s a => encV e 12 t.code q.toNat d.toNat s.toNat a.toNat
  | .vShr t q d s a => encV e 13 t.code q.toNat d.toNat s.toNat a.toNat
  | .vSar t q d s a => encV e 14 t.code q.toNat d.toNat s.toNat a.toNat
  | .vEq t q qd s v => encV e 15 t.code q.toNat qd.toNat s.toNat v.toNat
  | .vNe t q qd s v => encV e 15 t.code q.toNat (qd.toNat + 4) s.toNat v.toNat
  | .vLt t q qd s v => encV e 15 t.code q.toNat (qd.toNat + 8) s.toNat v.toNat
  | .vLe t q qd s v => encV e 15 t.code q.toNat (qd.toNat + 12) s.toNat v.toNat
  | .vSel t q d s v => encV e 16 t.code q.toNat d.toNat s.toNat v.toNat
  | .vCvt t q d s m u => encV e 17 t.code q.toNat d.toNat s.toNat (m.toNat * 8 + u.code)
  | .vCvtSr t q d s v => encV e 18 t.code q.toNat d.toNat s.toNat v.toNat
  | .vQuant d s m x => encV e 19 0 0 d.toNat s.toNat (m.toNat * 16 + x.toNat)
  | .vHash q d s v => encV e 20 4 q.toNat d.toNat s.toNat v.toNat
  | .vScan t q d s sq sg o x =>
    encV e 21 t.code q.toNat d.toNat s.toNat (sq.toNat * 16 + sg.toNat * 8 + o.toNat * 2 + x.toNat)
  | .vRed t q d s o => encV e 22 t.code q.toNat d.toNat s.toNat (o.toNat * 2)
  | .vPerm t q d s v => encV e 23 t.code q.toNat d.toNat s.toNat v.toNat
  | .vBcast t q d s g => encV e 24 t.code q.toNat d.toNat s.toNat g.toNat
  | .vWiden t q d s => encV e 25 t.code q.toNat d.toNat s.toNat 0
  | .vNarrow t q d s => encV e 25 t.code q.toNat d.toNat s.toNat 1
  | .vLd t q d l o => encV e 26 t.code q.toNat d.toNat l.toNat o.toNat
  | .vLdS t q d l o => encV e 27 t.code q.toNat d.toNat l.toNat o.toNat
  | .vLdt t q d l o => encV e 28 t.code q.toNat d.toNat l.toNat o.toNat
  | .vSt t q l s o => encV e 29 t.code q.toNat l.toNat s.toNat o.toNat
  | .vLdz t q d z g => encV e 30 t.code q.toNat d.toNat z.toNat g.toNat
  | _ => mkWord e 3 0 0

/-- The word of an L form. -/
def encodeL (e : Bool) : Instr → Word
  | .lLd g d s z x o =>
    guarded e 4 2 g (d.toNat * 16384 + s.toNat * 512 + z.toNat * 128 + x.toNat * 64 + o.toNat)
  | .lSt g v s z o => guarded e 4 4 g (v.toNat * 16384 + s.toNat * 512 + z.toNat * 128 + o.toNat)
  | .lLdx g d s t z x c =>
    guarded e 4 6 g (d.toNat * 16384 + s.toNat * 512 + t.toNat * 16 + z.toNat * 4 + x.toNat * 2 + c.toNat)
  | .lStx g v s t z c =>
    guarded e 4 8 g (v.toNat * 16384 + s.toNat * 512 + t.toNat * 16 + z.toNat * 4 + c.toNat)
  | .lLdS g d s z x o =>
    guarded e 4 10 g (d.toNat * 16384 + s.toNat * 512 + z.toNat * 128 + x.toNat * 64 + o.toNat)
  | .lAdd g d s t => guarded e 4 12 g (d.toNat * 16384 + s.toNat * 512 + t.toNat * 4)
  | .lAddImm g d s i => guarded e 4 12 g (d.toNat * 16384 + s.toNat * 512 + 128 + i.toNat)
  | .lAddImm64 g d s i => guarded e 4 12 g (d.toNat * 16384 + s.toNat * 512 + 256 + i.toNat)
  | .lClaim g h => guarded e 4 14 g (h.toNat * 256)
  | .lClaimDecl g r h => guarded e 4 14 g (r.toNat * 16384 + h.toNat * 256 + 64)
  | .lPub g h => guarded e 4 16 g (h.toNat * 256)
  | .lDrain g h => guarded e 4 18 g (h.toNat * 256)
  | .lRel g h => guarded e 4 20 g (h.toNat * 256)
  | .lRelB g h => guarded e 4 20 g (h.toNat * 256 + 64)
  | .lSst g d h => guarded e 4 22 g (d.toNat * 16384 + h.toNat * 256)
  | .lGetA g d s => guarded e 4 24 g (d.toNat * 16384 + s.toNat * 512)
  | .lGetB g d s => guarded e 4 24 g (d.toNat * 16384 + s.toNat * 512 + 128)
  | .lGetN g d s => guarded e 4 24 g (d.toNat * 16384 + s.toNat * 512 + 256)
  | .lGetD g d s => guarded e 4 24 g (d.toNat * 16384 + s.toNat * 512 + 384)
  | _ => mkWord e 4 0 0

/-- The word of an M form. -/
def encodeM (e : Bool) : Instr → Word
  | .mFmt g r w => guarded e 5 2 g (r.toNat * 131072 + w.toNat)
  | .mLdb g s n o => guarded e 5 4 g (s.toNat * 16384 + n.toNat * 8192 + o.toNat)
  | .mLdbt g s n o => guarded e 5 6 g (s.toNat * 16384 + n.toNat * 8192 + o.toNat)
  | .mMulSet g z c w a => encMul e 0 g z c w a 0
  | .mMulAcc g z c w a => encMul e 1 g z c w a 0
  | .mMulPch g z c w a => encMul e 2 g z c w a 0
  | .mMulPq g z c w a q => encMul e 3 g z c w a q.toNat
  | .mDrain g z l x w b =>
    guarded e 5 10 g (z.toNat * 32768 + l.toNat * 512 + x.toNat * 32 + w.toNat * 16 + b.toNat * 8)
  | .mDrainQueue g z q x w =>
    guarded e 5 10 g (z.toNat * 32768 + 16384 + q.toNat * 512 + x.toNat * 32 + w.toNat * 16)
  | .mChk g z x w => guarded e 5 12 g (z.toNat * 32768 + x.toNat * 32 + w.toNat * 16)
  | .mZero g z => guarded e 5 14 g (z.toNat * 32768)
  | .mChain g a f => guarded e 5 16 g (a.toNat * 2 + f.toNat)
  | .mTol g x s => guarded e 5 18 g (x.toNat * 32768 + s.toNat * 1024)
  | _ => mkWord e 5 0 0

/-- The word of an N form. -/
def encodeN (e : Bool) : Instr → Word
  | .nSend g q s o => guarded e 6 2 g (q.toNat * 32768 + s.toNat * 1024 + o.toNat)
  | .nRecv g q s o => guarded e 6 4 g (q.toNat * 32768 + s.toNat * 1024 + o.toNat)
  | .nFwd g m q => guarded e 6 6 g (m.toNat * 32768 + q.toNat * 2048)
  | .nBsend g c s => guarded e 6 8 g (c.toNat * 65536 + s.toNat * 4096)
  | .nBlatch g d c => guarded e 6 10 g (d.toNat * 32768 + c.toNat * 4096)
  | .nQfmt g q s => guarded e 6 12 g (q.toNat * 32768 + s.toNat * 2048)
  | .nLoan g s o => guarded e 6 14 g (s.toNat * 16384 + o.toNat)
  | .nFence g c => guarded e 6 16 g c.toNat
  | .nRed g m q s y => guarded e 6 18 g (m.toNat * 32768 + q.toNat * 2048 + s.toNat * 64 + y.toNat * 32)
  | .nQsl g q c k => guarded e 6 20 g (q.toNat * 32768 + c.toNat * 16384 + k.toNat)
  | .nGetA g d s => guarded e 6 22 g (d.toNat * 32768 + s.toNat * 1024)
  | .nGetB g d s => guarded e 6 22 g (d.toNat * 32768 + s.toNat * 1024 + 256)
  | .nGetL g d s => guarded e 6 22 g (d.toNat * 32768 + s.toNat * 1024 + 512)
  | .nGetD g d s => guarded e 6 22 g (d.toNat * 32768 + s.toNat * 1024 + 768)
  | _ => mkWord e 6 0 0

/-- The word of a D form. -/
def encodeD (e : Bool) : Instr → Word
  | .dNopReserve d u f c => mkWord e 7 0 (d.toNat * 32768 + u.toNat * 8192 + f.toNat * 256 + c.toNat)
  | .dGet d f => mkWord e 7 0 (d.toNat * 32768 + 8192 + f.toNat * 256)
  | .dIncRow d f => mkWord e 7 0 (d.toNat * 32768 + 16384 + f.toNat * 256)
  | .dIncBank d f => mkWord e 7 0 (d.toNat * 32768 + 24576 + f.toNat * 256)
  | .dAct g d u f => encDCmd e 2 g d u f
  | .dPre g d u f => encDCmd e 4 g d u f
  | .dPrea g d u f => encDCmd e 6 g d u f
  | .dRd g d s c l => guarded e 7 8 g (d.toNat * 32768 + s.toNat * 1024 + c.toNat * 16 + l.toNat * 8)
  | .dWr g d s c l => guarded e 7 10 g (d.toNat * 32768 + s.toNat * 1024 + c.toNat * 16 + l.toNat * 8)
  | .dRef g d u f => encDCmd e 12 g d u f
  | .dRefpb g d u f => encDCmd e 14 g d u f
  | .dSre g d u f => encDCmd e 16 g d u f
  | .dSrx g d u f => encDCmd e 18 g d u f
  | .dPde g d u f => encDCmd e 20 g d u f
  | .dPdx g d u f => encDCmd e 22 g d u f
  | .dMrs g d s => guarded e 7 24 g (d.toNat * 32768 + s.toNat * 1024)
  | .dWin g d s => guarded e 7 26 g (d.toNat * 32768 + s.toNat * 1024)
  | _ => mkWord e 7 0 0

/-- The guard of a guarded form (spec/02_bundles_and_encoding.md R48). -/
def Instr.guard : Instr → Option Guard
  | .kBr g _ | .kCall g _ | .kJr g _ _ | .kRet g | .kBrk g | .kSpawn g _ _ _ | .add _ g _ _ _ | .sub _ g _ _ _
  | .and _ g _ _ _ | .or _ g _ _ _ | .xor _ g _ _ _ | .andn _ g _ _ _ | .min _ g _ _ _ | .max _ g _ _ _
  | .minn _ g _ _ _ | .maxn _ g _ _ _ | .shl _ g _ _ _ | .shr _ g _ _ _ | .sar _ g _ _ _ | .rol _ g _ _ _
  | .popc _ g _ _ | .clz _ g _ _ | .brev _ g _ _ | .bfx _ g _ _ _ | .bfxs _ g _ _ _ | .bfi _ g _ _ _
  | .mul _ g _ _ _ | .mulh _ g _ _ _ | .mulhn _ g _ _ _ | .eq _ g _ _ _ | .ne _ g _ _ _ | .lt _ g _ _ _
  | .ltn _ g _ _ _ | .le _ g _ _ _ | .len _ g _ _ _ | .pand _ g _ _ _ | .por _ g _ _ _ | .pxor _ g _ _ _
  | .pandn _ g _ _ _ | .sel _ g _ _ _ _ | .getOther _ g _ _ | .getL _ g _ _ | .getN _ g _ _ | .getD _ g _ _
  | .addImm _ g _ _ _ | .andImm _ g _ _ _ | .orImm _ g _ _ _ | .xorImm _ g _ _ _ | .shlImm _ g _ _ _
  | .shrImm _ g _ _ _ | .sarImm _ g _ _ _ | .rolImm _ g _ _ _ | .eqImm _ g _ _ _ | .neImm _ g _ _ _
  | .ltImm _ g _ _ _ | .ltnImm _ g _ _ _ | .leImm _ g _ _ _ | .lenImm _ g _ _ _ | .lLd g _ _ _ _ _ | .lSt g _ _ _ _
  | .lLdx g _ _ _ _ _ _ | .lStx g _ _ _ _ _ | .lLdS g _ _ _ _ _ | .lAdd g _ _ _ | .lAddImm g _ _ _
  | .lAddImm64 g _ _ _ | .lClaim g _ | .lClaimDecl g _ _ | .lPub g _ | .lDrain g _ | .lRel g _ | .lRelB g _
  | .lSst g _ _ | .lGetA g _ _ | .lGetB g _ _ | .lGetN g _ _ | .lGetD g _ _ | .mFmt g _ _ | .mLdb g _ _ _
  | .mLdbt g _ _ _ | .mMulSet g _ _ _ _ | .mMulAcc g _ _ _ _ | .mMulPch g _ _ _ _ | .mMulPq g _ _ _ _ _
  | .mDrain g _ _ _ _ _ | .mDrainQueue g _ _ _ _ | .mChk g _ _ _ | .mZero g _ | .mChain g _ _ | .mTol g _ _
  | .nSend g _ _ _ | .nRecv g _ _ _ | .nFwd g _ _ | .nBsend g _ _ | .nBlatch g _ _ | .nQfmt g _ _ | .nLoan g _ _
  | .nFence g _ | .nRed g _ _ _ _ | .nQsl g _ _ _ | .nGetA g _ _ | .nGetB g _ _ | .nGetL g _ _ | .nGetD g _ _
  | .dAct g _ _ _ | .dPre g _ _ _ | .dPrea g _ _ _ | .dRd g _ _ _ _ | .dWr g _ _ _ _ | .dRef g _ _ _
  | .dRefpb g _ _ _ | .dSre g _ _ _ | .dSrx g _ _ _ | .dPde g _ _ _ | .dPdx g _ _ _ | .dMrs g _ _ | .dWin g _ _ => some g
  | _ => none

/-- The unit class whose slot words hold an instruction (Table 02-2); 8 for the rows that have no word. -/
def Instr.unit (i : Instr) : Nat :=
  match i with
  | .kNop => 0
  | .kTrap _ => 0
  | .kBr _ _ => 0
  | .kCall _ _ => 0
  | .kJr _ _ _ => 0
  | .kRet _ => 0
  | .kLoop _ _ => 0
  | .kLoopReg _ _ => 0
  | .kBrk _ => 0
  | .kRot _ _ _ => 0
  | .kRotReg _ _ _ => 0
  | .kQuiet => 0
  | .kHold _ => 0
  | .kWait _ => 0
  | .kArrive _ _ => 0
  | .kBwait _ => 0
  | .kSpawn _ _ _ _ => 0
  | .kYield => 0
  | .kChk _ _ _ => 0
  | .kRti => 0
  | .kMsr _ _ => 0
  | .kMrs _ _ => 0
  | .kInval _ _ => 0
  | .kInvalAll _ => 0
  | .kHalt => 0
  | .kMode _ => 0
  | .nop u => u.unit
  | .add u _ _ _ _ => u.unit
  | .sub u _ _ _ _ => u.unit
  | .and u _ _ _ _ => u.unit
  | .or u _ _ _ _ => u.unit
  | .xor u _ _ _ _ => u.unit
  | .andn u _ _ _ _ => u.unit
  | .min u _ _ _ _ => u.unit
  | .max u _ _ _ _ => u.unit
  | .minn u _ _ _ _ => u.unit
  | .maxn u _ _ _ _ => u.unit
  | .shl u _ _ _ _ => u.unit
  | .shr u _ _ _ _ => u.unit
  | .sar u _ _ _ _ => u.unit
  | .rol u _ _ _ _ => u.unit
  | .popc u _ _ _ => u.unit
  | .clz u _ _ _ => u.unit
  | .brev u _ _ _ => u.unit
  | .bfx u _ _ _ _ => u.unit
  | .bfxs u _ _ _ _ => u.unit
  | .bfi u _ _ _ _ => u.unit
  | .mul u _ _ _ _ => u.unit
  | .mulh u _ _ _ _ => u.unit
  | .mulhn u _ _ _ _ => u.unit
  | .eq u _ _ _ _ => u.unit
  | .ne u _ _ _ _ => u.unit
  | .lt u _ _ _ _ => u.unit
  | .ltn u _ _ _ _ => u.unit
  | .le u _ _ _ _ => u.unit
  | .len u _ _ _ _ => u.unit
  | .pand u _ _ _ _ => u.unit
  | .por u _ _ _ _ => u.unit
  | .pxor u _ _ _ _ => u.unit
  | .pandn u _ _ _ _ => u.unit
  | .sel u _ _ _ _ _ => u.unit
  | .getOther u _ _ _ => u.unit
  | .getL u _ _ _ => u.unit
  | .getN u _ _ _ => u.unit
  | .getD u _ _ _ => u.unit
  | .addImm u _ _ _ _ => u.unit
  | .andImm u _ _ _ _ => u.unit
  | .orImm u _ _ _ _ => u.unit
  | .xorImm u _ _ _ _ => u.unit
  | .shlImm u _ _ _ _ => u.unit
  | .shrImm u _ _ _ _ => u.unit
  | .sarImm u _ _ _ _ => u.unit
  | .rolImm u _ _ _ _ => u.unit
  | .eqImm u _ _ _ _ => u.unit
  | .neImm u _ _ _ _ => u.unit
  | .ltImm u _ _ _ _ => u.unit
  | .ltnImm u _ _ _ _ => u.unit
  | .leImm u _ _ _ _ => u.unit
  | .lenImm u _ _ _ _ => u.unit
  | .li u _ _ => u.unit
  | .lui u _ _ => u.unit
  | .rsr u _ _ => u.unit
  | .vNop => 3
  | .vAdd _ _ _ _ _ => 3
  | .vSub _ _ _ _ _ => 3
  | .vMul _ _ _ _ _ => 3
  | .vFma _ _ _ _ _ => 3
  | .vMin _ _ _ _ _ => 3
  | .vMax _ _ _ _ _ => 3
  | .vAbs _ _ _ _ => 3
  | .vNeg _ _ _ _ => 3
  | .vNot _ _ _ _ => 3
  | .vExp2 _ _ _ _ => 3
  | .vRcp _ _ _ _ => 3
  | .vRsqrt _ _ _ _ => 3
  | .vQp _ _ _ _ => 3
  | .vGet _ _ _ _ => 3
  | .vAnd _ _ _ _ _ => 3
  | .vOr _ _ _ _ _ => 3
  | .vXor _ _ _ _ _ => 3
  | .vAndn _ _ _ _ _ => 3
  | .vShl _ _ _ _ _ => 3
  | .vShr _ _ _ _ _ => 3
  | .vSar _ _ _ _ _ => 3
  | .vEq _ _ _ _ _ => 3
  | .vNe _ _ _ _ _ => 3
  | .vLt _ _ _ _ _ => 3
  | .vLe _ _ _ _ _ => 3
  | .vSel _ _ _ _ _ => 3
  | .vCvt _ _ _ _ _ _ => 3
  | .vCvtSr _ _ _ _ _ => 3
  | .vQuant _ _ _ _ => 3
  | .vHash _ _ _ _ => 3
  | .vScan _ _ _ _ _ _ _ _ => 3
  | .vRed _ _ _ _ _ => 3
  | .vPerm _ _ _ _ _ => 3
  | .vBcast _ _ _ _ _ => 3
  | .vWiden _ _ _ _ => 3
  | .vNarrow _ _ _ _ => 3
  | .vLd _ _ _ _ _ => 3
  | .vLdS _ _ _ _ _ => 3
  | .vLdt _ _ _ _ _ => 3
  | .vSt _ _ _ _ _ => 3
  | .vLdz _ _ _ _ _ => 3
  | .lNop => 4
  | .lLd _ _ _ _ _ _ => 4
  | .lSt _ _ _ _ _ => 4
  | .lLdx _ _ _ _ _ _ _ => 4
  | .lStx _ _ _ _ _ _ => 4
  | .lLdS _ _ _ _ _ _ => 4
  | .lAdd _ _ _ _ => 4
  | .lAddImm _ _ _ _ => 4
  | .lAddImm64 _ _ _ _ => 4
  | .lClaim _ _ => 4
  | .lClaimDecl _ _ _ => 4
  | .lPub _ _ => 4
  | .lDrain _ _ => 4
  | .lRel _ _ => 4
  | .lRelB _ _ => 4
  | .lSst _ _ _ => 4
  | .lGetA _ _ _ => 4
  | .lGetB _ _ _ => 4
  | .lGetN _ _ _ => 4
  | .lGetD _ _ _ => 4
  | .mNop => 5
  | .mFmt _ _ _ => 5
  | .mLdb _ _ _ _ => 5
  | .mLdbt _ _ _ _ => 5
  | .mMulSet _ _ _ _ _ => 5
  | .mMulAcc _ _ _ _ _ => 5
  | .mMulPch _ _ _ _ _ => 5
  | .mMulPq _ _ _ _ _ _ => 5
  | .mDrain _ _ _ _ _ _ => 5
  | .mDrainQueue _ _ _ _ _ => 5
  | .mChk _ _ _ _ => 5
  | .mZero _ _ => 5
  | .mChain _ _ _ => 5
  | .mTol _ _ _ => 5
  | .nNop => 6
  | .nSend _ _ _ _ => 6
  | .nRecv _ _ _ _ => 6
  | .nFwd _ _ _ => 6
  | .nBsend _ _ _ => 6
  | .nBlatch _ _ _ => 6
  | .nQfmt _ _ _ => 6
  | .nLoan _ _ _ => 6
  | .nFence _ _ => 6
  | .nRed _ _ _ _ _ => 6
  | .nQsl _ _ _ _ => 6
  | .nGetA _ _ _ => 6
  | .nGetB _ _ _ => 6
  | .nGetL _ _ _ => 6
  | .nGetD _ _ _ => 6
  | .dNop => 7
  | .dNopReserve _ _ _ _ => 7
  | .dGet _ _ => 7
  | .dIncRow _ _ => 7
  | .dIncBank _ _ => 7
  | .dAct _ _ _ _ => 7
  | .dPre _ _ _ _ => 7
  | .dPrea _ _ _ _ => 7
  | .dRd _ _ _ _ _ => 7
  | .dWr _ _ _ _ _ => 7
  | .dRef _ _ _ _ => 7
  | .dRefpb _ _ _ _ => 7
  | .dSre _ _ _ _ => 7
  | .dSrx _ _ _ _ => 7
  | .dPde _ _ _ _ => 7
  | .dPdx _ _ _ _ => 7
  | .dMrs _ _ _ => 7
  | .dWin _ _ _ => 7
  | _ => 8

/-- The slot word of an instruction with S bit `e`; 0 for a row without an encoding. -/
def encode (e : Bool) (i : Instr) : Word :=
  match i.unit with
  | 0 => encodeK e i
  | 1 => encodeAB e i
  | 2 => encodeAB e i
  | 3 => encodeV e i
  | 4 => encodeL e i
  | 5 => encodeM e i
  | 6 => encodeN e i
  | 7 => encodeD e i
  | _ => 0

/-- The instruction the decoder reads from the word `w` of a table row, in a partition with every register. -/
def decodeTableWord (nbits w : Nat) : Option Instr :=
  if nbits ≤ 32 then
    match decodeSlot 8 16 (BitVec.ofNat 32 w) with
    | .ok i => some i
    | .error _ => none
  else none

end Sys2Proof
end

