-- ==== Sys2Proof/Config.lean ====
section
/-!
DEFINITION. What is fixed for the machine, and the free values: constants without a body, of which no proof can see
a value. Each is named in the assumption log.
-/

namespace Sys2Proof.Config

/-- The device id of the fuses (spec/20_bringup_power.md Table 20-1, step 4). Free (log 16). -/
opaque deviceId : Nat

/-- The delay, in cycles, of the untimed work numbered by its argument: a step of a loan, of a launch or of the steward.
The spec gives untimed work no figures (spec/13_memory_model.md R278, R283). Free (log 6). -/
opaque untimedDelay : Nat → Nat

/-- The order of the granules of one loan (spec/13_memory_model.md R278): in the draw numbered by the first argument, which
of the granules left goes as the one numbered by the second. Free (log 6). -/
opaque granuleOrder : Nat → Nat → Nat

/-- The cycle within t+1 to t+128 in which a stationary load reads a line of its folio
(spec/10_instr_matrix.md R200). Free (log 8). -/
opaque readCycle : Nat → Nat

/-- The three seeds of the device's signing key, of 24 bytes each, derived from a fuse seed at step 4 (spec/20_bringup_power.md
R398): secret seed, randomiser key, public seed. Free (log 10). -/
opaque signSeeds : BitVec 576

/-- The random bytes of a signature (R398). Free (log 10). -/
opaque signRandom : Nat → BitVec 192

/-- The fuse block (Table 20-1, step 4) and the key hash it holds (R397). Free (log 10). -/
opaque fuseBlock : List Byte

opaque keyHash : BitVec 512

/-- Whether start step `n` of the start numbered `k` succeeds where the spec gives no condition a model can see
(self-tests, training; Table 20-1). Free (log 17). -/
opaque startStepOk : Nat → Nat → Bool

/-- Whether a physical die passes its self-test in the start numbered by the first argument (Table 20-1, step 5,
spec/14_dram_system.md R293). Free (log 17). -/
opaque dieTestOk : Nat → Nat → Bool

/-- Free words, numbered by the counter of State (log 6). -/
opaque freeWord : Nat → Reg

/-- The JEDEC timings of one stack in tenths of a nanosecond (R291, Table 14-2). -/
structure Jedec where
  tRCD : Nat := 140
  tRP : Nat := 140
  tRAS : Nat := 330
  tRC : Nat := 470
  tRRDS : Nat := 20
  tRRDL : Nat := 40
  tFAW : Nat := 160
  tCCDS : Nat := 10
  tCCDL : Nat := 20
  tAA : Nat := 150
  tWTR : Nat := 75
  tRTW : Nat := 100
  tWR : Nat := 160
  tRTP : Nat := 45
  tRFC : Nat := 3500
  tRFCpb : Nat := 1600
  tXS : Nat := 3600
  tXP : Nat := 75
  tREFI : Nat := 39000
  deriving DecidableEq, Repr

/-- The timing table of the HBM4 stacks (spec/14_dram_system.md R291, Table 14-2), in cycles. -/
structure Timing where
  tRCD : Nat
  tRP : Nat
  tRAS : Nat
  tRC : Nat
  tRRDS : Nat
  tRRDL : Nat
  tFAW : Nat
  tCCDS : Nat
  tCCDL : Nat
  tWTR : Nat
  tRTW : Nat
  tWR : Nat
  tRTP : Nat
  tRFC : Nat
  tRFCpb : Nat
  tXS : Nat
  tXP : Nat
  lambdaR : Nat
  tREFI : Nat
  deriving DecidableEq, Repr

/-- Table 14-2, the values for the fitted 8.0 Gb/s stacks. -/
def defaultTiming : Timing where
  tRCD := 19
  tRP := 19
  tRAS := 43
  tRC := 62
  tRRDS := 3
  tRRDL := 6
  tFAW := 21
  tCCDS := 2
  tCCDL := 3
  tWTR := 10
  tRTW := 13
  tWR := 21
  tRTP := 6
  tRFC := 455
  tRFCpb := 208
  tXS := 468
  tXP := 10
  lambdaR := 120
  tREFI := 5070

/-- A minimum interval in cycles: ⌈1.3 × ns⌉ (R291). -/
def cyclesOf (tenths : Nat) : Nat := (13 * tenths + 99) / 100

/-- The largest figure over the eight stacks (R291). -/
def slowest (l : List Jedec) (f : Jedec → Nat) : Nat := (l.map f).foldl max 0

/-- The timing table that the steward computes from the stacks' figures (R291). -/
def timingOf (l : List Jedec) : Timing :=
  let c := fun (f : Jedec → Nat) => cyclesOf (slowest l f)
  { tRCD := c Jedec.tRCD, tRP := c Jedec.tRP, tRAS := c Jedec.tRAS, tRC := c Jedec.tRC, tRRDS := c Jedec.tRRDS
    tRRDL := c Jedec.tRRDL, tFAW := c Jedec.tFAW, tCCDS := c Jedec.tCCDS, tCCDL := c Jedec.tCCDL, tWTR := c Jedec.tWTR
    tRTW := c Jedec.tRTW, tWR := c Jedec.tWR, tRTP := c Jedec.tRTP, tRFC := c Jedec.tRFC, tRFCpb := c Jedec.tRFCpb
    tXS := c Jedec.tXS, tXP := c Jedec.tXP, lambdaR := 48 + c Jedec.tAA + 52
    tREFI := 13 * slowest l Jedec.tREFI / 100 }

/-- The postponement limit of refresh (Table 14-2). -/
def postponement : Nat := 8

/-- Timing fields as words, in the order of Table 14-2 (log 19). -/
def Timing.words (t : Timing) : List Nat :=
  [t.tRCD, t.tRP, t.tRAS, t.tRC, t.tRRDS, t.tRRDL, t.tFAW, t.tCCDS, t.tCCDL, t.lambdaR, t.tWTR, t.tRTW, t.tWR, t.tRTP,
    t.tRFC, t.tRFCpb, t.tREFI, postponement, t.tXS, t.tXP]

/-- The values that the steward publishes for a mode register from 12 to 15 (R290). Free (log 19). -/
opaque modeValues : Nat → List (BitVec 8)

/-- Outstanding 64-byte loan requests of one core (spec/00_scope.md Table 00-1, spec/01_machine_state.md Table 01-8). -/
def loanRequests : Nat := 8192

/-- Rows of a bank (spec/14_dram_system.md R289). -/
def rowsPerBank : Nat := 12288

/-- Cycles from the issue of a D slot to its arrival (spec/11_instr_dram.md R219). -/
def dArrival : Nat := 48

/-- The delay bundles of a taken transfer (spec/02_bundles_and_encoding.md R63). -/
def delayBundles : Nat := 3

/-- The entries of `$tol` at launch (spec/18_integrity_repair.md Table 18-2, R355); entry 14 is 0. -/
def tolTable : List (Nat × Reg) :=
  (List.range 14).map (fun e => (e, BitVec.ofNat 64 ((104 + e) * 2 ^ 23))) ++ [(15, 0x0080000037800000)]

/-- Rounds from a loan's issue to its delivery on a deterministic core (spec/16_scheduling.md R329). -/
def deliveryRounds : Nat := 256

end Sys2Proof.Config
end

