-- ==== Sys2Proof/Machine/Num.lean ====
section
/-!
DEFINITION. Number formats and arithmetic (spec/04_number_formats.md): exact values, the element encodings, rounding,
conversion, quantisation to blocks and the array's dot product.
-/

namespace Sys2Proof.Machine

/-- An exact value: NaN, an infinity, or a signed dyadic number `±m · 2^e`; a zero keeps its sign (R93, R101). -/
inductive Num where
  | nan
  | inf (neg : Bool)
  | fin (neg : Bool) (m : Nat) (e : Int)
  deriving DecidableEq, Repr

def Num.zero : Num := .fin false 0 0

def Num.ofInt (i : Int) : Num := .fin (decide (i < 0)) i.natAbs 0

def Num.neg? : Num → Bool
  | .nan => false
  | .inf n => n
  | .fin n _ _ => n

def Num.isZero : Num → Bool
  | .fin _ 0 _ => true
  | _ => false

def Num.finite : Num → Bool
  | .fin _ _ _ => true
  | _ => false

/-- The signed mantissa of a finite value at exponent `e`, at most its own. -/
def Num.scaled (n : Bool) (m : Nat) (e lo : Int) : Int :=
  (if n then -1 else 1) * ((m * 2 ^ (e - lo).toNat : Nat) : Int)

/-- Exact sum; an exact zero sum is +0 but for two −0; inf − inf is NaN (R101). -/
def Num.add : Num → Num → Num
  | .nan, _ => .nan
  | _, .nan => .nan
  | .inf a, .inf b => if a = b then .inf a else .nan
  | .inf a, _ => .inf a
  | _, .inf b => .inf b
  | .fin na ma ea, .fin nb mb eb =>
    let lo := min ea eb
    let t := Num.scaled na ma ea lo + Num.scaled nb mb eb lo
    if t = 0 then .fin (ma == 0 && mb == 0 && na && nb) 0 0 else .fin (decide (t < 0)) t.natAbs lo

/-- Exact product; 0 × inf is NaN (R101). -/
def Num.mul : Num → Num → Num
  | .nan, _ => .nan
  | _, .nan => .nan
  | .inf a, .inf b => .inf (a != b)
  | .inf a, .fin n m _ => if m = 0 then .nan else .inf (a != n)
  | .fin n m _, .inf b => if m = 0 then .nan else .inf (n != b)
  | .fin na ma ea, .fin nb mb eb => .fin (na != nb) (ma * mb) (ea + eb)

def Num.negate : Num → Num
  | .nan => .nan
  | .inf n => .inf (!n)
  | .fin n m e => .fin (!n) m e

/-- Exact order of two values that are not NaN: a < b, with −0 below +0 where `zeros` asks for it. -/
def Num.lt (zeros : Bool) : Num → Num → Bool
  | .nan, _ => false
  | _, .nan => false
  | .inf a, .inf b => a && !b
  | .inf a, _ => a
  | _, .inf b => !b
  | .fin na ma ea, .fin nb mb eb =>
    let lo := min ea eb
    let x := Num.scaled na ma ea lo
    let y := Num.scaled nb mb eb lo
    decide (x < y) || (zeros && ma == 0 && mb == 0 && na && !nb)

/-- Equal values; the two zeros are equal, NaN equals nothing. -/
def Num.eq : Num → Num → Bool
  | .nan, _ => false
  | _, .nan => false
  | .inf a, .inf b => a == b
  | .inf _, _ => false
  | _, .inf _ => false
  | .fin na ma ea, .fin nb mb eb =>
    let lo := min ea eb
    Num.scaled na ma ea lo == Num.scaled nb mb eb lo

/-- Magnitude. -/
def Num.abs : Num → Num
  | .nan => .nan
  | .inf _ => .inf false
  | .fin _ m e => .fin false m e

/-! ### Floating encodings (Table 04-4) -/

/-- Which codes are special: IEEE infinities and NaN, the E4M3 NaN, none. -/
inductive Special where
  | ieee
  | e4m3
  | none
  deriving DecidableEq, Repr

/-- A floating encoding: exponent and fraction widths, bias, special codes. -/
structure FloatFmt where
  ew : Nat
  mw : Nat
  bias : Nat
  special : Special
  deriving DecidableEq, Repr

def binary32 : FloatFmt := ⟨8, 23, 127, .ieee⟩
def bfloat16 : FloatFmt := ⟨8, 7, 127, .ieee⟩
def binary16 : FloatFmt := ⟨5, 10, 15, .ieee⟩
def fmtE4M3 : FloatFmt := ⟨4, 3, 7, .e4m3⟩
def fmtE5M2 : FloatFmt := ⟨5, 2, 15, .ieee⟩
def fmtE3M2 : FloatFmt := ⟨3, 2, 3, .none⟩
def fmtE2M3 : FloatFmt := ⟨2, 3, 1, .none⟩
def fmtE2M1 : FloatFmt := ⟨2, 1, 1, .none⟩

/-- The value of a code (R87). -/
def FloatFmt.decode (f : FloatFmt) (c : Nat) : Num :=
  let frac := c % 2 ^ f.mw
  let e := c / 2 ^ f.mw % 2 ^ f.ew
  let neg := c / 2 ^ (f.mw + f.ew) % 2 == 1
  if f.special == .ieee && e == 2 ^ f.ew - 1 then (if frac = 0 then .inf neg else .nan)
  else if f.special == .e4m3 && e == 15 && frac == 7 then .nan
  else if e = 0 then .fin neg frac (1 - (f.bias : Int) - f.mw)
  else .fin neg (2 ^ f.mw + frac) ((e : Int) - f.bias - f.mw)

/-- The largest finite code without its sign. -/
def FloatFmt.maxCode (f : FloatFmt) : Nat :=
  match f.special with
  | .ieee => (2 ^ f.ew - 1) * 2 ^ f.mw - 1
  | .e4m3 => 0x7E
  | .none => 2 ^ (f.ew + f.mw) - 1

/-- A code with a sign. -/
def FloatFmt.signed (f : FloatFmt) (neg : Bool) (c : Nat) : Nat := (if neg then 2 ^ (f.ew + f.mw) else 0) + c

/-- The infinity of an IEEE-style encoding. -/
def FloatFmt.infCode (f : FloatFmt) : Nat := (2 ^ f.ew - 1) * 2 ^ f.mw

/-- Rounding modes (Table 04-5). -/
inductive Mode where
  | rne
  | rz
  | rup
  | rdn
  | sr
  deriving DecidableEq, Repr

def modeOf (n : Nat) : Mode :=
  match n with
  | 0 => .rne
  | 1 => .rz
  | 2 => .rup
  | 3 => .rdn
  | _ => .sr

/-- Overflow of a finite value (Table 04-6). -/
def FloatFmt.overflow (f : FloatFmt) (neg : Bool) (mode : Mode) (sat : Bool) : Nat :=
  match f.special with
  | .none => f.signed neg f.maxCode
  | .e4m3 => if sat then f.signed neg f.maxCode else 0x7F
  | .ieee =>
    if sat then f.signed neg f.maxCode
    else
      match mode with
      | .rne | .sr => f.signed neg f.infCode
      | .rz => f.signed neg f.maxCode
      | .rup => if neg then f.signed true f.maxCode else f.infCode
      | .rdn => if neg then f.signed true f.infCode else f.maxCode

/-- An infinite input (Table 04-6). -/
def FloatFmt.infResult (f : FloatFmt) (neg sat : Bool) : Nat :=
  match f.special with
  | .none => f.signed neg f.maxCode
  | .e4m3 => if sat then f.signed neg f.maxCode else 0x7F
  | .ieee => f.signed neg (if sat then f.maxCode else f.infCode)

/-- The canonical NaN (R88); a format without one overflows (R96). -/
def FloatFmt.nanCode (f : FloatFmt) (mode : Mode) (sat : Bool) : Nat :=
  match f.special with
  | .ieee => f.infCode + 2 ^ (f.mw - 1)
  | .e4m3 => 0x7F
  | .none => f.overflow false mode sat

/-- Whether a magnitude moves away from zero: `rem` of `2^sh` is discarded, more below it when `sticky` (R96). -/
def roundsAway (mode : Mode) (neg odd : Bool) (rem sh : Nat) (sticky : Bool) (r : Nat) : Bool :=
  let inexact := rem != 0 || sticky
  match mode with
  | .rne => decide (2 ^ sh < 2 * rem) || (2 * rem == 2 ^ sh && (sticky || odd))
  | .rz => false
  | .rup => inexact && !neg
  | .rdn => inexact && neg
  | .sr => decide (2 ^ 32 ≤ rem * 2 ^ 32 / 2 ^ sh + r)

/-- Round a magnitude `m · 2^e` to a multiple of `2^u`: the multiple. -/
def roundTo (mode : Mode) (neg : Bool) (m : Nat) (e u : Int) (sticky : Bool) (r : Nat) : Nat :=
  if u ≤ e then m * 2 ^ (e - u).toNat
  else
    let sh := (u - e).toNat
    let q := m / 2 ^ sh
    if roundsAway mode neg (q % 2 == 1) (m % 2 ^ sh) sh sticky r then q + 1 else q

/-- Exponent of the leading bit of a nonzero magnitude. -/
def leadExp (m : Nat) (e : Int) : Int := e + (Nat.log2 m : Nat)

/-- Round a finite nonzero magnitude into a floating encoding (R96); `sticky` says that the value lies above `m · 2^e` by
less than one unit of it. -/
def FloatFmt.roundMag (f : FloatFmt) (neg : Bool) (m : Nat) (e : Int) (sticky : Bool) (mode : Mode) (sat : Bool)
    (r : Nat) : Nat :=
  let emin : Int := 1 - (f.bias : Int)
  let u := max (leadExp m e) emin - f.mw
  let q := roundTo mode neg m e u sticky r
  let code := if q < 2 ^ f.mw then q
    else if q = 2 ^ (f.mw + 1) then ((u + 1 + f.mw + f.bias) * (2 ^ f.mw : Nat)).toNat
    else ((u + f.mw + f.bias) * (2 ^ f.mw : Nat)).toNat + (q - 2 ^ f.mw)
  if f.maxCode < code then f.overflow neg mode sat else f.signed neg code

/-- `round_fmt` into a floating encoding (R96). -/
def FloatFmt.round (f : FloatFmt) (x : Num) (mode : Mode) (sat : Bool) (r : Nat) : Nat :=
  match x with
  | .nan => f.nanCode mode sat
  | .inf n => f.infResult n sat
  | .fin n 0 _ => f.signed n 0
  | .fin n m e => f.roundMag n m e false mode sat r

/-! ### Integers (R89, R98) -/

/-- An n-bit two's-complement code; with `sym` the most negative code reads as −(2^(n−1) − 1). -/
def intCode (n : Nat) (sym : Bool) (c : Nat) : Int :=
  let c := c % 2 ^ n
  if c < 2 ^ (n - 1) then (c : Int)
  else if sym && c == 2 ^ (n - 1) then -((2 ^ (n - 1) - 1 : Nat) : Int)
  else (c : Int) - (2 ^ n : Nat)

def intLo (n : Nat) (sgn sym : Bool) : Int :=
  if sgn then (if sym then -((2 ^ (n - 1) - 1 : Nat) : Int) else -((2 ^ (n - 1) : Nat) : Int)) else 0

def intHi (n : Nat) (sgn : Bool) : Int := if sgn then ((2 ^ (n - 1) - 1 : Nat) : Int) else ((2 ^ n - 1 : Nat) : Int)

/-- The low n bits of an integer. -/
def intBits (n : Nat) (i : Int) : Nat := (i % (2 ^ n : Nat)).toNat

/-- `round_int` (R98). -/
def roundInt (n : Nat) (sgn sym : Bool) (x : Num) (mode : Mode) (sat : Bool) (r : Nat) : Nat :=
  match x with
  | .nan => 0
  | .inf neg => if sat then intBits n (if neg then intLo n sgn sym else intHi n sgn) else 0
  | .fin neg m e =>
    let q := roundTo mode neg m e 0 false r
    let v : Int := if neg then -(q : Int) else q
    if sat then intBits n (max (intLo n sgn sym) (min v (intHi n sgn))) else intBits n v

/-! ### Format words (R84, R93) -/

def fwCode (fw : Nat) : Nat := fw % 32
def fwBw (fw : Nat) : Nat := fw / 32 % 16
def fwSgn (fw : Nat) : Bool := fw / 512 % 2 == 1
def fwSym (fw : Nat) : Bool := fw / 1024 % 2 == 1
def fwXsub (fw : Nat) : Nat := fw / 2048 % 4
def fwMode (fw : Nat) : Mode := modeOf (fw / 8192 % 8)
def fwSat (fw : Nat) : Bool := fw / 65536 % 2 == 1

/-- MX and BBF formats (R91). -/
def isBlock (fw : Nat) : Bool := (decide (5 ≤ fwCode fw) && decide (fwCode fw ≤ 0xA)) || fwCode fw == 0xD

/-- The I group (R83). -/
def isInt (fw : Nat) : Bool := fwCode fw == 0xB || fwCode fw == 0xC

/-- Element width in bits (Table 04-1). -/
def elemBits (fw : Nat) : Nat :=
  match fwCode fw with
  | 0 => 32
  | 1 => 16
  | 2 => 16
  | 7 => 6
  | 8 => 6
  | 9 => 4
  | 0xC => 4
  | 0xD => fwBw fw
  | _ => 8

/-- The floating encoding of a format code. -/
def floatOf (fw : Nat) : Option FloatFmt :=
  match fwCode fw with
  | 0 => some binary32
  | 1 => some bfloat16
  | 2 => some binary16
  | 3 => some fmtE4M3
  | 4 => some fmtE5M2
  | 5 => some fmtE4M3
  | 6 => some fmtE5M2
  | 7 => some fmtE3M2
  | 8 => some fmtE2M3
  | 9 => some fmtE2M1
  | _ => none

/-- `val` (R93). -/
def valOf (fw c : Nat) : Num :=
  match floatOf fw with
  | some f => f.decode c
  | none =>
    if fwCode fw = 0xA then
      (match Num.ofInt (intCode 8 (fwSym fw) c) with
       | .fin n m e => .fin n m (e - 6)
       | x => x)
    else if fwCode fw = 0xD then Num.ofInt (intCode (fwBw fw) (fwSym fw) c)
    else if fwSgn fw then Num.ofInt (intCode (elemBits fw) (fwSym fw) c)
    else Num.ofInt ((c % 2 ^ elemBits fw : Nat) : Int)

/-- A block scale: NaN, zero or a power of two (R93). -/
inductive Scale where
  | nan
  | zero
  | pow (e : Int)
  deriving DecidableEq, Repr

/-- `xscale` (R93). -/
def scaleOf (fw x : Nat) : Scale :=
  if !isBlock fw then .pow 0
  else if x = 0xFF && fwXsub fw = 0 then .nan
  else if x = 0xFF && fwXsub fw = 1 then .zero
  else
    let x := if x = 0xFF then 0xFE else x
    if fwCode fw = 0xD then .pow ((x : Int) - 127 - ((fwBw fw : Int) - 1)) else .pow ((x : Int) - 127)

/-- A value times a scale; a zero scale gives +0 whatever the value (R93). -/
def Num.times (x : Num) : Scale → Num
  | .nan => .nan
  | .zero => .zero
  | .pow k =>
    match x with
    | .fin n m e => .fin n m (e + k)
    | y => y

/-- An element under its block scale. -/
def elemVal (fw c x : Nat) : Num := (valOf fw c).times (scaleOf fw x)

/-- `round_fmt` under a format word with a given saturation (R96). -/
def roundFmt (fw : Nat) (x : Num) (mode : Mode) (sat : Bool) (r : Nat) : Nat :=
  match floatOf fw with
  | some f => f.round x mode sat r
  | none => roundInt (elemBits fw) (fwSgn fw) (fwSym fw) x mode sat r

/-- A packed run of `b`-bit codes as a number (R90). -/
def packRun (b : Nat) : List Nat → Nat
  | [] => 0
  | x :: r => x + 2 ^ b * packRun b r

/-- The first `n` codes of `b` bits of a packed run (R90). -/
def codesOf (b : Nat) : Nat → Nat → List Nat
  | 0, _ => []
  | n + 1, x => x % 2 ^ b :: codesOf b n (x / 2 ^ b)

/-! ### Quantisation (R100) -/

/-- emax of the MX element types (Table 04-7). -/
def emaxOf (fw : Nat) : Int :=
  match fwCode fw with
  | 5 => 8
  | 6 => 15
  | 7 => 4
  | 8 => 2
  | 9 => 2
  | _ => 0

/-- Round one element of a block, saturating (R100). -/
def quantElem (fw : Nat) (x : Num) (mode : Mode) (r : Nat) : Nat :=
  match floatOf fw with
  | some f => f.round x mode true r
  | none =>
    if fwCode fw = 0xA then
      (match x with
       | .fin n m e => roundInt 8 true (fwSym fw) (.fin n m (e + 6)) mode true r
       | y => roundInt 8 true (fwSym fw) y mode true r)
    else roundInt (fwBw fw) true (fwSym fw) x mode true r

/-- The larger magnitude of a list of finite values. -/
def maxMag : List Num → Num
  | [] => .zero
  | x :: r => if Num.lt false (maxMag r) x.abs then x.abs else maxMag r

/-- `quant_block` (R100): the scale code and the 32 element codes. -/
def quantBlock (fw : Nat) (xs : List Num) (mode : Mode) : Nat × List Nat :=
  if xs.any (fun x => !x.finite) then (0xFF, xs.map (fun _ => 0))
  else
    match maxMag xs with
    | .fin _ m e =>
      if m = 0 then (0, xs.map (fun _ => 0))
      else
        let l := leadExp m e
        let s := if fwCode fw = 0xD then l + 128 else l - emaxOf fw + 127
        let s := (min (max s 0) 254).toNat
        match scaleOf fw s with
        | .pow k => (s, xs.map (fun x => quantElem fw (x.times (.pow (-k))) mode 0))
        | _ => (s, xs.map (fun _ => 0))
    | _ => (0, xs.map (fun _ => 0))

/-! ### The array (R103 to R105) -/

/-- Exact sum of a list, left to right; an exact zero sum is +0. -/
def sumNum (xs : List Num) : Num := xs.foldl Num.add .zero

/-- `rne32` of an exact value: a binary32 code. -/
def rne32 (x : Num) : Nat := binary32.round x .rne false 0

/-- A binary32 code as an exact value. -/
def val32 (c : Nat) : Num := binary32.decode c

/-- Sum terms four at a time, one rounding for each group (R103). -/
def sumGroups : Nat → List Num → Nat → Nat
  | 0, _, s => s
  | n + 1, ts, s =>
    match ts with
    | [] => s
    | ts => sumGroups n (ts.drop 4) (rne32 (sumNum (val32 s :: ts.take 4)))

/-- An exact zero term is +0 (R103). -/
def plusZero (x : Num) : Num := if x.isZero then .zero else x

/-- A scale as a value (R93). -/
def Scale.num : Scale → Num
  | .nan => .nan
  | .zero => .zero
  | .pow k => .fin false 1 k

/-- The elements of a row or column before their scale: those of a block whose scale is 0 are +0 (R93). -/
def rawVals (fw : Nat) (a sa : List Nat) : List Num :=
  List.zipWith (fun k x => if scaleOf fw (sa.getD (k / 32) 0) = .zero then .zero else valOf fw x) (List.range a.length) a

/-- `array_dot` in the F group: a binary32 code (R103). Scales are those of the four blocks of the row and column. -/
def arrayDotF (fa : Nat) (a sa : List Nat) (fb : Nat) (b sb : List Nat) (kv : Nat) : Nat :=
  let ps := (List.zipWith (fun x y => plusZero (x.mul y)) (rawVals fa a sa) (rawVals fb b sb)).take kv
  if isBlock fa || isBlock fb then
    let terms := (List.range 4).map (fun m =>
      let e := sumNum ((ps.drop (32 * m)).take 32)
      val32 (rne32 (plusZero ((e.mul (scaleOf fa (sa.getD m 0)).num).mul (scaleOf fb (sb.getD m 0)).num))))
    sumGroups 1 terms 0
  else sumGroups 32 (ps ++ List.replicate (128 - ps.length) .zero) 0

/-- The integer of an element of the I group. -/
def intVal (fw c : Nat) : Int :=
  match valOf fw c with
  | .fin n m _ => if n then -(m : Int) else m
  | _ => 0

/-- The exact integer sum of the I group (R104). -/
def arrayDotI (fa : Nat) (a : List Nat) (fb : Nat) (b : List Nat) (kv : Nat) : Int :=
  ((List.zipWith (fun x y => intVal fa x * intVal fb y) a b).take kv).foldl (fun s x => s + x) 0

/-- The margin's dot product in the F group: binary32 margin elements, the partner's elements under their own scales,
single products grouped by four (R105). -/
def marginDotF (mg : List Nat) (fb : Nat) (b sb : List Nat) (kv : Nat) : Nat :=
  let bs := (List.range b.length).map (fun k => elemVal fb (b.getD k 0) (sb.getD (k / 32) 0))
  let ps := (List.zipWith (fun x y => plusZero ((val32 x).mul y)) mg bs).take kv
  sumGroups 32 (ps ++ List.replicate (128 - ps.length) .zero) 0

/-- An s32 code as an integer. -/
def s32 (c : Nat) : Int := intCode 32 false c

/-- The margin's dot product in the I group. -/
def marginDotI (mg : List Nat) (fb : Nat) (b : List Nat) (kv : Nat) : Int :=
  ((List.zipWith (fun x y => s32 x * intVal fb y) mg b).take kv).foldl (fun s x => s + x) 0

/-- The corner: margin by margin (R105). -/
def cornerDotF (x y : List Nat) (kv : Nat) : Nat :=
  let ps := (List.zipWith (fun x y => plusZero ((val32 x).mul (val32 y))) x y).take kv
  sumGroups 32 (ps ++ List.replicate (128 - ps.length) .zero) 0

def cornerDotI (x y : List Nat) (kv : Nat) : Int :=
  ((List.zipWith (fun x y => s32 x * s32 y) x y).take kv).foldl (fun s x => s + x) 0

/-! ### Elementary functions (spec/08_instr_vector.md R162) -/

/-- Integer square root of a number below `4^n`, by digits. -/
def isqrt : Nat → Nat → Nat
  | 0, _ => 0
  | n + 1, x =>
    let r := 2 * isqrt n (x / 4)
    if (r + 1) * (r + 1) ≤ x then r + 1 else r

/-- ln 2 times 2^320, rounded down. -/
def ln2Fixed : Nat := 0xb17217f7d1cf79abc9e3b39803f2f6af40f343267298b62d8a0d175b8baafa2be7b876206debac98

/-- exp of a fixed-point number below 1 with 320 fraction bits, rounded down: a Taylor sum of `n` terms (log 9). -/
def expSum (y : Nat) : Nat → Nat → Nat → Nat
  | 0, _, _ => 0
  | n + 1, k, t => t + expSum y n (k + 1) (t * y / 2 ^ 320 / (k + 1))

/-- 2^x rounded to nearest even into a floating encoding (R162). -/
def exp2Round (f : FloatFmt) (x : Num) : Nat :=
  match x with
  | .nan => f.nanCode .rne false
  | .inf neg => if neg then 0 else f.infCode
  | .fin neg m e =>
    if m = 0 then f.round (.fin false 1 0) .rne false 0
    else if 12 < leadExp m e then
      (if neg then f.roundMag false 1 (-5000) true .rne false 0 else f.roundMag false 1 5000 false .rne false 0)
    else
      let v : Int := Num.scaled neg m (e + 320) 0
      let v := if e + 320 < 0 then (if neg then -1 else 0) else v
      let i := v / (2 ^ 320 : Nat)
      let fr := (v % (2 ^ 320 : Nat)).toNat
      if fr = 0 && 0 ≤ e + 320 then f.round (.fin false 1 i) .rne false 0
      else f.roundMag false (expSum (fr * ln2Fixed / 2 ^ 320) 70 0 (2 ^ 320)) (i - 320) true .rne false 0

/-- 1/x rounded to nearest even (R162). -/
def rcpRound (f : FloatFmt) (x : Num) : Nat :=
  match x with
  | .nan => f.nanCode .rne false
  | .inf neg => f.signed neg 0
  | .fin neg m e =>
    if m = 0 then f.infResult neg false
    else
      let k := Nat.log2 m + 80
      f.roundMag neg (2 ^ k / m) (-e - k) (2 ^ k % m != 0) .rne false 0

/-- 1/√x rounded to nearest even (R162). -/
def rsqrtRound (f : FloatFmt) (x : Num) : Nat :=
  match x with
  | .nan => f.nanCode .rne false
  | .inf neg => if neg then f.nanCode .rne false else 0
  | .fin neg m e =>
    if m = 0 then f.infResult neg false
    else if neg then f.nanCode .rne false
    else
      let m := if e % 2 = 0 then m else 2 * m
      let e := if e % 2 = 0 then e else e - 1
      let k := Nat.log2 m + 80
      let q := 2 ^ (2 * k) / m
      let r := isqrt (k + 2) q
      f.roundMag false r (-e / 2 - k) (r * r * m != 2 ^ (2 * k)) .rne false 0

/-! ### V element types (R101) -/

/-- The floating encoding of a V type. -/
def vFloat (t : ElemType) : FloatFmt :=
  match t with
  | .bf16 => bfloat16
  | .f16 => binary16
  | _ => binary32

/-- An element as an exact value. -/
def vVal (t : ElemType) (c : Nat) : Num :=
  if t.isFloat then (vFloat t).decode c else Num.ofInt (intCode (8 * t.width) false c)

/-- Round into a V type. -/
def vRound (t : ElemType) (x : Num) (mode : Mode) (sat : Bool) (r : Nat) : Nat :=
  if t.isFloat then (vFloat t).round x mode sat r else roundInt (8 * t.width) true false x mode sat r

end Sys2Proof.Machine
end

