-- ==== Sys2Proof/Machine/Store.lean ====
section
/-!
DEFINITION. Sparse storage: a list of (key, value) pairs with strictly rising keys and no entry equal to the value that
an unlisted key reads as. Memory, register files, contexts, cores and queues are all held so, with one canonical form.
-/

namespace Sys2Proof.Machine

/-- Sparse storage with keys in Nat. -/
abbrev Store (β : Type) := List (Nat × β)

/-- The value at a key; `d` is what an unlisted key reads as. -/
def sget {β : Type} (d : β) : Store β → Nat → β
  | [], _ => d
  | (k, v) :: r, i => if k = i then v else sget d r i

/-- Put an entry at its place among rising keys. -/
def sput {β : Type} : Store β → Nat → β → Store β
  | [], i, x => [(i, x)]
  | (k, v) :: r, i, x =>
    if i < k then (i, x) :: (k, v) :: r else if i = k then (i, x) :: r else (k, v) :: sput r i x

/-- Write one key, keeping the canonical form: writing the default removes the entry. -/
def sset {β : Type} [DecidableEq β] (d : β) (m : Store β) (i : Nat) (x : β) : Store β :=
  if x = d then m.filter (fun e => decide (e.1 ≠ i)) else sput m i x

/-- The canonical form: keys rise strictly from above `lo`, and no value is the default. -/
def swfFrom {β : Type} [DecidableEq β] (d : β) : Nat → Store β → Bool
  | _, [] => true
  | lo, (k, v) :: r => decide (lo ≤ k) && decide (v ≠ d) && swfFrom d (k + 1) r

/-- The canonical form of a whole store. -/
def swf {β : Type} [DecidableEq β] (d : β) (m : Store β) : Bool := swfFrom d 0 m

/-- The values at `n` keys from `base` on, in one pass over rising keys. -/
def sreadFrom {β : Type} (d : β) : Store β → Nat → Nat → List β
  | _, _, 0 => []
  | [], base, n + 1 => d :: sreadFrom d [] (base + 1) n
  | (k, v) :: r, base, n + 1 =>
    if k = base then v :: sreadFrom d r (base + 1) n else d :: sreadFrom d ((k, v) :: r) (base + 1) n

/-- The values at `n` keys from `base` on. -/
def sread {β : Type} (d : β) (m : Store β) (base n : Nat) : List β :=
  sreadFrom d (m.filter (fun e => decide (base ≤ e.1))) base n

/-- The entries of a run of values from `base` on, without the defaults. -/
def srun {β : Type} [DecidableEq β] (d : β) : Nat → List β → Store β
  | _, [] => []
  | base, v :: r => if v = d then srun d (base + 1) r else (base, v) :: srun d (base + 1) r

/-- Write a run of values from `base` on, keeping the canonical form. -/
def swrite {β : Type} [DecidableEq β] (d : β) (m : Store β) (base : Nat) (vs : List β) : Store β :=
  m.filter (fun e => decide (e.1 < base)) ++ srun d base vs ++
    m.filter (fun e => decide (base + vs.length ≤ e.1))

end Sys2Proof.Machine
end

