-- ==== Sys2Proof/Machine/State.lean ====
section
/-!
DEFINITION. The state of one B9 device as plain data: contexts, cores, dies and base dies, HBM4, links, loans, launches,
steward and host port, and the model's own work lists. INVENTORY.md lists every field with its rule and reset value.
-/

namespace Sys2Proof.Machine

/-- Why the machine has no next state: nothing raises a fault, since the spec gives every instruction and event of this
device an effect, and a trap is a next state. Safe: no behaviour is shut out. -/
inductive Fault where
  deriving DecidableEq, Repr

/-- Why the machine refuses an instruction. -/
inductive Refusal where
  /-- Raised by an arm of `exec` whose instruction has no meaning yet. Safe: nothing is claimed of it. -/
  | notModelled (mnemonic : String)
  deriving DecidableEq, Repr

/-! ### Context state -/

/-- Shelf states (spec/01_machine_state.md R26). -/
inductive ShelfState where
  | empty
  | filling
  | full
  | draining
  deriving DecidableEq, Repr

/-- A shelf descriptor (Table 01-6). -/
structure Shelf where
  base : BitVec 16 := 0
  len : BitVec 16 := 0
  dbl : Bool := false
  fh : Bool := false
  fs : ShelfState := .empty
  bs : ShelfState := .empty
  fp : Bool := false
  bp : Bool := false
  deriving DecidableEq, Repr

/-- A loop-stack entry (Table 01-5). -/
structure LoopEntry where
  count : Word
  index : Word
  start : Word
  stop : Word
  rot : Bool
  vrot : Bool
  deriving DecidableEq, Repr

/-- Loan token states (R31). -/
inductive TokenState where
  | free
  | busy
  | done
  | fault
  deriving DecidableEq, Repr

/-- A loan token: its state, the fault status that `k.wait` reports (R128), the number of the loan that holds it and, on
a deterministic core, the delivery round (spec/16_scheduling.md R329, R331). -/
structure Token where
  st : TokenState := .free
  status : Nat := 0
  loan : Nat := 0
  round : Nat := 0
  deriving DecidableEq, Repr

/-- One entry of an accumulator's history (spec/10_instr_matrix.md R203, R205, R210). -/
structure HistEntry where
  set : Bool
  sh : Nat
  off : Nat
  fa : Word
  kv : Nat
  desc : Reg
  deriving DecidableEq, Repr

/-- Side storage of an accumulator (R203): margin strip of 257 words (row margin i at i, column margin j at 128 + j,
corner at 256), flags, tag and history (`none`: unknown). -/
structure ZSide where
  strip : Store Word := []
  mr : Bool := true
  mc : Bool := true
  iv : Nat := 128
  jv : Nat := 128
  grpI : Bool := false
  wide : Bool := false
  hist : Option (List HistEntry) := some []
  deriving DecidableEq, Repr

/-- The scalar state that a quiet record keeps (R33, Table 01-1, spec/17_traps_preemption.md Table 17-5). -/
structure Record where
  pc : Word := 0
  preds : BitVec 16 := 1
  lk : Word := 0
  loops : List LoopEntry := []
  bts : Store (BitVec 17) := []
  rrb : BitVec 8 := 0
  ra : Store Reg := []
  rb : Store Reg := []
  rn : Store Reg := []
  rd : Store Reg := []
  rl : Store Reg := []
  lp : Word := 0
  vl : Nat := 2048
  shelves : Store Shelf := []
  fa : Word := 0
  fb : Word := 0
  fc : Word := 0
  tol : Store Reg := Config.tolTable
  stat : Reg := 0
  toks : Store Token := []
  qmax : Nat := 4096
  stamp : Reg := 0
  retired : Nat := 0
  round : Nat := 0
  deriving DecidableEq, Repr

/-- An entry of the loan log (R37): the fields compared on re-issue and the completion kept; `bad`: the old value was
poisoned. -/
structure LogEntry where
  ordinal : Nat
  op : BitVec 8
  tk : Nat
  src : Reg
  dst : Reg
  opnd : Reg
  status : Nat
  old : Reg
  round : Nat
  bad : Bool := false
  deriving DecidableEq, Repr

/-- A write in the format-register shadow (spec/02_bundles_and_encoding.md R65): `num` is a special-register number of
Table 05-5 for `$fa`, `$fb`, `$fc` and `$tol`, and 0x100 + entry for both words of a queue (source in [31:0], sink in
[63:32]); `left` counts the bundles that still use the old value. -/
structure Shadow where
  num : Nat
  v : Reg
  left : Nat
  deriving DecidableEq, Repr

/-- A trap or event waiting to enter the handler (spec/17_traps_preemption.md R338, R339). -/
structure TrapInfo where
  cause : Nat
  dfr : Bool
  more : Bool
  pc : Word
  info : Reg
  at_ : Nat
  deriving DecidableEq, Repr

/-- A deferred fault (R338): issue cycle, slot, burst, row or flit index, cause and detail. It traps in the cycle that finds it; on
a deterministic core that was frozen since the issue, in cycle `due`, which that is in turns (spec/16_scheduling.md R330). -/
structure Deferred where
  t : Nat
  slot : Nat
  sub : Nat
  cause : Nat
  pc : Word
  info : Reg
  due : Nat := 0
  deriving DecidableEq, Repr

/-- A context that a `k.yield` waits for (spec/06_instr_control.md R133): its slot, the `uid` of the context that stood there at
`t0`, its issue count then and whether it was held. -/
structure Awaited where
  key : Nat
  uid : Nat
  issued : Nat
  held : Bool
  deriving DecidableEq, Repr

/-- A re-timing bundle that has been presented (spec/06_instr_control.md R126): `t0`, the hold target, for `k.yield` the
contexts still waited for (R133), and whether its condition was not met at `t0`. -/
structure Held where
  t0 : Nat
  h : Reg
  others : List Awaited
  waits : Bool
  deriving DecidableEq, Repr

/-- What a context is doing. `idle`: no launch; `wait`: kept for a saved
context whose area is being read (R350); `run`; `trap`: entering a
handler (R339); `resume`: restoring its record (R35); `ending`: after `k.halt` (R139); `stopped`: trap in supervisor
mode (R344); `saving`: pre-empted (R348); `saved`. -/
inductive Stage where
  | idle
  | wait
  | run
  | trap
  | resume
  | ending
  | stopped
  | saving
  | saved
  deriving DecidableEq, Repr

/-- Pending events of a context (R345, R346, R418). Each detail is the one the event will report; the `more` flags
record a merge. `overdueAt` and `spanAt` are the cycles from which the two traps of R346 are pending. -/
structure Pending where
  repair : Option Reg := none
  repairMore : Bool := false
  preempt : Bool := false
  preemptMore : Bool := false
  refresh : Option Reg := none
  refreshMore : Bool := false
  host : Option (BitVec 16) := none
  hostMore : Bool := false
  overdue : Option Reg := none
  overdueMore : Bool := false
  span : Option Reg := none
  spanMore : Bool := false
  overdueAt : Nat := 0
  spanAt : Nat := 0
  deriving DecidableEq, Repr

/-- What a bundle asked of the successor rule (spec/02_bundles_and_encoding.md R63): no transfer, a transfer to a target,
or the return of `k.rti` to the quiet record (R135). -/
inductive Xfer where
  | no
  | to (pc : Word)
  | rti
  deriving DecidableEq, Repr

/-- A V instruction whose quarters are being read (spec/08_instr_vector.md R157): the slot word, where it stands, its
element and quarter counts, the physical registers that it reads and what has been read of them. -/
structure VOp where
  o : Origin
  i : Instr
  cnt : Nat
  quarter : Nat
  quarters : Nat
  lReg : Reg
  predVal : Bool
  src : Nat
  src1 : Nat
  tsrc : Nat
  tsrc1 : Nat
  dst : Nat
  dst1 : Nat
  vs : List Byte
  vs1 : List Byte
  vt : List Byte
  vt1 : List Byte
  vd : List Byte
  q : List Bool
  seg : List Bool
  mq : Nat
  mqd : Nat
  deriving DecidableEq, Repr

/-- One context (spec/01_machine_state.md Table 01-1) with its issue state. `uid` tells it from every other context of the
device, whatever slot it stands in (R38, spec/14_dram_system.md R304); `fresh` that its initial record still waits for the stamp
of its first bundle (R33). `published` holds the last two cycles in which an `l.pub` of each shelf applied
(spec/13_memory_model.md R287); `closes` lists the precharges that a resumption has still to commit: pseudo-channel, bank and
the first arrival cycle allowed (R304). `was` holds the descriptors that transitions of a cycle replaced, with the cycle (R29);
`older` those that a timed transition replaced sooner in real cycles than in the turns of its core, with the cycle that it has
by the turns (spec/16_scheduling.md R330); `saveJob` and `saveStatus` the write of the save area and how it ended
(spec/17_traps_preemption.md R348). -/
structure Context where
  uid : Nat := 0
  stage : Stage := .idle
  launch : Nat := 0
  index : Nat := 0
  part : Nat := 0
  pc : Word := 0
  preds : BitVec 16 := 1
  lk : Word := 0
  loops : List LoopEntry := []
  bts : Store (BitVec 17) := []
  rrb : BitVec 8 := 0
  ra : Store Reg := []
  rb : Store Reg := []
  rn : Store Reg := []
  rd : Store Reg := []
  rl : Store Reg := []
  lp : Word := 0
  masks : Store (BitVec 8192) := []
  vl : Nat := 2048
  shelves : Store Shelf := []
  sides : Store ZSide := []
  fa : Word := 0
  fb : Word := 0
  fc : Word := 0
  tol : Store Reg := Config.tolTable
  stat : Reg := 0
  toks : Store Token := []
  il : Bool := false
  sup : Bool := false
  cls : BitVec 2 := 0
  partWord : Word := 0
  ix : Store Word := []
  qmax : Nat := 4096
  tvec : Word := 0
  tpc : Word := 0
  tcause : BitVec 8 := 0
  tinfo : Reg := 0
  qrec : Reg := 0
  record : Record := {}
  changed : BitVec 64 := 0
  log : List LogEntry := []
  ordinal : Nat := 0
  reserved : List Nat := []
  code : List Word := []
  xfers : List Xfer := [.no, .no, .no]
  held : Option Held := none
  shadow : List Shadow := []
  qcount : Nat := 0
  retired : Nat := 0
  issued : Nat := 0
  trap : Option TrapInfo := none
  deferred : List Deferred := []
  ev : Pending := {}
  breaks : List Word := []
  was : List (Nat × Nat × Shelf) := []
  older : List (Nat × Nat × Shelf) := []
  reissue : Bool := false
  busyAt : Option Nat := none
  resumeAt : Nat := 0
  vop : Option VOp := none
  gM : Bool := false
  gD : Bool := false
  gN : Bool := false
  wt : Nat := 1
  credit : Int := 1
  fence : List (Nat × Nat) := []
  bySup : Bool := false
  halted : Bool := false
  saveVA : Nat := 0
  anchor : Option Record := none
  lost : Bool := false
  turnRound : Nat := 0
  afterRepair : Option (Reg × Bool) := none
  saveCause : Nat := 0
  saveJob : Option Nat := none
  saveStatus : Option Nat := none
  fresh : Bool := false
  published : Store (Nat × Nat) := []
  closes : List (Nat × Nat × Int) := []
  deriving DecidableEq, Repr

/-! ### Core state -/

/-- The stationary operand held in the array (spec/10_instr_matrix.md R200, R201): codes and block scales by PE row,
the margin row, valid counts, the descriptor it was loaded under and the physical row of each logical row. `owner` is the
`uid` of the context that loaded it (spec/01_machine_state.md R38). -/
structure Operand where
  valid : Bool := false
  owner : Nat := 0
  desc : Reg := 0
  codes : List (List Nat) := []
  scales : List (List Nat) := []
  margin : List Nat := []
  marginOk : Bool := false
  kv : Nat := 0
  jv : Nat := 0
  rows : List Nat := []
  deriving DecidableEq, Repr

/-- A stationary load under way (R200, R201): the folio's pool address, the row map read at issue, and the folio rows and
the margins with scales read so far. -/
structure LoadOp where
  o : Origin
  tr : Bool
  gen : Bool
  acc : Access
  fb : Word
  addr : Nat := 0
  rows : List Nat := []
  rv : Nat := 0
  cv : Nat := 0
  mr : Bool := false
  mc : Bool := false
  lines : Store (List Nat) := []
  scales : List Byte := []
  words : List Nat := []
  deriving DecidableEq, Repr

/-- Where an `m.mul` takes its A rows or its P rows (Table 10-5). -/
inductive MSrc where
  | shelf (acc : Access)
  | chain
  | queue (lq : Nat)
  | none
  deriving DecidableEq, Repr

/-- A row of a streamed operand: codes with block scales, or margin words. -/
structure MRow where
  codes : List Nat
  scales : List Nat
  deriving DecidableEq, Repr

/-- A multiply under way (R205): its operand as captured at issue, the source and sink words of the queues of A and P as read
at issue (spec/02_bundles_and_encoding.md R65), what it has streamed, and what it forwards. -/
structure MulOp where
  o : Origin
  z : Nat
  pin : Nat
  wide : Bool
  a : MSrc
  p : MSrc
  fa : Word
  op : Operand
  af : Bool
  pf : Bool
  wa : BitVec 17 × BitVec 17 := (0, 0)
  wp : BitVec 17 × BitVec 17 := (0, 0)
  addr : Nat := 0
  kv : Nat := 0
  iv : Nat := 128
  amc : Bool := true
  arows : Store (Option MRow) := []
  amargin : List Nat := []
  pmr : Bool := true
  pmc : Bool := true
  prows : Store (List Nat) := []
  pmargin : List Nat := []
  outs : Store (List Nat) := []
  omr : Bool := true
  omc : Bool := true
  deriving DecidableEq, Repr

/-- A drain or `m.chk` under way (R208 to R212): what it reads at issue, the tag and history read with row 0, the rows
read, the element to recompute and the rows of its output. `late` lists rows that an `m.mul` updated after their read. -/
structure DrainOp where
  o : Origin
  chk : Bool
  z : Nat
  wide : Bool
  pub : Bool
  lq : Option Nat
  acc : Access
  fc : Word
  tol : Reg
  side : ZSide := {}
  rows : Store (List Nat) := []
  fix : Option (Nat × Nat) := none
  late : List Nat := []
  out : Store (List Num) := []
  deriving DecidableEq, Repr

/-- An entry of the errata table (spec/18_integrity_repair.md Table 18-3). -/
structure ErrEntry where
  w0 : BitVec 40
  n : Nat
  st : Nat
  lr : Nat
  deriving DecidableEq, Repr

/-- States of cores and dies (R361). -/
inductive UnitState where
  | active
  | reserve
  | retiring
  | retired
  deriving DecidableEq, Repr

/-- An event count in its window (R358, R362). -/
structure Window where
  w0 : BitVec 40 := 0
  n : Nat := 0
  deriving DecidableEq, Repr

/-- A cached translation (spec/15_translation_host.md R308, R309): its page, the mapping and its in-flight counter.
A dropped translation serves no new loan. -/
structure Trans1 where
  id : Nat
  part : Nat
  va : Nat
  size : Nat
  pa : Nat
  w : Bool
  g : Bool
  dev : Nat
  pins : Nat
  dropped : Bool
  deriving DecidableEq, Repr

/-- An invalidation under way (R310): the token or mailbox function that waits, and the translations it waits for. -/
structure Inval where
  id : Nat
  ctx : Option (Nat × Nat)
  fn : Option Nat
  waits : List (Nat × Nat)
  deriving DecidableEq, Repr

/-- One core, keyed by its logical position. On a deterministic core turns are given from cycle `startAt` on, and while
`awaits` is none (spec/16_scheduling.md R329, R331): otherwise the core waits for the contexts saved from that core. `lag` counts
its frozen cycles, and `seen` holds the phases of the barriers that changed in the first cycle of a freeze as its turns see them up
to cycle `seenTo` (R330). -/
structure Core where
  pool : Store Byte := []
  poolBad : List Nat := []
  poolSoft : List Nat := []
  corrected : Nat := 0
  vFree : Nat := 0
  vCtx : Nat := 0
  inFree : Nat := 0
  drFree : Nat := 0
  array : Operand := {}
  load : Option LoadOp := none
  qview : Store Word := []
  qviewPart : Nat := 0
  det : Bool := false
  turn : Nat := 0
  round : Nat := 0
  frozen : Bool := false
  lag : Nat := 0
  seen : List (Nat × BitVec 8) := []
  seenTo : Nat := 0
  startAt : Nat := 0
  awaits : Option Nat := none
  errw : BitVec 40 := 1073741824
  errt : BitVec 8 := 3
  events : Window := {}
  cache : List Trans1 := []
  deriving DecidableEq, Repr

/-! ### Dies and base dies -/

/-- A die barrier (spec/06_instr_control.md R129). `prev` is the phase before the changes of cycle `at_`, so that a
change is seen from the next cycle (R130). -/
structure Barrier where
  expected : Nat := 0
  arrivals : Nat := 0
  phase : BitVec 8 := 0
  prev : BitVec 8 := 0
  at_ : Nat := 0
  owner : Nat := 0
  deriving DecidableEq, Repr

/-- An entry of a die's launch pool (R131, R132). -/
structure PoolEntry where
  id : Nat
  raw : BitVec 512
  ctx : Nat
  launch : Nat
  part : Nat
  released : Bool
  order : Nat
  tried : Bool := false
  deriving DecidableEq, Repr

/-- A bay broadcast latch (spec/12_instr_network.md R250). -/
structure Latch where
  v : Reg := 0
  assigned : Bool := false
  part : Nat := 0
  deriving DecidableEq, Repr

/-- A request to the open-slot issuer (spec/14_dram_system.md R297) on a 64-byte granule: a read, a write of some of its
bytes with the columns whose data is poisoned, an atomic, or the adds of a scatter-accumulate in their order, with the
columns that a poisoned value is added to. -/
inductive ReqKind where
  | read
  | write (bytes : List (Nat × Byte)) (poison : List Nat)
  | atomic (op : Nat) (off : Nat) (size : Nat) (atype : Nat) (v : Nat) (cmp : Nat)
  | accumulate (size : Nat) (atype : Nat) (adds : List (Nat × Nat)) (poison : List Nat)
  deriving DecidableEq, Repr

/-- Who waits for a request. -/
inductive ReqOwner where
  | loan (id : Nat)
  | walk (id : Nat)
  | host (id : Nat)
  deriving DecidableEq, Repr

structure Request where
  id : Nat
  owner : ReqOwner
  cls : Nat
  dpa : Nat
  kind : ReqKind
  ready : Int
  order : Nat
  opened : Bool := false
  col0 : Bool := false
  col1 : Bool := false
  deriving DecidableEq, Repr

/-- A circulation-table entry (spec/14_dram_system.md Table 14-3). -/
structure CircEntry where
  owner : Nat := 0
  open_ : Bool := true
  deriving DecidableEq, Repr

/-- One pseudo-channel: checker history, circulation table, open-bank mask, refresh debts, issuer queue, and the forced
refreshes still to be committed, each with its bank and the cycle from which it may arrive (R300). -/
structure Pseudo where
  hist : List DCmd := []
  circ : Store CircEntry := []
  obank : BitVec 32 := 0
  donate : Store Bool := []
  debt : Store Int := []
  queue : List Request := []
  modes : Store (BitVec 8) := []
  actBy : Store Nat := []
  idleSince : Nat := 0
  owed : List (Nat × Int) := []
  deriving DecidableEq, Repr

/-- A bank window (spec/11_instr_dram.md R235). -/
structure BankWindow where
  base : Nat := 0
  count : Nat := 0
  deriving DecidableEq, Repr

/-- A timetable entry (spec/19_span_fabric.md Table 19-3). -/
structure TTEntry where
  kind : Nat := 2
  al : Bool := false
  part : Nat := 0
  fl : Nat := 0
  fq : Nat := 0
  deriving DecidableEq, Repr

/-- Sums that a receive queue keeps from a row-0 pop on (spec/12_instr_network.md R245): for each column and for the row
margins, the exact sum and the exact sum of magnitudes; and the column sums and row-margin sum after conversion. -/
structure QSums where
  cols : List (Num × Num) := []
  rows : Num × Num := (Num.zero, Num.zero)
  conv : List Num := []
  convRows : Num := Num.zero
  deriving DecidableEq, Repr

/-- A receive queue (Table 19-4) with the flits present, each with its nominal arrival, and the sums of R245 while they
are valid. -/
structure Queue where
  fs : BitVec 17 := 0
  fk : BitVec 17 := 0
  slack : Nat := 0
  ovf : Bool := false
  flits : List (Int × Flit) := []
  sums : Option QSums := none
  popAt : Option Nat := none
  deriving DecidableEq, Repr

/-- One link: the register of Table 19-2, its timetables, queues, replay state (R384), receive-order stage (R385) and
open buffer (R388). `inOld` keeps what the last changes of the in timetable replaced, with their cycles (R381); `passing` the
flits held for pass-through, with their outgoing link and the real cycle of their departure (R380); `credits` counts the
open-buffer credits sent to the far device (R372, R389). -/
structure Link where
  st : Nat := 0
  open_ : Bool := false
  upl : Bool := false
  f : Nat := 0
  lam : Nat := 0
  flink : Nat := 0
  fdev : Nat := 0
  rpl : Nat := 0
  outT : Store TTEntry := []
  inT : Store TTEntry := []
  queues : Store Queue := []
  seqOut : BitVec 8 := 0
  unacked : List (BitVec 8 × Flit) := []
  nacks : List (BitVec 8) := []
  seqIn : BitVec 8 := 0
  stage : List (BitVec 8 × Option (Int × Flit)) := []
  fails : Store Nat := []
  departs : List Int := []
  openBuf : List (Nat × Nat × List Flit) := []
  room : Nat := 0
  rxPacket : List (List Flit) := []
  acks : List (BitVec 8 × Bool) := []
  dropped : Nat := 0
  sent : List Flit := []
  markers : List Nat := []
  inOld : List (Int × Nat × TTEntry) := []
  passing : List (Nat × Nat × Flit) := []
  credits : Nat := 0
  slipped : Bool := false
  deriving DecidableEq, Repr

/-! ### Loans -/

/-- What an engine of the device reads or writes for itself, as untimed accesses that are translated like a loan's
(log 11): the walk of a VF's BAR2 access; a queue's read index, slot word, record, status byte and index write
(spec/15_translation_host.md R317); a section of a launch's image (spec/16_scheduling.md R320); a completion word with what
it says and the barrier that then gets its arrival (R417); the save area of a context, and its read for a restore onto a
slot (spec/17_traps_preemption.md R348, R350); the buffers of two commands (spec/20_bringup_power.md R397, R398). -/
inductive Job where
  | bar2 (acc : Nat)
  | queueIndex (q run : Nat)
  | queueWord (q run h : Nat)
  | queueRecord (q h : Nat)
  | queueStatus (q h : Nat)
  | queueNext (q h : Nat)
  | imgRead (launch : Nat)
  | word (part status code trapped : Nat) (bar : Option Nat)
  | save (ctx uid : Nat)
  | restore (saved key : Nat) (lvl : Option Nat) (fn : Option Nat)
  | report (fn : Nat)
  | image (fn : Nat)
  deriving DecidableEq, Repr

/-- Who a loan belongs to: a context, a host or peer queue, a peer device's request, or an engine's own work. -/
inductive LoanOwner where
  | context (k : Nat)
  | queue (q : Nat)
  | peer (p : Packet)
  | job (j : Job)
  deriving DecidableEq, Repr

/-- Progress of a loan (spec/12_instr_network.md R260, R267, R268): not begun; translating; reading; reads performed;
writing; the last access (a deposit's receipt, a remote publish); on its way to the row LOAN_COMPLETION; complete. -/
inductive LoanStage where
  | waiting
  | walking
  | reading
  | read
  | writing
  | last
  | completing
  | finished
  deriving DecidableEq, Repr

/-- The walk under way (spec/15_translation_host.md R308): page, level and the request that reads the entry. -/
structure Walk where
  va : Nat
  level : Nat
  addr : Nat
  req : Nat
  deriving DecidableEq, Repr

/-- A translated 64 KiB page of a loan: its number, the physical address of its first byte, whether it is writable, and
the home device of a span-global page (R308, R312). -/
structure Mapping where
  page : Nat
  pa : Nat
  w : Bool
  dev : Option Nat
  deriving DecidableEq, Repr

/-- One request that an engine makes for a loan: on a granule of this device (`global`: by a span-global page, R312), or a packet
to another home; each with the tag that goes with its answer. -/
inductive Ask where
  | granule (global : Bool) (dpa : Nat) (k : ReqKind) (tag : Nat)
  | packet (home : Nat) (rec : BitVec 512) (data : List (BitVec 512)) (tag : Nat)
  deriving DecidableEq, Repr

/-- The front half of an own shelf as it stood when a record was sampled: its descriptor, its bytes and the pool words of the core
that could not be corrected then (spec/13_memory_model.md R287, spec/18_integrity_repair.md R354). -/
structure Front where
  sh : Nat
  d : Shelf
  bytes : List Byte
  bad : List Nat := []
  deriving DecidableEq, Repr

/-- An outstanding end-to-end request (spec/19_span_fabric.md R389). -/
structure RemoteReq where
  id : Nat
  home : Nat
  engine : Nat
  seq : BitVec 32
  loan : Nat
  packet : Packet
  resends : Nat := 0
  sent : Bool := false
  deriving DecidableEq, Repr

/-- A loan. `sampled` is the cycle of its record's sample and `fronts` what its sources held then. `out` lists the requests
under way with a tag each: the granule read, or the granule sum of a deposit; `waits` those that wait for the engine's bound of
outstanding requests. `wants` is a region whose ownership token it waits for, with its arrival; `frees` a region whose release
waits for accesses under way. `phys` marks addresses that are DPAs. `half` and `left` are the half that a read-out named and the
granules it has not read yet, `freed` that an `l.rel` has let go of the half (spec/09_instr_scratchpad.md R192). `span` is the
run of addresses of an engine's own access. `answered` keeps the requests that their home has answered and performs only with
others that are still outstanding (spec/19_span_fabric.md R389, log 21). -/
structure Loan where
  id : Nat
  owner : LoanOwner
  core : Nat
  part : Nat
  root : Nat
  raw : BitVec 512
  u : Int
  cls : Nat
  stamp : Reg := 0
  ordinal : Option Nat := none
  fromLog : Option LogEntry := none
  mismatch : Bool := false
  afterRec : Bool := true
  fence : List Nat := []
  stage : LoanStage := .waiting
  idx : List Nat := []
  pages : List (Nat × Bool) := []
  walk : Option Walk := none
  trans : List Mapping := []
  pins : List Nat := []
  out : List (Nat × Nat) := []
  data : Store Byte := []
  bad : List Nat := []
  readsDone : Bool := false
  status : Nat := 0
  old : Reg := 0
  sum : Nat := 0
  bytes : Nat := 0
  round : Nat := 0
  delivered : Bool := false
  candidate : Option Record := none
  wants : Option (Nat × Nat) := none
  waits : List Ask := []
  frees : Option Nat := none
  phys : Bool := false
  half : Bool := false
  freed : Bool := false
  left : Option (List Nat) := none
  span : Nat × Nat := (0, 0)
  sampled : Nat := 0
  fronts : List Front := []
  answered : List RemoteReq := []
  deriving DecidableEq, Repr

/-- A reply-cache entry (R390). -/
structure Reply where
  dev : Nat
  engine : Nat
  seq : BitVec 32
  writes : Bool
  response : Packet
  deriving DecidableEq, Repr

/-- The adds of a peer's scatter-accumulate on one granule that have arrived, of a total that one step performs (log 21). -/
structure Staged where
  dev : Nat
  engine : Nat
  loan : Nat
  dpa : Nat
  parts : List (Nat × List (Nat × Nat)) := []
  poison : List Nat := []
  deriving DecidableEq, Repr

/-! ### Launches, steward and host -/

/-- Progress of a launch (spec/16_scheduling.md R320 to R323). -/
inductive LaunchStage where
  | checking
  | starting
  | live
  | finished
  deriving DecidableEq, Repr

/-- What a launch reads of a kernel image (spec/03_assembly_language.md Table 03-3): loop table (level, kind, count),
partition words by context, shelves, preloaded data (shelf, offset, bytes), timetable requests (link, direction 1 in, slot,
entry) and circulation requests (pseudo-channel, slot, own). -/
structure Image where
  il : Bool := false
  donate : Bool := false
  code : List Word := []
  entry : Word := 0
  cls : Nat := 3
  grant : Nat := 0
  loops : List (Nat × Nat × Nat) := []
  parts : List (Nat × Word) := []
  shelves : List (Nat × Shelf) := []
  data : List (Nat × Nat × List Byte) := []
  tts : List (Nat × Nat × Nat × TTEntry) := []
  circs : List (Nat × Nat × Bool) := []
  fa : Word := 0
  fb : Word := 0
  fc : Word := 0
  bytes : List Byte := []
  views : List Word := []
  deriving DecidableEq, Repr

/-- A launch: its record, its home die, the launch and partition of the context that spawned it, and while it is live its
contexts (those saved too), the cores in the order of R349 and the devices of its placement. `entry` is the launch-pool entry
that it came from, `reads` what has been read of its image, none where a read faulted (R320). -/
structure Launch where
  id : Nat
  raw : BitVec 512
  part : Nat
  home : Nat
  parent : Option (Nat × Nat) := none
  stage : LaunchStage := .checking
  ctxs : List Nat := []
  trapped : Nat := 0
  forced : Bool := false
  entry : Option PoolEntry := none
  reads : List (Option (List Byte)) := []
  barriers : List Nat := []
  cores : List Nat := []
  devices : List Nat := []
  img : Image := {}
  deriving DecidableEq, Repr

/-- A partition of the steward's table (R318); `ended`: its last launch has ended (log 83). -/
structure Partition where
  valid : Bool := false
  cores : List Nat := []
  root : Nat := 0
  latches : Store (BitVec 8) := []
  circ : List Nat := []
  ended : Bool := false
  deriving DecidableEq, Repr

/-- A pre-empted context (spec/17_traps_preemption.md R348, R350). The saved registers stand in memory at the save
area; what the save area does not hold stands here, with its loans that are complete and not yet delivered (R331). -/
structure Saved where
  id : Nat
  key : Nat
  ctx : Context
  repair : Bool
  loans : List Loan := []
  deriving DecidableEq, Repr

/-- Mailbox of one function (spec/20_bringup_power.md Table 20-3); `args` are the words of its page from byte 0x040 on, which
carry arguments and results. -/
structure Mailbox where
  op : BitVec 8 := 0
  tag : BitVec 8 := 0
  st : Nat := 0
  ovr : Bool := false
  rtag : BitVec 8 := 0
  res : Nat := 0
  args : Store Reg := []
  deriving DecidableEq, Repr

/-- Device states (Table 20-3). -/
inductive DevState where
  | start
  | run
  | quarantine
  | trip
  deriving DecidableEq, Repr

/-- A start in progress (R393): warm or cold, the step it is at (0: it has failed), the cycle of step 1, its number, the
function that asked, and of step 10 the upstream markers seen: the first gives the count, two more hold it. -/
structure Starting where
  warm : Bool
  step : Nat
  began : Nat
  number : Nat
  fn : Option Nat
  joins : Nat := 0
  deriving DecidableEq, Repr

/-- Board flash (R360, R361, R393 to R397): errata entries, core and die states and positions, the start log, the image
banks, the last verified hash and the quarantine mark. -/
structure Flash where
  errata : Store (Option ErrEntry) := []
  coreStates : Store (Option UnitState) := []
  dieStates : Store (Option UnitState) := []
  place : Store Nat := []
  spareFor : Option Nat := none
  warmFails : Nat := 0
  coldFails : Nat := 0
  lastGood : Option Nat := none
  quarantine : Bool := false
  active : List Byte := []
  inactive : Option (List Byte) := none
  verified : Option (BitVec 512) := none
  deriving DecidableEq, Repr

/-- A write to board flash on its way; it is lost when power is lost before it completes (R360). -/
inductive FlashWrite where
  | rows (l : List (Nat × ErrEntry))
  | core (key : Nat) (st : UnitState)
  | die (key : Nat) (st : UnitState)
  | place (place : Store Nat) (spareFor : Option Nat)
  | fails (warm cold : Nat)
  | good (number : Nat)
  | quarantine (on : Bool)
  | image (bytes : List Byte)
  | dropImage
  | activate (bytes : List Byte)
  | verified (hash : BitVec 512)
  deriving DecidableEq, Repr

/-- A queue descriptor (spec/15_translation_host.md Table 15-4), whose widx and ridx are the addresses of the two indices,
with the engine's progress (R317): the index being executed, whether it is at work on a record that a poll found, the cycle of the
next poll, the last loan's status and the number of records found, by which polls under way tell that they came too late. -/
structure HostQueue where
  en : Bool := false
  part : Nat := 0
  pf : Bool := false
  cls : Nat := 3
  lg : Nat := 0
  base : Nat := 0
  widx : Nat := 0
  ridx : Nat := 0
  rdy : Nat := 0
  sts : Nat := 0
  slot : Option Nat := none
  busy : Bool := false
  pollAt : Nat := 0
  last : Option Nat := none
  runs : Nat := 0
  deriving DecidableEq, Repr

/-- The last completion returned to a function (R313, R314): Unsupported Request, data and the poisoned bit. -/
structure HostReply where
  ur : Bool := false
  data : List Byte := []
  ep : Bool := false
  deriving DecidableEq, Repr

/-- What a host access does (R314). -/
inductive HostKind where
  | read
  | write (bytes : List Byte) (ep : Bool)
  | atomic (op : Nat) (atype : Nat) (v : Nat) (cmp : Nat)
  deriving DecidableEq, Repr

/-- A request under way for a host access: its number, the first of its bytes in the reply, where they stand in the
granule and how many they are. -/
structure HostPiece where
  req : Nat
  pos : Nat
  off : Nat
  n : Nat
  deriving DecidableEq, Repr

/-- A host access: waiting for those of its function before it, or begun, with its requests and the bytes read. -/
structure HostAccess where
  id : Nat
  fn : Nat
  off : Nat
  size : Nat
  kind : HostKind
  begun : Bool := false
  job : Option Nat := none
  reqs : List HostPiece := []
  got : Store Byte := []
  ep : Bool := false
  deriving DecidableEq, Repr

/-! ### The model's own work lists -/

/-- Effects of slots and engines that are no row of the table of their own; the row whose slot causes one names it. -/
inductive Micro where
  | quarter (ctx : Nat)
  | ldzRead (o : Origin) (vd : Nat) (z : Nat) (grp : Nat) (w : Nat) (active : List Bool)
  | sstSample (o : Origin) (d : Nat) (sh : Nat)
  | folioHeader (o : Origin) (load : Bool)
  | streamRow (o : Origin) (i : Nat)
  | popRow (o : Origin) (f : Nat) (p : Bool)
  | zeroZ (o : Origin) (z : Nat)
  | setChain (o : Origin) (af pf : Bool)
  | sendSample (o : Origin) (lq : Nat) (acc : Access) (dep : Int)
  | popRecv (o : Origin) (lq : Nat) (acc : Access)
  | popFwd (o : Origin) (lq : Nat) (m : Nat) (dep : Int)
  | popRed (o : Origin) (lq : Nat) (m : Nat) (acc : Access) (ty : Bool) (dep : Int)
  | qslApply (o : Origin) (lq : Nat) (clr : Bool) (k : Nat)
  | loanRecord (o : Origin) (acc : Access) (sup : Bool)
  | spawnRead (o : Origin) (sh : Nat) (idx : Nat) (pd : Nat)
  | barrierArrive (o : Origin) (bt : Nat) (bar : Nat)
  | dCommit (cmds : List DCmd)
  | reserveDep (link : Nat) (dep : Int)
  | invalStart (o : Origin) (tk : Nat) (va : Option Nat)
  | fenceFrom (ctx : Nat) (scope : Nat)
  | shadowWrite (ctx : Nat) (sh : Shadow)
  | window (part : Nat) (pc : Nat) (w : BankWindow)
  | mark (o : Origin)
  | deaccess (core : Nat) (rows : List Nat)
  | resolve (core : Nat)
  | mulStart (m : MulOp)
  | drainStart (d : DrainOp)
  | loadStart (l : LoadOp)
  | vStart (ctx : Nat) (v : VOp)
  | kick (loan : Nat)
  | answer (owner : ReqOwner) (id : Nat) (bytes : List Byte) (bad : List Nat) (status : Nat)
  | ack (link : Nat) (seq : BitVec 8)
  | nack (link : Nat) (seq : BitVec 8)
  | credit (link : Nat) (n : Nat)
  | jobDone (j : Job) (status : Nat) (bytes : List Byte)
  | forceRetry (pc : Nat)
  | closeRetry (ctx : Nat)
  | takeover (core : Nat) (phys : Nat)
  | openDepart (link : Nat)
  | startStep
  | queueKick (q : Nat)
  | serve
  | flashDone
  | mailEnd (fn : Nat) (res : Nat)
  | powerReading (milliwatts : Nat)
  | heatReading (die millidegrees : Nat)
  | dieAnswers (die : Nat) (answers : Bool)
  deriving DecidableEq, Repr

inductive Event where
  | op (i : Instr)
  | micro (m : Micro)
  deriving DecidableEq, Repr

/-- Work due in a later cycle: the real cycle, the rank inside the cycle (log 2) and the event. -/
structure Due where
  at_ : Nat
  rank : Nat
  ev : Event
  deriving DecidableEq, Repr

/-- Work of a context that ended sooner in real cycles than in the turns of its core, which was frozen since: the cycle up to which
it stays pending, and the registers that it wrote (spec/16_scheduling.md R330, log 130). -/
structure Late where
  ctx : Nat
  until_ : Nat
  regs : List (Nat × Nat)
  deriving DecidableEq, Repr

/-- The bundle being issued: its context, cycle, address, words, the next slot, and what its slots have asked for so
far (R55, R337). `open_` is false between bundles. -/
structure Cursor where
  open_ : Bool := false
  ctx : Nat := 0
  pc : Word := 0
  words : List Word := []
  idx : Nat := 0
  buf : List Due := []
  xfer : Xfer := .no
  push : Option LoopEntry := none
  rot : Option Bool := none
  brk : Bool := false
  quiet : Bool := false
  halt : Bool := false
  il : Option Bool := none
  holdR : Option Nat := none
  freed : BitVec 8 := 0
  deriving DecidableEq, Repr

/-- One B9 device. -/
structure State where
  now : Nat
  skew : Int
  free : Nat
  cur : Cursor
  todo : List Due
  agenda : List Due
  late : List Late
  inputs : List (Nat × Event)
  ctxs : Store Context
  cores : Store Core
  place : Store Nat
  errata : Store (Option ErrEntry)
  muls : List MulOp
  drains : List DrainOp
  bars : Store Barrier
  lpool : Store (List PoolEntry)
  latches : Store Latch
  mem : Store Byte
  badCols : List Nat
  softCols : List Nat
  eccCount : Store Nat
  pcs : Store Pseudo
  windows : Store BankWindow
  jedec : Store Config.Jedec
  timing : Config.Timing
  refi : Nat
  refiNext : Option (Int × Nat)
  wrData : List (Origin × Nat × BitVec 256 × Bool)
  links : Store Link
  routes : Store (Option Nat)
  loans : List Loan
  remoteReqs : List RemoteReq
  seqs : Store Nat
  unrouted : List Packet
  replies : List Reply
  staged : List Staged
  owners : Store (Option Nat)
  endTimer : Nat
  invals : List Inval
  nextId : Nat
  launches : List Launch
  parts : Store Partition
  saved : List Saved
  dies : Store (Option UnitState)
  dieEvents : Store Window
  coreWin : BitVec 40 × Nat
  dieWin : BitVec 40 × Nat
  spareFor : Option Nat
  coreStates : Store (Option UnitState)
  flash : Flash
  flashQueue : List FlashWrite
  changes : List (Nat × Nat × Nat)
  devState : DevState
  starting : Option Starting
  startNo : Nat
  bootAt : Nat
  runSince : Option Nat
  boxes : Store Mailbox
  loanNow : Nat
  cmdQueue : List Nat
  cmd : Nat
  queues : Store HostQueue
  binds : Store (Option Nat)
  fnClass : Store (Option Nat)
  hostReplies : Store (Option HostReply)
  barSizes : Store (Option Nat)
  hostAcc : List HostAccess
  power : Option Nat
  heat : Store (Option Nat)
  silent : List Nat
  powers : List Nat
  overPower : Nat
  temps : Store Nat
  hot : Store Nat
  hotNamed : List Nat
  reports : List (Nat × Nat × Nat × Nat)
  stops : List (Nat × Word × BitVec 8 × Reg)
  linkReports : List (Nat × Nat)
  deriving DecidableEq, Repr

/-- The device right after reset: device state START, no launch, every table at its reset value. The reset values that
the spec does not give are named in the assumption log (entries 2, 3, 4, 6, 12 to 17,
71, 72, 97, 99, 108, 130 and 132). -/
def State.reset : State where
  now := 0
  skew := 0
  free := 0
  cur := {}
  todo := []
  agenda := []
  late := []
  inputs := []
  ctxs := []
  cores := []
  place := []
  errata := []
  muls := []
  drains := []
  bars := []
  lpool := []
  latches := []
  mem := []
  badCols := []
  softCols := []
  eccCount := []
  pcs := []
  windows := []
  jedec := []
  timing := Config.defaultTiming
  refi := Config.defaultTiming.tREFI
  refiNext := none
  wrData := []
  links := []
  routes := []
  loans := []
  remoteReqs := []
  seqs := []
  unrouted := []
  replies := []
  staged := []
  owners := []
  endTimer := 260000
  invals := []
  nextId := 1
  launches := []
  parts := []
  saved := []
  dies := []
  dieEvents := []
  coreWin := (BitVec.ofNat 40 (2 ^ 36), 8)
  dieWin := (BitVec.ofNat 40 (2 ^ 40 - 1), 3)
  spareFor := none
  coreStates := []
  flash := {}
  flashQueue := []
  changes := []
  devState := .start
  starting := none
  startNo := 0
  bootAt := 0
  runSince := none
  boxes := []
  loanNow := 0
  cmdQueue := []
  cmd := 0
  queues := []
  binds := []
  fnClass := []
  hostReplies := []
  barSizes := []
  hostAcc := []
  power := none
  heat := []
  silent := []
  powers := []
  overPower := 0
  temps := []
  hot := []
  hotNamed := []
  reports := []
  stops := []
  linkReports := []

/-- Memory is in canonical form: addresses strictly rising, no entry equal to what an unlisted address reads as. -/
def Memory.wf (m : Store Byte) : Bool := swf 0 m

end Sys2Proof.Machine
end

