-- ==== Sys2Proof/Machine/Ops.lean ====
section
/-!
DEFINITION. The named operations over the state: contexts, cores and their pools, registers under rotation, the bundle
being issued, work due later, what is pending, taking a trap and returning from one.
-/

namespace Sys2Proof.Machine

/-- The outcome of one instruction or one step. -/
abbrev Out := Host.Outcome State Fault Refusal

/-! ### Contexts, cores and where they stand -/

abbrev noCtx : Context := {}

abbrev noCore : Core := {}

def State.ctxAt (s : State) (k : Nat) : Context := sget noCtx s.ctxs k

def State.setCtx (s : State) (k : Nat) (c : Context) : State := { s with ctxs := sset noCtx s.ctxs k c }

def State.modCtx (s : State) (k : Nat) (f : Context → Context) : State := s.setCtx k (f (s.ctxAt k))

def State.coreAt (s : State) (n : Nat) : Core := sget noCore s.cores n

def State.setCore (s : State) (n : Nat) (c : Core) : State := { s with cores := sset noCore s.cores n c }

def State.modCore (s : State) (n : Nat) (f : Core → Core) : State := s.setCore n (f (s.coreAt n))

/-- Core of a context key, and its index there. -/
def coreOf (k : Nat) : Nat := k / 4

def indexOf (k : Nat) : Nat := k % 4

/-- Context keys of a core. -/
def coreCtxs (core : Nat) : List Nat := [4 * core, 4 * core + 1, 4 * core + 2, 4 * core + 3]

/-- Logical die, bay and chain position of a core. -/
def dieOf (core : Nat) : Nat := core / 36

def bayOf (core : Nat) : Nat := core / 6

def posOf (core : Nat) : Nat := core % 6

/-- The physical core at a logical position: 42 a die, 7 a bay (spec/16_scheduling.md R318, spec/18_integrity_repair.md
R361), unless the steward moved the position. -/
def State.physical (s : State) (core : Nat) : Nat :=
  match sget (0 : Nat) s.place core with
  | 0 => core / 36 * 42 + core / 6 % 6 * 7 + core % 6
  | n + 1 => n

/-- The concordance count of the present cycle (spec/19_span_fabric.md R386). -/
def State.conc (s : State) : Nat := ((s.now : Int) + s.skew).toNat

/-- The concordance count as an integer, for arrival and departure cycles. -/
def State.concI (s : State) : Int := (s.now : Int) + s.skew

/-- The concordance cycle of a real cycle, for `$tinfo`. -/
def State.concAt (s : State) (t : Nat) : Nat := ((t : Int) + s.skew).toNat

/-- A context that a launch has placed in its slot. -/
def Context.present (c : Context) : Bool := c.stage != .idle && c.stage != .saved && c.stage != .wait

/-! ### The partition word and the pool (spec/01_machine_state.md R12) -/

def Context.vg (c : Context) : Nat := c.partWord.toNat % 16

def Context.zg (c : Context) : Nat := c.partWord.toNat / 16 % 32

def Context.sg (c : Context) : Nat := c.partWord.toNat / 512 % 64

def Context.gbase (c : Context) : Nat := c.partWord.toNat / 32768 % 64

/-- Pool address of V register `r`. A bundle reaches only registers of the context's own granules: one that names
another is illegal (R11; log 103). -/
def Context.vBase (c : Context) (r : Nat) : Nat := 65536 * (c.gbase + r / 8) + 8192 * (r % 8)

/-- Pool address of accumulator `j`. -/
def Context.zBase (c : Context) (j : Nat) : Nat := 65536 * (c.gbase + c.vg + j)

/-- Pool address of the scratchpad region. -/
def Context.spBase (c : Context) : Nat := 65536 * (c.gbase + c.vg + c.zg)

/-- One byte of a core's pool; a byte that nothing has written reads 0 (log 3). -/
def State.poolByte (s : State) (core addr : Nat) : Byte := sget 0 (s.coreAt core).pool addr

def State.poolRead (s : State) (core addr n : Nat) : List Byte := sread 0 (s.coreAt core).pool addr n

/-- Write a run of the pool: new check bits for the 8 bytes that it covers whole (spec/18_integrity_repair.md R354). -/
def State.poolWrite (s : State) (core addr : Nat) (bs : List Byte) : State :=
  s.modCore core (fun c => { c with
    pool := swrite 0 c.pool addr bs
    poolBad := c.poolBad.filter (fun w => decide (8 * w < addr) || decide (addr + bs.length < 8 * w + 8))
    poolSoft := c.poolSoft.filter (fun w => decide (8 * w < addr) || decide (addr + bs.length < 8 * w + 8)) })

/-- Whether cells cover the 8 bytes of a pool word. -/
def coveredWord (cells : List (Nat × Byte)) (w : Nat) : Bool :=
  (List.range 8).all (fun i => cells.any (fun e => e.1 == 8 * w + i))

/-- Write separate bytes of the pool. -/
def State.poolCells (s : State) (core : Nat) (cells : List (Nat × Byte)) : State :=
  s.modCore core (fun c => { c with
    pool := cells.foldl (fun p e => sset 0 p e.1 e.2) c.pool
    poolBad := c.poolBad.filter (fun w => !coveredWord cells w)
    poolSoft := c.poolSoft.filter (fun w => !coveredWord cells w) })

/-- HBM4 bytes by device physical address (spec/15_translation_host.md R306); an unlisted byte reads 0 (log 3). -/
def State.memByte (s : State) (dpa : Nat) : Byte := sget 0 s.mem dpa

def State.memRead (s : State) (dpa n : Nat) : List Byte := sread 0 s.mem dpa n

def State.memWrite (s : State) (dpa : Nat) (bs : List Byte) : State := { s with mem := swrite 0 s.mem dpa bs }

/-! ### Registers (R10, R19) -/

def Context.regA (c : Context) (i : Nat) : Reg := if i = 0 then 0 else sget 0 c.ra i

def Context.regB (c : Context) (i : Nat) : Reg := if i = 0 then 0 else sget 0 c.rb i

def Context.regN (c : Context) (i : Nat) : Reg := sget 0 c.rn i

def Context.regD (c : Context) (i : Nat) : Reg := sget 0 c.rd i

def Context.regL (c : Context) (i : Nat) : Reg := if i = 0 then 0 else sget 0 c.rl i

def Context.poisonL (c : Context) (i : Nat) : Bool := i != 0 && c.lp.getLsbD i

/-- The lap counts of `$rrb`. -/
def Context.vlap (c : Context) : Nat := c.rrb.toNat % 32

def Context.plap (c : Context) : Nat := c.rrb.toNat / 32

/-- The physical predicate that the name pn denotes (R19). -/
def Context.physP (c : Context) (n : Nat) : Nat := if n < 8 then n else 8 + (n - 8 + 8 - c.plap) % 8

/-- The physical V register that the name vn denotes (R19); where the context's granules do not hold it, the slot that names
it is illegal (log 103). -/
def Context.physV (c : Context) (n : Nat) : Nat := if n < 32 then n else 32 + (n - 32 + 32 - c.vlap) % 32

def Context.pred (c : Context) (n : Nat) : Bool := n == 0 || c.preds.getLsbD (c.physP n)

/-- Lane mask q (R10). -/
def Context.mask (c : Context) (q : Nat) : BitVec 8192 := if q = 0 then BitVec.allOnes 8192 else sget 0 c.masks q

def setBit16 (v : BitVec 16) (i : Nat) (b : Bool) : BitVec 16 :=
  if b then v ||| BitVec.ofNat 16 (2 ^ i) else v &&& ~~~(BitVec.ofNat 16 (2 ^ i))

def setBit32 (v : Word) (i : Nat) (b : Bool) : Word :=
  if b then v ||| BitVec.ofNat 32 (2 ^ i) else v &&& ~~~(BitVec.ofNat 32 (2 ^ i))

def Context.setPred (c : Context) (i : Nat) (v : Bool) : Context :=
  if i = 0 then c else { c with preds := setBit16 c.preds i v }

def Context.setA (c : Context) (i : Nat) (v : Reg) : Context := if i = 0 then c else { c with ra := sset 0 c.ra i v }

def Context.setB (c : Context) (i : Nat) (v : Reg) : Context := if i = 0 then c else { c with rb := sset 0 c.rb i v }

def Context.setN (c : Context) (i : Nat) (v : Reg) : Context := { c with rn := sset 0 c.rn i v }

def Context.setD (c : Context) (i : Nat) (v : Reg) : Context := { c with rd := sset 0 c.rd i v }

def Context.setL (c : Context) (i : Nat) (v : Reg) (p : Bool) : Context :=
  if i = 0 then c else { c with rl := sset 0 c.rl i v, lp := setBit32 c.lp i p }

def Context.setMask (c : Context) (q : Nat) (m : BitVec 8192) : Context :=
  if q = 0 then c else { c with masks := sset 0 c.masks q m }

def Context.token (c : Context) (i : Nat) : Token := sget {} c.toks i

def Context.setToken (c : Context) (i : Nat) (t : Token) : Context := { c with toks := sset {} c.toks i t }

def Context.shelf (c : Context) (i : Nat) : Shelf := sget {} c.shelves i

def Context.setShelf (c : Context) (i : Nat) (d : Shelf) : Context := { c with shelves := sset {} c.shelves i d }

def Context.side (c : Context) (j : Nat) : ZSide := sget {} c.sides j

def Context.setSide (c : Context) (j : Nat) (z : ZSide) : Context := { c with sides := sset {} c.sides j z }

/-! ### Special registers (R15 to R18) -/

/-- What a write of `x` to `$vl` stores (R17). -/
def vlOf (x : Reg) : Nat := if x.toNat = 0 then 1 else if 2048 < x.toNat then 2048 else x.toNat

/-- Write a special register of the context (R17, R136). -/
def Context.setSpecial (c : Context) (num : Nat) (v : Reg) : Context :=
  match num with
  | 0x008 => { c with vl := vlOf v }
  | 0x009 => { c with rrb := v.setWidth 8 }
  | 0x00A => { c with lk := v.setWidth 32 }
  | 0x00B => { c with fa := v.setWidth 32 }
  | 0x00C => { c with fb := v.setWidth 32 }
  | 0x00D => { c with fc := v.setWidth 32 }
  | 0x00E => { c with qmax := max (v.toNat % 65536) 1 }
  | 0x010 => { c with tvec := v.setWidth 32 &&& 0xFFFFFFC0 }
  | 0x011 => { c with tpc := v.setWidth 32 }
  | 0x012 => { c with tcause := v.setWidth 8 }
  | 0x013 => { c with tinfo := v }
  | n => if 0x20 ≤ n ∧ n ≤ 0x2F then { c with tol := sset 0 c.tol (n - 0x20) v } else c

/-- `$mode` (Table 01-4). -/
def State.modeWord (s : State) (k : Nat) : Nat :=
  (s.ctxAt k).il.toNat + 2 * (s.ctxAt k).sup.toNat + 4 * (s.coreAt (coreOf k)).det.toNat

/-- The value of a special register as the context's bundle of this cycle reads it (R153). -/
def State.special (s : State) (k num : Nat) : Reg :=
  let c := s.ctxAt k
  match num with
  | 0x000 => BitVec.ofNat 64 (if (s.coreAt (coreOf k)).det then s.cur.holdR.getD c.retired else s.conc)
  | 0x001 => BitVec.ofNat 64 (s.modeWord k)
  | 0x002 => c.cls.setWidth 64
  | 0x003 => c.partWord.setWidth 64
  | 0x008 => BitVec.ofNat 64 c.vl
  | 0x009 => c.rrb.setWidth 64
  | 0x00A => c.lk.setWidth 64
  | 0x00B => c.fa.setWidth 64
  | 0x00C => c.fb.setWidth 64
  | 0x00D => c.fc.setWidth 64
  | 0x00E => BitVec.ofNat 64 c.qmax
  | 0x010 => c.tvec.setWidth 64
  | 0x011 => c.tpc.setWidth 64
  | 0x012 => c.tcause.setWidth 64
  | 0x013 => c.tinfo
  | 0x014 => c.qrec
  | 0x018 => (s.coreAt (coreOf k)).errw.setWidth 64
  | 0x019 => (s.coreAt (coreOf k)).errt.setWidth 64
  | n =>
    if 0x004 ≤ n ∧ n ≤ 0x007 then (sget (0 : Word) c.ix (n - 4)).setWidth 64
    else if 0x20 ≤ n ∧ n ≤ 0x2F then sget 0 c.tol (n - 0x20)
    else 0

/-- Whether Table 01-3 lets the mode write a special register by `k.msr` (R16, R136). -/
def msrAllowed (sup : Bool) (num : Nat) : Bool :=
  num == 0x008 || num == 0x00A ||
    (sup && (num == 0x009 || num == 0x00E || (decide (0x010 ≤ num) && decide (num ≤ 0x013)) ||
      num == 0x018 || num == 0x019))

/-- Whether Table 01-3 lets user mode read a special register (R153). -/
def userReads (num : Nat) : Bool := !((decide (0x010 ≤ num) && decide (num ≤ 0x014)) || num == 0x018 || num == 0x019)

/-! ### Writes that become readable (R9, R56) -/

/-- Write a special register's copy in the quiet record (R137). -/
def Record.setSpecial (r : Record) (num : Nat) (v : Reg) : Record :=
  match num with
  | 0x008 => { r with vl := vlOf v }
  | 0x009 => { r with rrb := v.setWidth 8 }
  | 0x00A => { r with lk := v.setWidth 32 }
  | 0x00B => { r with fa := v.setWidth 32 }
  | 0x00C => { r with fb := v.setWidth 32 }
  | 0x00D => { r with fc := v.setWidth 32 }
  | n => if 0x20 ≤ n ∧ n ≤ 0x2F then { r with tol := sset 0 r.tol (n - 0x20) v } else r

/-- A write lands in the context's files. -/
def Context.applyWrite (c : Context) : Write → Context
  | .a i v => c.setA i v
  | .b i v => c.setB i v
  | .n i v => c.setN i v
  | .d i v => c.setD i v
  | .l i v p => c.setL i v p
  | .pred i v => c.setPred i v
  | .mask q m => c.setMask q m
  | .vec _ _ => c
  | .spec num v => c.setSpecial num v
  | .record num v => { c with record := c.record.setSpecial num v }
  | .token i 0 => c.setToken i {}
  | .token i 1 => c.setToken i { c.token i with st := .busy }
  | .token i 2 => c.setToken i { c.token i with st := .done }
  | .token i _ => c.setToken i { c.token i with st := .fault }
  | .barrierToken i v => { c with bts := sset 0 c.bts i v }

/-- A write lands: in the context's files, its V registers or the core's registers (R9). -/
def State.applyWrite (s : State) (k : Nat) (w : Write) : State :=
  match w with
  | .vec r cells =>
    s.poolCells (coreOf k) (cells.map (fun e => ((s.ctxAt k).vBase r + e.1, e.2)))
  | .spec 0x018 v => s.modCore (coreOf k) (fun c => { c with errw := v.setWidth 40 })
  | .spec 0x019 v => s.modCore (coreOf k) (fun c => { c with errt := v.setWidth 8 })
  | w => s.modCtx k (fun c => c.applyWrite w)

/-! ### Work due later -/

/-- Insert into this cycle's work, before the first entry of a higher rank. -/
def insertDue : List Due → Due → List Due
  | [], d => [d]
  | e :: r, d => if d.rank < e.rank then d :: e :: r else e :: insertDue r d

/-- Ranks inside a cycle (log 2): landings, samples and pops, performs and shelf transitions by unit class, resolution of
deferred faults, issue, departures, untimed work, mailbox commands, the idle timers. -/
def rankArrive : Nat := 0
def rankLand : Nat := 1
def rankSample : Nat := 2
def rankPop : Nat := 3
def rankPopN : Nat := 4
def rankPerform (unit : Nat) : Nat := 1 + unit
def rankShelf (unit : Nat) : Nat := 6 + unit
def rankUpset : Nat := 13
def rankResolve : Nat := 14
def rankIssue : Nat := 15
def rankDepart : Nat := 16
def rankUntimed : Nat := 17
def rankServe : Nat := 18
def rankIdle : Nat := 19

/-- All ranks in order. -/
def allRanks : List Nat := [0, 1, 2, 3, 4, 5, 6, 7, 8, 9, 10, 11, 12, 13, 14, 15, 16, 17, 18, 19]


/-- Put work on the agenda; work of this cycle joins the cycle's own list. -/
def State.post (s : State) (d : Due) : State :=
  if d.at_ ≤ s.now then { s with todo := insertDue s.todo d } else { s with agenda := s.agenda ++ [d] }

def State.postAll (s : State) (ds : List Due) : State := ds.foldl State.post s

/-- Post an event `n` cycles from now. -/
def State.after (s : State) (n rank : Nat) (ev : Event) : State := s.post ⟨s.now + n, rank, ev⟩

/-- The next free value's number (log 6). -/
def State.drawn (s : State) : State := { s with free := s.free + 1 }

/-! ### The bundle being issued -/

/-- The context that issues. -/
def State.me (s : State) : Context := s.ctxAt s.cur.ctx

def State.slotNo (s : State) : Nat := s.cur.idx - 1

def State.slotWord (s : State) : Word := s.cur.words.getD s.slotNo 0

/-- The origin of what the present slot starts. -/
def State.here (s : State) (unit : Nat) : Origin :=
  { ctx := s.cur.ctx, t := s.now, pc := s.cur.pc, slot := s.slotNo, unit := unit, word := s.slotWord
    lag := (s.coreAt (coreOf s.cur.ctx)).lag }

/-- Hold an effect of the present slot until its bundle commits (R337). -/
def State.emit (s : State) (n rank : Nat) (ev : Event) : State :=
  { s with cur := { s.cur with buf := s.cur.buf ++ [⟨s.now + n, rank, ev⟩] } }

/-- A register write of the present slot, readable from t + n (R59). -/
def State.land (s : State) (unit n : Nat) (w : Write) : State :=
  s.emit n rankLand (.op (.resultLanding (s.here unit) w))

/-- A guarded form: no effect when its guard fails (R48, R49). -/
def Context.passes (c : Context) (g : Guard) : Bool := c.pred g.p.toNat != g.neg

def whenGuard (s : State) (g : Guard) (f : State → State) : Out := .next (if s.me.passes g then f s else s)

/-! ### `$tinfo` layouts -/

/-- Table 05-3. A register number that does not fit the six bits of the index, the partner 64 of v63, leaves its low six bits
there (log 102). -/
def infoIllegal (w : Word) (slot : Nat) (e : Illegal) : Reg :=
  BitVec.ofNat 64 (w.toNat + slot * 2 ^ 32 + e.why * 2 ^ 36 + e.file * 2 ^ 40 + e.index % 64 * 2 ^ 42 + e.detail * 2 ^ 48)

def infoPrivilege (w : Word) (slot kind num : Nat) : Reg :=
  BitVec.ofNat 64 (w.toNat + slot * 2 ^ 32 + kind * 2 ^ 35 + num * 2 ^ 38)

def infoTiming (kind slot free : Nat) : Reg := BitVec.ofNat 64 (kind + slot * 16 + free % 2 ^ 32 * 2 ^ 32)

/-- Codes of shelf states (R26). -/
def ShelfState.code : ShelfState → Nat
  | .empty => 0
  | .filling => 1
  | .full => 2
  | .draining => 3

/-- Table 17-3. -/
def infoShelf (sh state half access unit lf burst off : Nat) : Reg :=
  BitVec.ofNat 64 (sh % 64 + state * 64 + half * 256 + access * 512 + unit * 4096 + lf * 32768 + burst * 65536 +
    off % 2 ^ 26 * 2 ^ 23)

/-! ### Format shadow (spec/02_bundles_and_encoding.md R65) -/

/-- Put a queue's format words in force; the queue's key is link times 16 plus queue. -/
def State.setQueueFormat (s : State) (q : Nat) (v : Reg) : State :=
  let l := sget ({} : Link) s.links (q / 16)
  let f := sget ({} : Queue) l.queues (q % 16)
  let f' := { f with fs := v.setWidth 17, fk := (v >>> 32).setWidth 17 }
  { s with links := sset {} s.links (q / 16) { l with queues := sset {} l.queues (q % 16) f' } }

/-- Put a format register or a tolerance entry in force; no other register is written in a shadow. -/
def Context.setFormat (c : Context) (num : Nat) (v : Reg) : Context :=
  match num with
  | 0x00B => { c with fa := v.setWidth 32 }
  | 0x00C => { c with fb := v.setWidth 32 }
  | 0x00D => { c with fc := v.setWidth 32 }
  | n => if 0x20 ≤ n ∧ n ≤ 0x2F then { c with tol := sset 0 c.tol (n - 0x20) v } else c

/-- Apply one shadowed write. -/
def State.applyShadow (s : State) (k : Nat) (w : Shadow) : State :=
  if 0x100 ≤ w.num then s.setQueueFormat (w.num - 0x100) w.v else s.modCtx k (fun c => c.setFormat w.num w.v)

/-- Every shadowed write of the context takes effect (at trap entry and before a save). -/
def State.flushShadow (s : State) (k : Nat) : State :=
  let ws := (s.ctxAt k).shadow
  ws.foldl (fun t w => t.applyShadow k w) (s.modCtx k (fun c => { c with shadow := [] }))

/-- One bundle of the context has issued: each shadow is one bundle shorter. -/
def State.tickShadow (s : State) (k : Nat) : State :=
  s.modCtx k (fun c => { c with shadow := c.shadow.map (fun (w : Shadow) => { w with left := w.left - 1 }) })

/-- A bundle of the context issues: the writes that it is the first to see take effect. Pops of the bundle before it, one
cycle after its issue, have used the old words (R65, spec/12_instr_network.md R251). -/
def State.endShadow (s : State) (k : Nat) : State :=
  let ws := (s.ctxAt k).shadow
  (ws.filter (fun w => w.left == 0)).foldl (fun t w => t.applyShadow k w)
    (s.modCtx k (fun c => { c with shadow := ws.filter (fun w => w.left != 0) }))

/-! ### Origins and what is pending (R34, R66) -/

/-- The origin of the events a slot causes. -/
def Micro.origin : Micro → Option Origin
  | .ldzRead o _ _ _ _ _ => some o
  | .sstSample o _ _ => some o
  | .folioHeader o _ => some o
  | .streamRow o _ => some o
  | .popRow o _ _ => some o
  | .zeroZ o _ => some o
  | .setChain o _ _ => some o
  | .sendSample o _ _ _ => some o
  | .popRecv o _ _ => some o
  | .popFwd o _ _ _ => some o
  | .popRed o _ _ _ _ _ => some o
  | .qslApply o _ _ _ => some o
  | .loanRecord o _ _ => some o
  | .spawnRead o _ _ _ => some o
  | .barrierArrive o _ _ => some o
  | .invalStart o _ _ => some o
  | .mark o => some o
  | _ => none

def opOrigin : Instr → Option Origin
  | .resultLanding o _ => some o
  | .shelfTransitionApply o _ _ => some o
  | .scalarLoadSample o _ _ _ _ => some o
  | .scalarStorePerform o _ _ => some o
  | .vectorLoadSample o _ => some o
  | .vectorStorePerform o _ _ => some o
  | .stationaryLoadComplete o => some o
  | .arrayRowUpdate o _ => some o
  | .drainRowRead o _ => some o
  | .drainVerdict o => some o
  | .elementRecompute o => some o
  | .drainRowWrite o _ => some o
  | .drainComplete o => some o
  | .readBurstLanding o _ _ _ _ => some o
  | .writeBurstSample o _ _ => some o
  | .recvShelfWrite o _ _ => some o
  | .bayLatchWrite o _ _ _ => some o
  | _ => none

def Event.origin : Event → Option Origin
  | .op i => opOrigin i
  | .micro m => m.origin

/-- What orders two entries of one rank: for landings the issue cycle and the unit class, for the other timed ranks the
context and the issue cycle; 0 without an origin. -/
def Due.order (d : Due) : Nat × Nat :=
  match d.ev.origin with
  | some o => if d.rank = rankLand then (o.t, o.unit) else (o.ctx, o.t)
  | none => (0, 0)

/-- Insert among entries of rising order; an equal entry stays before the new one. -/
def insertOrdered (d : Due) : List Due → List Due
  | [] => [d]
  | e :: r =>
    if d.order.1 < e.order.1 || (d.order.1 == e.order.1 && decide (d.order.2 < e.order.2)) then d :: e :: r
    else e :: insertOrdered d r

/-- Entries of one timed rank: landings in the order of issue, so that the later-issued write is kept (R23); samples, pops
and performs in ascending core and context order, then issue order (spec/12_instr_network.md R242, R244,
spec/13_memory_model.md R279). -/
def ordered (l : List Due) : List Due := l.foldl (fun acc d => insertOrdered d acc) []

/-- Entries by rising rank; timed entries of one rank in their order, the others as they came. -/
def byRank (l : List Due) : List Due :=
  allRanks.flatMap (fun r =>
    let g := l.filter (fun d => d.rank == r)
    if rankLand ≤ r ∧ r < rankResolve then ordered g else g)

/-- The first cycle in which an entry no longer counts as pending: a write in the cycle it becomes readable, anything
else after its cycle (R34). -/
def Due.clears (d : Due) : Nat := if d.rank = rankLand then d.at_ else d.at_ + 1

/-- The context whose pending work an event is. The transitions of an `n.loan`, a fence or a shadow are not listed in R34 and
carry no origin. -/
def Event.worker (e : Event) : Option Nat :=
  match e.origin with
  | some o => some o.ctx
  | none =>
    match e with
    | .micro (.quarter c) => some c
    | _ => none

/-- Whether an entry is pending work of the context. -/
def Due.pends (k : Nat) (d : Due) : Bool := d.ev.worker == some k

/-- The cycles for which the core of an event's context has been frozen since its issue: the event is so much further away in turns
than in real cycles (spec/16_scheduling.md R330). -/
def State.lagOf (s : State) (e : Event) : Nat :=
  match e.origin with
  | some o => (s.coreAt (coreOf o.ctx)).lag - o.lag
  | none =>
    match e with
    | .micro (.quarter c) =>
      (match (s.ctxAt c).vop with
       | some v => (s.coreAt (coreOf c)).lag - v.o.lag
       | none => 0)
    | _ => 0

/-- The first cycle from which nothing of the context is pending (R34, R66): its work in flight, its V occupancy, and for the
context with the M grant the occupancy of the array input and of the drain path. A freeze puts all of it off
(spec/16_scheduling.md R330). -/
def State.pendingUntil (s : State) (k : Nat) : Nat :=
  let c := s.ctxAt k
  let core := s.coreAt (coreOf k)
  let own := ((s.agenda ++ s.todo).filter (Due.pends k)).map (fun d => d.clears + s.lagOf d.ev)
  let late := (s.late.filter (fun x => x.ctx == k)).map (fun x => x.until_)
  let busy := match c.busyAt with
    | some t => t + 1
    | none => 0
  let v := if core.vCtx == k then core.vFree else 0
  let m := if c.gM then max core.inFree core.drFree else 0
  (own ++ late).foldl max (max (max busy v) m)

/-- Whether anything of the context is pending in this cycle. -/
def State.pending (s : State) (k : Nat) : Bool := decide (s.now < s.pendingUntil k)

/-- Something of the context happened in this cycle: pending through it (R34). -/
def State.touch (s : State) (k : Nat) : State := s.modCtx k (fun c => { c with busyAt := some s.now })

/-- Drop every later step of an instruction (R338). -/
def State.cancel (s : State) (o : Origin) : State :=
  { s with
    agenda := s.agenda.filter (fun d => d.ev.origin != some o)
    todo := s.todo.filter (fun d => d.ev.origin != some o)
    muls := s.muls.filter (fun m => m.o != o)
    drains := s.drains.filter (fun d => d.o != o) }

/-! ### Taking a trap and returning from one -/

/-- What `$tcause` receives of a trap (spec/17_traps_preemption.md Table 17-1). -/
def TrapInfo.word (t : TrapInfo) : BitVec 8 :=
  BitVec.ofNat 8 (t.cause % 64 + 64 * t.dfr.toNat + 128 * t.more.toNat)

/-- A trap is raised in a context, which issues nothing more until its handler: user code enters it once nothing is pending
(R337 to R339); in supervisor mode the context stops for good (spec/17_traps_preemption.md R344). `cause` is the code, `dfr`
marks a deferred trap. -/
def State.raiseTrap (s : State) (k cause : Nat) (dfr : Bool) (pc : Word) (info : Reg) (more : Bool) : State :=
  s.modCtx k (fun c => { c with
    stage := if c.sup then .stopped else .trap
    bySup := c.sup || c.bySup
    trap := some { cause := cause, dfr := dfr, more := more, pc := pc, info := info, at_ := s.now }
    deferred := []
    held := none
    xfers := [.no, .no, .no] })

/-- An issue trap of the bundle being issued: no slot of it takes effect (R337). -/
def State.issueTrap (s : State) (cause : Nat) (info : Reg) : State :=
  { s.raiseTrap s.cur.ctx cause false s.cur.pc info false with cur := {} }

/-- The illegal-instruction trap of the present slot. -/
def State.illegal (s : State) (e : Illegal) : State := s.issueTrap 0x01 (infoIllegal s.slotWord s.slotNo e)

/-- Reason 7 with a detail. -/
def State.refuse7 (s : State) (detail : Nat) : State := s.illegal { why := 7, detail := detail }

/-- The poison-consumed trap for l register `i` read by the present slot (Table 17-3, access 4). -/
def State.poisoned (s : State) (unit i : Nat) : State := s.issueTrap 0x07 (infoShelf i 0 0 4 unit 0 0 0)

/-- A fault of an instruction already issued, as it is found in this cycle (R338). -/
def State.deferredOf (s : State) (o : Origin) (sub cause : Nat) (info : Reg) : Deferred :=
  { t := o.t, slot := o.slot, sub := sub, cause := cause, pc := o.pc, info := info
    due := s.now + ((s.coreAt (coreOf o.ctx)).lag - o.lag) }

/-- A deferred fault of an instruction already issued, found in this cycle (R338). -/
def State.fault (s : State) (o : Origin) (sub cause : Nat) (info : Reg) : State :=
  let s := s.cancel o
  let c := s.ctxAt o.ctx
  match c.stage with
  | .run => s.modCtx o.ctx (fun c => { c with deferred := c.deferred ++ [s.deferredOf o sub cause info] })
  | .resume => s.modCtx o.ctx (fun c => { c with deferred := c.deferred ++ [s.deferredOf o sub cause info] })
  | .trap => s.modCtx o.ctx (fun c => { c with trap := c.trap.map (fun t => { t with more := true }) })
  | .stopped => s.modCtx o.ctx (fun c => { c with trap := c.trap.map (fun t => { t with more := true }) })
  | _ => s

/-- The earlier of two deferred faults: issue cycle, slot, then burst, row or flit (R338). -/
def Deferred.before (a b : Deferred) : Bool :=
  decide (a.t < b.t) || (a.t == b.t && (decide (a.slot < b.slot) || (a.slot == b.slot && decide (a.sub < b.sub))))

def firstDeferred : Deferred → List Deferred → Deferred
  | a, [] => a
  | a, b :: r => firstDeferred (if b.before a then b else a) r

/-- Whether a context can still trap for a deferred fault: it has neither ended nor left for its save area (R338, R348). -/
def Stage.traps (x : Stage) : Bool := x == .run || x == .resume

/-- Resolve the deferred faults of one context in this cycle (R338). -/
def State.resolveCtx (s : State) (k : Nat) : State :=
  let c := s.ctxAt k
  match c.deferred.filter (fun d => decide (d.due ≤ s.now)) with
  | [] => s
  | d :: r =>
    let f := firstDeferred d r
    let t := s.modCtx k (fun c => { c with deferred := [] })
    if c.stage.traps then t.raiseTrap k f.cause true f.pc f.info (decide (1 < c.deferred.length)) else t

/-- Enter the handler: format writes in their shadow come into force (R65), then the trap registers, supervisor mode and the
vector (R339 steps 3 and 4). -/
def State.enterHandler (s : State) (k : Nat) : State :=
  match (s.ctxAt k).trap with
  | none => s
  | some t => (s.flushShadow k).modCtx k (fun c => { c with
      stage := .run
      trap := none
      tpc := t.pc
      tcause := t.word
      tinfo := t.info
      sup := true
      loops := []
      rrb := 0
      pc := c.tvec + BitVec.ofNat 32 (64 * t.cause)
      xfers := [.no, .no, .no]
      held := none
      qcount := 0 })

/-- The quiet record of the context's present state (spec/01_machine_state.md R33). -/
def Context.takeRecord (c : Context) (pc : Word) (stamp : Reg) (round : Nat) : Record :=
  { pc := pc, preds := c.preds, lk := c.lk, loops := c.loops, bts := c.bts, rrb := c.rrb, ra := c.ra, rb := c.rb,
    rn := c.rn, rd := c.rd, rl := c.rl, lp := c.lp, vl := c.vl, shelves := c.shelves, fa := c.fa, fb := c.fb,
    fc := c.fc, tol := c.tol, stat := c.stat, toks := c.toks, qmax := c.qmax, stamp := stamp,
    retired := c.retired, round := round }

/-- The format writes still in their shadow, applied to a context for its record (R33). -/
def Context.shadowed (c : Context) : Context :=
  c.shadow.foldl (fun t w => t.setFormat w.num w.v) c

/-- The round of a deterministic core in which a bundle that issued in this or the last cycle issued: the turn of context 3
has passed the round on (spec/16_scheduling.md R329, R331). -/
def State.issueRound (s : State) (k : Nat) : Nat := (s.coreAt (coreOf k)).round - (if indexOf k = 3 then 1 else 0)

/-- The context takes a new quiet record at `pc`: the stamp, an empty loan log, no changed shelf (R34). A loan that was delivered
before it is of no more use (spec/16_scheduling.md R331). -/
def State.record (s : State) (k : Nat) (pc : Word) : State :=
  let c := s.ctxAt k
  let stamp := s.special k 0
  let r := c.shadowed.takeRecord pc stamp (s.issueRound k)
  { s.setCtx k { c with record := r, qrec := stamp, log := [], ordinal := 0, changed := 0, qcount := 0 } with
    loans := (s.loans.filter (fun l => !(l.owner == .context k && l.delivered))).map (fun l =>
      if l.owner = .context k then { l with afterRec := false, ordinal := none } else l) }

/-- The shelf descriptors after a resumption: those the context changed come from the record (R35 step 3). -/
def restoreShelves (changed : BitVec 64) (live rec : Store Shelf) : Store Shelf :=
  (List.range 64).foldl (fun m i => if changed.getLsbD i then sset {} m i (sget {} rec i) else m) live

/-- Return to the quiet record: every item of it is restored, and its quiet bundle is to issue again (R35 steps 2
to 4, R135). Queue formats stand in no record: their writes stay in their shadow (R65). -/
def State.returnToRecord (s : State) (k : Nat) : State :=
  { s.modCtx k (fun c =>
      let r := c.record
      { c with
        stage := .run, pc := r.pc, preds := r.preds, lk := r.lk, loops := r.loops, bts := r.bts, rrb := r.rrb,
        ra := r.ra, rb := r.rb, rn := r.rn, rd := r.rd, rl := r.rl, lp := r.lp, vl := r.vl,
        shelves := restoreShelves c.changed c.shelves r.shelves, fa := r.fa, fb := r.fb, fc := r.fc, tol := r.tol,
        stat := r.stat, toks := r.toks, qmax := r.qmax, retired := r.retired, changed := 0, ordinal := 0, sup := false,
        shadow := c.shadow.filter (fun w => decide (0x100 ≤ w.num)), xfers := [.no, .no, .no], held := none
        reissue := true, qcount := 0, trap := none, deferred := [], reserved := [] }) with
    loans := s.loans.filter (fun l => !(l.owner = .context k && l.afterRec)) }

end Sys2Proof.Machine
end

