-- ==== Sys2Proof/Machine/LoanRecord.lean ====
section
/-!
DEFINITION. Loan records (spec/12_instr_network.md R255 to R258, Tables 12-5 to 12-7; spec/18_integrity_repair.md R367):
their fields, the tests made when a record is sampled, and the elements of their views (R261, R262, R275 to R277).
-/

namespace Sys2Proof.Machine

/-- A loan record. -/
abbrev LoanRec := BitVec 512

/-! ### Fields (Table 12-5) -/

def recBits (r : LoanRec) (lo n : Nat) : Nat := r.toNat / 2 ^ lo % 2 ^ n

def recOp (r : LoanRec) : Nat := recBits r 0 8
def recClass (r : LoanRec) : Nat := recBits r 8 2
def recScope (r : LoanRec) : Nat := recBits r 10 3
def recOrd (r : LoanRec) : Nat := recBits r 13 2
def recTk (r : LoanRec) : Nat := recBits r 15 3
def recPub (r : LoanRec) : Bool := r.getLsbD 18
def recRel (r : LoanRec) : Bool := r.getLsbD 19
def recNr (r : LoanRec) : Bool := r.getLsbD 20
def recAtype (r : LoanRec) : Nat := recBits r 21 2
def recEsz (r : LoanRec) : Nat := recBits r 23 2
def recDims (r : LoanRec) : Nat := recBits r 25 2
def recPad (r : LoanRec) (k : Nat) : Nat := recBits r (32 + 8 * k) 8
def recOpnd (r : LoanRec) : Nat := recBits r 64 64
def recSrc (r : LoanRec) : Nat := recBits r 128 64
def recDst (r : LoanRec) : Nat := recBits r 192 64
def recExt (r : LoanRec) (k : Nat) : Nat := recBits r (256 + 16 * k) 16
def recCmp (r : LoanRec) : Nat := recBits r 320 64

/-- Element size z. -/
def recSize (r : LoanRec) : Nat := 2 ^ recEsz r

/-- A stride: s1 to s3 signed, s0 none. -/
def strideAt (r : LoanRec) (lo k : Nat) : Int :=
  if k = 0 then 0
  else
    let v := recBits r (lo + 32 * (k - 1)) 32
    if v < 2 ^ 31 then (v : Int) else (v : Int) - 2 ^ 32

def recSs (r : LoanRec) (k : Nat) : Int := strideAt r 320 k
def recDs (r : LoanRec) (k : Nat) : Int := strideAt r 416 k

/-- Compose a record from fields given as (low bit, value). -/
def recordOf (fs : List (Nat × Nat)) : LoanRec := BitVec.ofNat 512 ((fs.map (fun f => f.2 * 2 ^ f.1)).sum)

/-! ### Address words (R257, Table 12-6) -/

def addrKind (w : Nat) : Nat := w / 2 ^ 62 % 4
def wordVa (w : Nat) : Nat := w % 2 ^ 48
def wordOff (w : Nat) : Nat := w % 2 ^ 26
def wordShelf (w : Nat) : Nat := w / 2 ^ 26 % 64
def wordDie (w : Nat) : Nat := w / 2 ^ 40 % 16
def wordDev (w : Nat) : Nat := w / 2 ^ 44 % 2 ^ 11
def wordBarrier (w : Nat) : Nat := w % 256

/-- The context key that a kind 2 word names; die, bay and chain position out of range name none. -/
def wordCtx (w : Nat) : Option Nat :=
  let pos := w / 2 ^ 34 % 8
  let bay := w / 2 ^ 37 % 8
  if 6 ≤ pos || 6 ≤ bay || 8 ≤ wordDie w then none
  else some (4 * (36 * wordDie w + 6 * bay + pos) + w / 2 ^ 32 % 4)

/-- Bits that a kind leaves out are 0. -/
def addrClean (w : Nat) : Bool :=
  match addrKind w with
  | 0 => w / 2 ^ 32 % 2 ^ 30 == 0
  | 1 => w / 2 ^ 48 % 2 ^ 14 == 0
  | 2 => w / 2 ^ 55 % 2 ^ 7 == 0
  | _ => w / 2 ^ 8 % 2 ^ 32 == 0 && w / 2 ^ 55 % 2 ^ 7 == 0

/-- Where an address word begins inside its space: a VA, or an offset in a half. -/
def wordBase (w : Nat) : Int := if addrKind w = 1 then (wordVa w : Int) else (wordOff w : Int)

/-! ### Operations (Table 12-7) -/

def isAtomic (op : Nat) : Bool := decide (0x10 ≤ op) && decide (op ≤ 0x17)

def knownOp (op : Nat) : Bool :=
  (decide (1 ≤ op) && decide (op ≤ 6)) || isAtomic op || (decide (0x20 ≤ op) && decide (op ≤ 0x23))

/-- Non-idempotent loans (spec/01_machine_state.md R37). -/
def loggedOp (op : Nat) : Bool := op == 4 || isAtomic op || (decide (0x20 ≤ op) && decide (op ≤ 0x23))

/-- Operations without extents and strides. -/
def flatOp (op : Nat) : Bool := isAtomic op || decide (0x20 ≤ op)

def opReads (op : Nat) : Bool := !(op == 5 || op == 0x20 || op == 0x21 || op == 0x23)

def opWrites (op : Nat) : Bool := op != 0x22

/-- Kinds of the source; none where the field must be 0. -/
def srcKinds (op : Nat) : List Nat :=
  if op = 5 ∨ 0x20 ≤ op then [] else if isAtomic op then [0] else [0, 1]

def dstKinds (op : Nat) : List Nat :=
  if op = 1 ∨ op = 5 then [0, 1, 2]
  else if op = 6 ∨ op = 0x22 ∨ op = 0x23 then [1]
  else if op = 0x20 then [2]
  else if op = 0x21 then [3]
  else [0, 1]

/-- Values of atype, esz and dims that an operation allows. Table 12-7 lists no dims for the atomics: other than 0 is refused
(log 138). -/
def shapeOk (r : LoanRec) : Bool :=
  let op := recOp r
  let t := recAtype r
  let z := recEsz r
  let d := recDims r
  if op = 1 ∨ op = 5 then t == 0
  else if op = 2 ∨ op = 3 then t == 0 && d == 1
  else if op = 4 then t != 3 && (t != 2 || z == 2) && d == 1
  else if op = 6 then t == 0 && z == 3
  else if isAtomic op then
    decide (2 ≤ z) && d == 0 && t != 3 && (t != 2 || z == 2) && (decide (op ≤ 0x12) || t == 0)
  else t == 0 && z == 0 && d == 0

def pubOk (op : Nat) : Bool := decide (1 ≤ op) && decide (op ≤ 5) || isAtomic op
def relOk (op : Nat) : Bool := op == 1 || op == 3 || op == 4 || op == 6

/-- Whether the fields that an operation does not use are 0. -/
def unusedClean (r : LoanRec) : Bool :=
  let op := recOp r
  let past := fun k => decide (recDims r < k) || flatOp op
  [0, 1, 2, 3].all (fun k => !past k || recExt r k == 0) &&
    [1, 2, 3].all (fun k => !past k || recDs r k == 0) &&
    (if isAtomic op then recBits r 384 32 == 0 else [1, 2, 3].all (fun k => !past k || recSs r k == 0)) &&
    (op == 1 || recBits r 32 32 == 0)

/-! ### Deposits (spec/18_integrity_repair.md R367) -/

def depRva (r : LoanRec) : Nat := recOpnd r % 2 ^ 48
def depAnc (r : LoanRec) : Bool := (recOpnd r).testBit 48

/-- The conditions on a deposit's opnd; `quietFree`: every token is FREE in the quiet record. -/
def depositOk (r : LoanRec) (sup quietFree : Bool) : Bool :=
  recOp r != 6 ||
    (recOpnd r / 2 ^ 49 == 0 && (!depAnc r || (recOrd r == 2 && depRva r != 0 && !sup && quietFree)))

/-! ### The tests (R255, R256, R258, R259; Table 12-4) -/

/-- An address field against the kinds allowed. -/
def addrOk (w : Nat) (kinds : List Nat) : Bool :=
  if kinds.isEmpty then w == 0 else kinds.contains (addrKind w) && addrClean w

/-- The lowest detail that applies, or none. Of the token, the current state is given. A source that must be 0 is a field of
detail 16 (R258); the reserved scope 7 counts as one too (log 127). -/
def recordDetail (r : LoanRec) (tokenFree sup quietFree : Bool) : Option Nat :=
  let op := recOp r
  if !knownOp op || recBits r 27 5 != 0 || recScope r == 7 || !shapeOk r || (recPub r && !pubOk op) ||
      (recRel r && !relOk op) || (recNr r && !isAtomic op) || ((srcKinds op).isEmpty && recSrc r != 0) ||
          !unusedClean r || !depositOk r sup quietFree then some 16
  else if !tokenFree then some 17
  else if !addrOk (recSrc r) (srcKinds op) || !addrOk (recDst r) (dstKinds op) ||
      (isAtomic op && recNr r && recSrc r != 0) ||
      ((op == 2 || op == 3 || op == 4) && !addrOk (recOpnd r) [0]) then some 18
  else if recOrd r == 3 || (recOrd r == 1 && !opReads op) || (recOrd r == 2 && !opWrites op) then some 19
  else none

/-! ### Elements (R261, R262, R275 to R277) -/

/-- One element: where it is read, or none for a fill or pad value, and where it is written. -/
abbrev Elem := Option Int × Int

/-- Extent of a dimension; unused extents count as 1. -/
def extent (r : LoanRec) (k : Nat) : Nat := if k ≤ recDims r then recExt r k else 1

/-- An extent of 0 makes the view empty (R276). -/
def emptyView (r : LoanRec) : Bool := [0, 1, 2, 3].any (fun k => extent r k == 0)

/-- Index quadruples (i3, i2, i1, i0) of a view in linear order (R275). -/
def indices (e3 e2 e1 e0 : Nat) : List (Nat × Nat × Nat × Nat) :=
  (List.range e3).flatMap (fun i3 => (List.range e2).flatMap (fun i2 => (List.range e1).flatMap (fun i1 =>
    (List.range e0).map (fun i0 => (i3, i2, i1, i0)))))

/-- Extent of the destination view of a copy in one dimension (R277). -/
def padded (r : LoanRec) (k : Nat) : Nat := extent r k + 2 * recPad r k

/-- The elements of a copy or deposit: a walk over the whole destination extent in linear order (R261, R277). -/
def copyElems (r : LoanRec) : List Elem :=
  if emptyView r then []
  else
    let z : Int := recSize r
    (indices (padded r 3) (padded r 2) (padded r 1) (padded r 0)).map (fun j =>
      let at_ := fun (i : Nat) (k : Nat) => (i : Int) - recPad r k
      let ins := fun (i k : Nat) => decide (recPad r k ≤ i) && decide (i < recPad r k + extent r k)
      let inside := ins j.1 3 && ins j.2.1 2 && ins j.2.2.1 1 && ins j.2.2.2 0
      (if inside then
        some (wordBase (recSrc r) + at_ j.2.2.1 1 * recSs r 1 + at_ j.2.1 2 * recSs r 2 + at_ j.1 3 * recSs r 3 +
          z * at_ j.2.2.2 0)
      else none,
      wordBase (recDst r) + j.2.2.1 * recDs r 1 + j.2.1 * recDs r 2 + j.1 * recDs r 3 + z * j.2.2.2))

/-- The elements of a fill (R261). -/
def fillElems (r : LoanRec) : List Elem :=
  if emptyView r then []
  else
    (indices (extent r 3) (extent r 2) (extent r 1) (extent r 0)).map (fun j =>
      (none, wordBase (recDst r) + j.2.2.1 * recDs r 1 + j.2.1 * recDs r 2 + j.1 * recDs r 3 +
        (recSize r : Int) * j.2.2.2))

/-- The row of a side: base, stride s1 and row number. -/
def rowElem (r : LoanRec) (w : Nat) (s1 : Int) (row i0 : Nat) : Int := wordBase w + row * s1 + (recSize r : Int) * i0

/-- The elements of a gather (R262). -/
def gatherElems (r : LoanRec) (idx : List Nat) : List Elem :=
  (List.zip idx (List.range idx.length)).flatMap (fun p => (List.range (extent r 0)).map (fun i0 =>
    (some (rowElem r (recSrc r) (recSs r 1) p.1 i0), rowElem r (recDst r) (recDs r 1) p.2 i0)))

/-- Insert a row among rows of rising index; an equal index stays before the new one. -/
def insertRow (p : Nat × Nat) : List (Nat × Nat) → List (Nat × Nat)
  | [] => [p]
  | q :: r => if p.1 < q.1 then p :: q :: r else q :: insertRow p r

/-- The elements of a scatter in the order of their destination positions, a tie in linear order (R262, R277). -/
def scatterElems (r : LoanRec) (idx : List Nat) : List Elem :=
  let rows := (List.zip idx (List.range idx.length)).foldl (fun l p => insertRow p l) []
  rows.flatMap (fun p => (List.range (extent r 0)).map (fun i0 =>
    (some (rowElem r (recSrc r) (recSs r 1) p.2 i0), rowElem r (recDst r) (recDs r 1) p.1 i0)))

/-- The elements of a scatter-accumulate in ascending row index, then element (R262). -/
def accumulateElems (r : LoanRec) (idx : List Nat) : List Elem :=
  (List.zip idx (List.range idx.length)).flatMap (fun p => (List.range (extent r 0)).map (fun i0 =>
    (some (rowElem r (recSrc r) (recSs r 1) p.2 i0), rowElem r (recDst r) (recDs r 1) p.1 i0)))

/-- The elements of a record. -/
def elems (r : LoanRec) (idx : List Nat) : List Elem :=
  match recOp r with
  | 1 => copyElems r
  | 2 => gatherElems r idx
  | 3 => scatterElems r idx
  | 4 => accumulateElems r idx
  | 5 => fillElems r
  | 6 => copyElems r
  | _ => []

/-- Status 9 (Table 12-8): an atomic's address or an element not a multiple of z; an address or stride of a copy or
deposit, or the receipt's address, not a multiple of 64. -/
def misaligned (r : LoanRec) (es : List Elem) : Bool :=
  let op := recOp r
  let off := fun (a : Int) (n : Nat) => a % n != 0
  if op = 1 ∨ op = 6 then
    off (wordBase (recSrc r)) 64 || off (wordBase (recDst r)) 64 ||
      [1, 2, 3].any (fun k => off (recSs r k) 64 || off (recDs r k) 64) || (op == 6 && off (depRva r) 64)
  else if isAtomic op then
    off (wordBase (recDst r)) (recSize r) || (!recNr r && off (wordBase (recSrc r)) (recSize r))
  else
    es.any (fun e => off e.2 (recSize r) || (match e.1 with
      | some a => off a (recSize r)
      | none => false))

/-- Little-endian value bytes of a fill or pad. -/
def padBytes (r : LoanRec) : List Byte := leBytes (recSize r) (recOpnd r)

end Sys2Proof.Machine
end

