-- ==== Sys2Proof/Machine/Operands.lean ====
section
/-!
DEFINITION. Operand forms: the A and B files, immediates, transfer targets, scratchpad addresses, d registers and D
address words (spec/02 R50, R51; 06 R117 to R124; 07 R141; 09 R184; 11 R217, R218; 12 R243).
-/

namespace Sys2Proof.Machine

/-- Register `i` of the issuing scalar unit's own file (R141). -/
def readX (u : AB) (c : Context) (i : Nat) : Reg :=
  match u with
  | .a => c.regA i
  | .b => c.regB i

/-- Register `i` of the other scalar file (R152). -/
def readOther (u : AB) (c : Context) (i : Nat) : Reg :=
  match u with
  | .a => c.regB i
  | .b => c.regA i

/-- A write to the issuing unit's own file. -/
def writeX (u : AB) (i : Nat) (v : Reg) : Write :=
  match u with
  | .a => .a i v
  | .b => .b i v

/-- A signed immediate as a 64-bit value (R143, R148, R188). -/
def sext {n : Nat} (v : BitVec n) : Reg := v.signExtend 64

/-- A signed field as an integer. -/
def sint {n : Nat} (v : BitVec n) : Int := v.toInt

/-- Address of the bundle sequentially after the present one (R44). -/
def State.nextPc (s : State) : Word := s.cur.pc + BitVec.ofNat 32 (4 * s.cur.words.length)

/-- Target of a direct transfer: PC + 4 times the signed offset (R51, R120). -/
def State.target {n : Nat} (s : State) (off : BitVec n) : Word := s.cur.pc + BitVec.ofInt 32 (4 * off.toInt)

/-- A PC: its bits [1:0] are 0 (spec/01_machine_state.md Table 01-1). -/
def alignPc (w : Word) : Word := w &&& 0xFFFFFFFC

/-- Target of a register-indirect transfer (R119): bits above 31 and bits [1:0] of the sum are ignored. -/
def jumpTarget (base : Reg) (off : BitVec 14) : Word := alignPc ((base + BitVec.ofInt 64 (4 * off.toInt)).setWidth 32)

/-- End address of a loop: PC + 4 times the u11 field (R121). -/
def State.loopEnd (s : State) (e : BitVec 11) : Word := s.cur.pc + BitVec.ofNat 32 (4 * e.toNat)

/-- Number of words of the bundle at an address of the context's code (R44), at most eight. -/
def bundleLength (code : List Word) (pc : Word) : Nat → Nat
  | 0 => 0
  | n + 1 =>
    match code[pc.toNat / 4]? with
    | none => 1
    | some w => if w.getLsbD 31 then 1 else 1 + bundleLength code (pc + 4) n

/-- The bundle sequentially after the bundle at an address (R121, R123); outside the code segment a bundle counts as one word
(log 114). -/
def Context.after (c : Context) (pc : Word) : Word := pc + BitVec.ofNat 32 (4 * bundleLength c.code pc 8)

/-- The shelf and byte offset of an address register (R184). -/
def addrShelf (a : Reg) : Nat := a.toNat / 2 ^ 26 % 64

def addrOffset (a : Reg) : Nat := a.toNat % 2 ^ 26

/-- The access of a scalar load or store: the offset is exact, with no wraparound (R184). -/
def scalarAccess (a : Reg) (disp : Int) (sz : Nat) : Access :=
  { sh := addrShelf a, off := (addrOffset a : Int) + disp, size := 2 ^ sz }

/-- Displacement of the immediate form: sext6(off) times the access size (R184). -/
def dispImm (off : BitVec 6) (sz : BitVec 2) : Int := off.toInt * (2 ^ sz.toNat : Nat)

/-- Displacement of the strided form (R184). -/
def dispReg (t : Reg) (sz : BitVec 2) (sc : Bool) : Int := t.toInt * (if sc then 64 else (2 ^ sz.toNat : Nat))

/-- A 64-byte access at l[s] plus 64 times a signed field (spec/12_instr_network.md R243). -/
def granuleAccess {n : Nat} (a : Reg) (off : BitVec n) : Access :=
  { sh := addrShelf a, off := (addrOffset a : Int) + 64 * off.toInt, size := 64 }

/-- Fields of a d register (Table 01-7). -/
def dRow (d : Reg) : Nat := d.toNat % 2 ^ 24

def dBank (d : Reg) : Nat := d.toNat / 2 ^ 24 % 64

def dPch (d : Reg) : Nat := d.toNat / 2 ^ 32 % 64

def dStack (d : Reg) : Nat := d.toNat / 2 ^ 40 % 8

/-- The pseudo-channel a d register names: stack times 64 plus pch. -/
def dPc (d : Reg) : Nat := dStack d * 64 + dPch d

/-- The first column of a D address word (R218). -/
def addrColumn (a : Reg) : Nat := a.toNat / 2 ^ 32 % 64

/-- A d register with another row or bank (Table 11-1, updates 2 and 3). -/
def incRow (d : Reg) (f : BitVec 5) : Reg :=
  d.extractLsb' 24 40 ++ (d.extractLsb' 0 24 + f.signExtend 24)

def incBank (d : Reg) (f : BitVec 5) : Reg :=
  d.extractLsb' 30 34 ++ (d.extractLsb' 24 6 + f.setWidth 6) ++ d.extractLsb' 0 24

/-- Run a privileged form: in user mode the privilege trap, kind 0 (R40, Table 17-4). -/
def whenPriv (s : State) (f : State → Out) : Out :=
  if s.me.sup then f s else .next (s.issueTrap 0x03 (infoPrivilege s.slotWord s.slotNo 0 0))

/-- Run a form that needs an engine grant: without it the privilege trap, kind 2 (R40). -/
def whenGrant (s : State) (grant : Bool) (f : State → Out) : Out :=
  if grant then f s else .next (s.issueTrap 0x03 (infoPrivilege s.slotWord s.slotNo 2 0))

end Sys2Proof.Machine
end

