-- ==== Sys2Proof/Machine/Flags.lean ====
section
/-!
DEFINITION. Predicate and lane-mask computations: the relations of the compare forms (spec/07_instr_scalar.md R148), the
predicate-logic forms (R149) and masks over elements (spec/01_machine_state.md R22).
-/

namespace Sys2Proof.Machine

/-- The six relations of A and B (R148). -/
def relEq (x y : Reg) : Bool := x == y

def relNe (x y : Reg) : Bool := x != y

def relLt (x y : Reg) : Bool := x.slt y

def relLtn (x y : Reg) : Bool := x.ult y

def relLe (x y : Reg) : Bool := x.sle y

def relLen (x y : Reg) : Bool := x.ule y

/-- `pandn` (R149). -/
def andNot (x y : Bool) : Bool := x && !y

/-- The bits of a mask as booleans, `n` elements of `w` bytes: the bit at each element's first byte lane (R22). -/
def elementBits (m : BitVec 8192) (w n : Nat) : List Bool := (List.range n).map (fun k => m.getLsbD (w * k))

/-- A mask from one bit per element: all w bits of an element alike, lanes at or past the count 0 (R22). -/
def maskNat (w : Nat) : List Bool → Nat
  | [] => 0
  | b :: r => (if b then 2 ^ w - 1 else 0) + 2 ^ w * maskNat w r

def maskOf (w : Nat) (bits : List Bool) : BitVec 8192 := BitVec.ofNat 8192 (maskNat w bits)

end Sys2Proof.Machine
end

