-- ==== Sys2Proof/Machine/Present.lean ====
section
/-!
DEFINITION. How a context's next bundle presents itself: its words and framing (spec/02_bundles_and_encoding.md R44, R45),
the decoding and privilege checks (spec/05_opcode_map.md R110, R111), the sources it reads, the waits of interlocked mode
(spec/01_machine_state.md R41) and when a context is ready (spec/16_scheduling.md R326).
-/

namespace Sys2Proof.Machine

/-- Read a bundle's words: the words and, for an illegal bundle, the condition code and word index (Table 02-1). Of several
conditions the first offending word's is reported, and at one word code 4 before 1, 1 before 3, 3 before 2 (log 93). -/
def frameFrom (code : List Word) (pc : Word) (il : Bool) : Nat → Nat → Option Nat → List Word × Option (Nat × Nat)
  | 0, _, _ => ([], none)
  | n + 1, i, prev =>
    match code[pc.toNat / 4]? with
    | none => ([], some (4, i))
    | some w =>
      let u := (fld w 28 3).toNat
      let last := fbit w 31
      if (match prev with
          | some p => decide (u ≤ p)
          | none => false) then ([w], some (1, i))
      else if il && (u != i || (last && decide (i < 7))) then ([w], some (3, i))
      else if last then ([w], none)
      else if i == 7 then ([w], some (2, 7))
      else
        let r := frameFrom code (pc + 4) il n (i + 1) (some u)
        (w :: r.1, r.2)

def Context.frame (c : Context) : List Word × Option (Nat × Nat) := frameFrom c.code c.pc c.il 8 0 none

/-- The privilege condition of a slot (R40, R111 step 3): kind and special-register number of Table 17-4. -/
def privilegeOf (sup gM gD gN : Bool) (i : Instr) : Option (Nat × Nat) :=
  let priv := if sup then none else some (0, 0)
  match i with
  | .kRti | .kHalt | .kMode _ => priv
  | .kMrs _ _ | .kInval _ _ => priv
  | .kInvalAll _ => priv
  | .lClaimDecl _ _ _ => priv
  | .kMsr _ num => if msrAllowed sup num.toNat then none else some (1, num.toNat)
  | .rsr _ _ num => if sup || userReads num.toNat then none else some (1, num.toNat)
  | .dMrs _ _ _ | .dWin _ _ _ => if sup then (if gD then none else some (2, 0)) else some (0, 0)
  | .mNop | .nNop | .dNop => none
  | .nLoan _ _ _ | .nGetA _ _ _ | .nGetB _ _ _ | .nGetL _ _ _ => none
  | .nFence _ _ => none
  | .nGetD _ _ _ => none
  | i =>
    match i.unit with
    | 5 => if gM then none else some (2, 0)
    | 6 => if gN then none else some (2, 0)
    | 7 => if gD then none else some (2, 0)
    | _ => none

/-- The first register that an instruction names and the context lacks: by its name, or a V register by what the name denotes
under the lap count, so that no V slot reaches a byte outside the context's granules (R9, R11; log 103). -/
def Context.lacks (c : Context) (i : Instr) : Option (Nat × Nat) :=
  i.named.find? (fun r =>
    if r.1 == 0 then decide (8 * c.vg ≤ r.2) || decide (8 * c.vg ≤ c.physV r.2) else decide (c.zg ≤ r.2))

/-- First illegal slot, in ascending slot index (R111 step 2). -/
def firstIllegal (lacks : Lacks) : Nat → List Word → Option (Nat × Word × Illegal)
  | _, [] => none
  | i, w :: r =>
    match decodeWith lacks w with
    | .error e => some (i, w, e)
    | .ok _ => firstIllegal lacks (i + 1) r

/-- First privilege condition, in ascending slot index (R111 step 3). -/
def firstPrivilege (c : Context) : Nat → List Word → Option (Nat × Word × Nat × Nat)
  | _, [] => none
  | i, w :: r =>
    match decodeSlot c.vg c.zg w with
    | .ok ins =>
      match privilegeOf c.sup c.gM c.gD c.gN ins with
      | some (k, n) => some (i, w, k, n)
      | none => firstPrivilege c (i + 1) r
    | .error _ => firstPrivilege c (i + 1) r

/-- The first decoding condition of a bundle in the order of R111: cause and `$tinfo`. A reason 7 that depends on state is not
among them: its slot reports it when it is issued, after these checks (log 110). -/
def Context.bundleFault (c : Context) : Option (Nat × Reg) :=
  let f := c.frame
  match f.2 with
  | some (code, i) => some (0x02, BitVec.ofNat 64 (code + 16 * i))
  | none =>
    match firstIllegal c.lacks 0 f.1 with
    | some (i, w, e) => some (0x01, infoIllegal w i e)
    | none =>
      match firstPrivilege c 0 f.1 with
      | some (i, w, k, n) => some (0x03, infoPrivilege w i k n)
      | none => none

/-- The instructions of a bundle that passed its checks. -/
def Context.bundle (c : Context) : List Instr :=
  c.frame.1.filterMap (fun w =>
    match decodeSlot c.vg c.zg w with
    | .ok i => some i
    | .error _ => none)

/-! ### Sources and results in flight (R41) -/

/-- Register keys: file (0 a, 1 b, 2 l, 3 n, 4 d, 5 p, 6 q, 7 v, 8 special, 9 bt, 10 z) and physical number. -/
abbrev RegKey := Nat × Nat

def fileOf (u : AB) : Nat :=
  match u with
  | .a => 0
  | .b => 1

def otherFile (u : AB) : Nat :=
  match u with
  | .a => 1
  | .b => 0

def Context.keyP (c : Context) (n : BitVec 4) : RegKey := (5, c.physP n.toNat)

def Context.keyV (c : Context) (n : Nat) : RegKey := (7, c.physV n)

def sourcesK (c : Context) : Instr → List RegKey
  | .kBr g _ | .kCall g _ => [c.keyP g.p]
  | .kJr g s _ => [c.keyP g.p, (0, s.toNat)]
  | .kRet g => [c.keyP g.p, (8, 0x00A)]
  | .kLoopReg s _ => [(0, s.toNat)]
  | .kRotReg _ s _ => [(0, s.toNat)]
  | .kBrk g => [c.keyP g.p]
  | .kHold s => [(0, s.toNat)]
  | .kBwait b => [(9, b.toNat)]
  | .kSpawn g _ _ _ => [c.keyP g.p]
  | .kChk g m _ => ((List.range 4).filter (fun i => m.getLsbD i)).map (fun i => (2, 4 * g.toNat + i))
  | .kMsr s _ | .kMrs s _ => [(0, s.toNat)]
  | .kInval s _ => [(0, s.toNat)]
  | _ => []

def sourcesAB (c : Context) : Instr → List RegKey
  | .add u g _ s t | .sub u g _ s t | .and u g _ s t | .or u g _ s t | .xor u g _ s t | .andn u g _ s t
  | .min u g _ s t | .max u g _ s t | .minn u g _ s t | .maxn u g _ s t | .shl u g _ s t | .shr u g _ s t
  | .sar u g _ s t | .rol u g _ s t | .bfx u g _ s t | .bfxs u g _ s t | .mul u g _ s t | .mulh u g _ s t
  | .mulhn u g _ s t => [c.keyP g.p, (fileOf u, s.toNat), (fileOf u, t.toNat)]
  | .bfi u g d s t => [c.keyP g.p, (fileOf u, d.toNat), (fileOf u, s.toNat), (fileOf u, t.toNat)]
  | .popc u g _ s | .clz u g _ s | .brev u g _ s => [c.keyP g.p, (fileOf u, s.toNat)]
  | .eq u g _ s t | .ne u g _ s t | .lt u g _ s t | .ltn u g _ s t | .le u g _ s t | .len u g _ s t =>
    [c.keyP g.p, (fileOf u, s.toNat), (fileOf u, t.toNat)]
  | .pand _ g _ s t | .por _ g _ s t | .pxor _ g _ s t | .pandn _ g _ s t => [c.keyP g.p, c.keyP s, c.keyP t]
  | .sel u g _ s t p => [c.keyP g.p, (fileOf u, s.toNat), (fileOf u, t.toNat), c.keyP p]
  | .getOther u g _ s => [c.keyP g.p, (otherFile u, s.toNat)]
  | .getL _ g _ s => [c.keyP g.p, (2, s.toNat)]
  | .getN _ g _ s => [c.keyP g.p, (3, s.toNat)]
  | .getD _ g _ s => [c.keyP g.p, (4, s.toNat)]
  | .addImm u g _ s _ | .andImm u g _ s _ | .orImm u g _ s _ | .xorImm u g _ s _ => [c.keyP g.p, (fileOf u, s.toNat)]
  | .shlImm u g _ s _ | .shrImm u g _ s _ | .sarImm u g _ s _ | .rolImm u g _ s _ => [c.keyP g.p, (fileOf u, s.toNat)]
  | .eqImm u g _ s _ | .neImm u g _ s _ | .ltImm u g _ s _ | .ltnImm u g _ s _ | .leImm u g _ s _
  | .lenImm u g _ s _ => [c.keyP g.p, (fileOf u, s.toNat)]
  | .lui u d _ => [(fileOf u, d.toNat)]
  | .rsr _ _ n => [(8, n.toNat)]
  | _ => []

def sourcesV (c : Context) (i : Instr) : List RegKey :=
  let v := fun (x : BitVec 6) => c.keyV x.toNat
  let q := fun (x : BitVec 2) => ((6, x.toNat) : RegKey)
  let vl : RegKey := (8, 0x008)
  match i with
  | .vAdd _ m _ s t | .vSub _ m _ s t | .vMul _ m _ s t | .vMin _ m _ s t | .vMax _ m _ s t | .vAnd _ m _ s t
  | .vOr _ m _ s t | .vXor _ m _ s t | .vAndn _ m _ s t | .vSel _ m _ s t | .vCvtSr _ m _ s t | .vPerm _ m _ s t =>
    [v s, v t, q m, vl]
  | .vFma _ m d s t => [v d, v s, v t, q m, vl]
  | .vAbs _ m _ s | .vNeg _ m _ s | .vNot _ m _ s | .vExp2 _ m _ s | .vRcp _ m _ s | .vRsqrt _ m _ s =>
    [v s, q m, vl]
  | .vQp _ m _ p => [c.keyP p, q m, vl]
  | .vGet _ m _ l => [(2, l.toNat), q m, vl]
  | .vShl _ m _ s _ | .vShr _ m _ s _ | .vSar _ m _ s _ => [v s, q m, vl]
  | .vEq _ m _ s t | .vNe _ m _ s t | .vLt _ m _ s t | .vLe _ m _ s t => [v s, v t, q m, vl]
  | .vCvt _ m _ s _ _ => [v s, q m, vl]
  | .vQuant _ s _ _ => [v s, vl]
  | .vHash m _ s t => [v s, v t, c.keyV (t.toNat + 1), q m, vl]
  | .vScan _ m _ s sq _ _ _ => [v s, q m, q sq, vl]
  | .vRed _ m _ s _ => [v s, q m, vl]
  | .vBcast _ m _ s _ => [v s, q m, vl]
  | .vWiden _ m _ s => [v s, q m, vl]
  | .vNarrow _ m _ s => [v s, c.keyV (s.toNat + 1), q m, vl]
  | .vLd _ m _ l _ | .vLdS _ m _ l _ | .vLdt _ m _ l _ => [(2, l.toNat), q m, vl]
  | .vSt _ m l s _ => [(2, l.toNat), v s, q m, vl]
  | .vLdz _ m _ z _ => [(10, z.toNat), q m]
  | _ => []

def sourcesL (c : Context) : Instr → List RegKey
  | .lLd g _ s _ _ _ | .lLdS g _ s _ _ _ => [c.keyP g.p, (2, s.toNat)]
  | .lSt g v s _ _ => [c.keyP g.p, (2, s.toNat), (2, v.toNat)]
  | .lLdx g _ s t _ _ _ => [c.keyP g.p, (2, s.toNat), (2, t.toNat)]
  | .lStx g v s t _ _ => [c.keyP g.p, (2, s.toNat), (2, t.toNat), (2, v.toNat)]
  | .lAdd g _ s t => [c.keyP g.p, (2, s.toNat), (2, t.toNat)]
  | .lAddImm g _ s _ | .lAddImm64 g _ s _ => [c.keyP g.p, (2, s.toNat)]
  | .lClaimDecl g r _ => [c.keyP g.p, (2, r.toNat)]
  | .lClaim g _ | .lPub g _ | .lDrain g _ | .lRel g _ | .lRelB g _ => [c.keyP g.p]
  | .lSst g _ _ => [c.keyP g.p]
  | .lGetA g _ s => [c.keyP g.p, (0, s.toNat)]
  | .lGetB g _ s => [c.keyP g.p, (1, s.toNat)]
  | .lGetN g _ s => [c.keyP g.p, (3, s.toNat)]
  | .lGetD g _ s => [c.keyP g.p, (4, s.toNat)]
  | _ => []

/-- The accumulators a drain, a check or a `v.ldz` reads count as sources (log 18). -/
def zPair (z : BitVec 4) (wide : Bool) : List RegKey :=
  if wide then [(10, z.toNat), (10, z.toNat + 1)] else [(10, z.toNat)]

def sourcesM (c : Context) : Instr → List RegKey
  | .mFmt g _ _ => [c.keyP g.p]
  | .mLdb g s _ _ | .mLdbt g s _ _ => [c.keyP g.p, (2, s.toNat)]
  | .mMulSet g _ src _ a | .mMulAcc g _ src _ a | .mMulPch g _ src _ a =>
    c.keyP g.p :: (if src = 0 then [(2, a.toNat)] else [])
  | .mMulPq g _ src _ a _ => c.keyP g.p :: (if src = 0 then [(2, a.toNat)] else [])
  | .mDrain g z l _ w _ => c.keyP g.p :: (2, l.toNat) :: zPair z w
  | .mDrainQueue g z _ _ w => c.keyP g.p :: zPair z w
  | .mChk g z _ w => c.keyP g.p :: zPair z w
  | .mZero g _ => [c.keyP g.p]
  | .mChain g _ _ => [c.keyP g.p]
  | .mTol g _ s => [c.keyP g.p, (2, s.toNat)]
  | _ => []

def sourcesN (c : Context) : Instr → List RegKey
  | .nSend g _ s _ | .nRecv g _ s _ => [c.keyP g.p, (2, s.toNat)]
  | .nFwd g _ _ => [c.keyP g.p]
  | .nBsend g _ s => [c.keyP g.p, (3, s.toNat)]
  | .nBlatch g _ _ => [c.keyP g.p]
  | .nQfmt g _ s => [c.keyP g.p, (3, s.toNat)]
  | .nLoan g s _ => [c.keyP g.p, (2, s.toNat)]
  | .nFence g _ => [c.keyP g.p]
  | .nRed g _ _ s _ => [c.keyP g.p, (2, s.toNat)]
  | .nQsl g _ _ _ => [c.keyP g.p]
  | .nGetA g _ s => [c.keyP g.p, (0, s.toNat)]
  | .nGetB g _ s => [c.keyP g.p, (1, s.toNat)]
  | .nGetL g _ s => [c.keyP g.p, (2, s.toNat)]
  | .nGetD g _ s => [c.keyP g.p, (4, s.toNat)]
  | _ => []

/-- The d register of a command and, for update 1, its l register. -/
def dSources (d : BitVec 4) (u : BitVec 2) (f : BitVec 5) : List RegKey :=
  if u = 1 then [(4, d.toNat), (2, f.toNat)] else [(4, d.toNat)]

def sourcesD (c : Context) : Instr → List RegKey
  | .dNopReserve d u f _ => dSources d u f
  | .dGet _ f => [(2, f.toNat)]
  | .dIncRow d _ | .dIncBank d _ => [(4, d.toNat)]
  | .dAct g d u f | .dPre g d u f | .dPrea g d u f | .dRef g d u f | .dRefpb g d u f | .dSre g d u f
  | .dSrx g d u f | .dPde g d u f | .dPdx g d u f => c.keyP g.p :: dSources d u f
  | .dRd g d s _ _ | .dWr g d s _ _ => [c.keyP g.p, (4, d.toNat), (2, s.toNat)]
  | .dMrs g d s | .dWin g d s => [c.keyP g.p, (4, d.toNat), (2, s.toNat)]
  | _ => []

/-- Every register a slot names as a source. -/
def namedSources (c : Context) (i : Instr) : List RegKey :=
  match i.unit with
  | 0 => sourcesK c i
  | 1 => sourcesAB c i
  | 2 => sourcesAB c i
  | 3 => sourcesV c i
  | 4 => sourcesL c i
  | 5 => sourcesM c i
  | 6 => sourcesN c i
  | 7 => sourcesD c i
  | _ => []

/-- A slot whose guard fails has no effect and reads nothing but its guard (spec/02_bundles_and_encoding.md R49,
spec/07_instr_scalar.md R152; log 94). -/
def Context.guardFails (c : Context) (i : Instr) : Bool :=
  match i.guard with
  | some g => !c.passes g
  | none => false

/-- Every register a slot reads at issue. -/
def sourcesOf (c : Context) (i : Instr) : List RegKey :=
  match i.guard with
  | some g => if c.passes g then namedSources c i else [c.keyP g.p]
  | none => namedSources c i

/-- The register a landing write is for. -/
def writeKey : Write → RegKey
  | .a i _ => (0, i)
  | .b i _ => (1, i)
  | .l i _ _ => (2, i)
  | .n i _ => (3, i)
  | .d i _ => (4, i)
  | .pred i _ => (5, i)
  | .mask q _ => (6, q)
  | .vec r _ => (7, r)
  | .spec n _ => (8, n)
  | .record n _ => (11, n)
  | .token t _ => (12, t)
  | .barrierToken i _ => (9, i)

/-- The registers that a V instruction in its quarters will write. -/
def VOp.dests (v : VOp) : List RegKey :=
  match v.i with
  | .vQp _ _ _ _ | .vEq _ _ _ _ _ | .vNe _ _ _ _ _ | .vLt _ _ _ _ _ | .vLe _ _ _ _ _ => [(6, v.mqd)]
  | .vSt _ _ _ _ _ => []
  | .vWiden _ _ _ _ => [(7, v.dst), (7, v.dst1)]
  | .vLdS _ _ _ _ _ => [(7, v.dst), (6, v.mq)]
  | _ => [(7, v.dst)]

/-- The registers that work in flight of context `k` will still write; an `m.mul` that forwards writes no accumulator
(spec/10_instr_matrix.md R205). -/
def State.dests (s : State) (k : Nat) (d : Due) : List RegKey :=
  match d.ev with
  | .op (.resultLanding _ w) => [writeKey w]
  | .op (.scalarLoadSample _ _ r _ _) => [(2, r)]
  | .op (.vectorLoadSample _ l) => if l.kind = .lds then [(7, l.vd), (6, l.q)] else [(7, l.vd)]
  | .op (.arrayRowUpdate o _) =>
    (match s.muls.find? (fun m => m.o == o) with
     | some m => if m.pf then [] else zPair (BitVec.ofNat 4 m.z) m.wide
     | none => [])
  | .micro (.quarter _) =>
    match (s.ctxAt k).vop with
    | some v => v.dests
    | none => []
  | .micro (.ldzRead _ r _ _ _ _) => [(7, r)]
  | .micro (.sstSample _ r _) => [(2, r)]
  | .micro (.spawnRead _ _ _ p) => [(5, p)]
  | .micro (.barrierArrive _ b _) => [(9, b)]
  | .micro (.zeroZ _ z) => [(10, z)]
  | _ => []

/-- Registers that are never waited for: their writes are discarded (R10). -/
def fixedKey (k : RegKey) : Bool :=
  k.2 == 0 && (k.1 == 0 || k.1 == 1 || k.1 == 2 || k.1 == 5 || k.1 == 6)

/-- Whether a write to a register of the context is in flight (R41), by the turns of a core that was frozen
(spec/16_scheduling.md R330). -/
def State.inFlight (s : State) (k : Nat) (r : RegKey) : Bool :=
  !fixedKey r &&
    ((s.agenda ++ s.todo).any (fun d => Due.pends k d && (s.dests k d).any (fun x => x == r)) ||
      s.late.any (fun x => x.ctx == k && decide (s.now < x.until_) && x.regs.any (fun y => y == r)))

/-- The work that a cycle brings to its end and that a freeze puts off in turns stays pending so much longer
(spec/16_scheduling.md R330). -/
def State.lateFrom (s : State) (due : List Due) : List Late :=
  s.late.filter (fun x => decide (s.now < x.until_)) ++ due.filterMap (fun d =>
    match d.ev.worker with
    | some k => if s.lagOf d.ev = 0 then none else some { ctx := k, until_ := d.clears + s.lagOf d.ev, regs := s.dests k d }
    | none => none)

/-! ### Readiness (R41, R57, R58, R326) -/

/-- A slot that takes the V datapath; `v.nop` has no effect (R53). -/
def takesV (i : Instr) : Bool := i.unit == 3 && i != .vNop

/-- Forms that occupy the array input or the drain path (R58). -/
def needsInput : Instr → Bool
  | .mLdb _ _ _ _ | .mLdbt _ _ _ _ | .mMulSet _ _ _ _ _ | .mMulAcc _ _ _ _ _ | .mMulPch _ _ _ _ _ => true
  | .mMulPq _ _ _ _ _ _ => true
  | _ => false

def needsDrain : Instr → Bool
  | .mDrain _ _ _ _ _ _ | .mDrainQueue _ _ _ _ _ | .mChk _ _ _ _ => true
  | _ => false

/-- A bundle in a delay position of a taken transfer (R63, R64). -/
def Context.inDelay (c : Context) : Bool := c.xfers.any (fun x => x != .no)

/-- Whether an interlocked bundle would wait (R41, R58, R62). -/
def State.interlocked (s : State) (k : Nat) (is : List Instr) : Bool :=
  let c := s.ctxAt k
  let core := s.coreAt (coreOf k)
  is.any (fun i =>
    (sourcesOf c i).any (s.inFlight k) ||
    (takesV i && decide (s.now < core.vFree)) ||
    (!c.guardFails i && needsInput i && decide (s.now < core.inFree)) ||
    (!c.guardFails i && needsDrain i && decide (s.now < core.drFree)) ||
    (i == .kQuiet && !c.inDelay && s.pending k))

def State.barrier (s : State) (key : Nat) : Barrier := sget {} s.bars key

/-- A barrier's phase as a core sees it in this cycle: a change of this cycle is seen from the next (R130). A change of the first
cycle of a freeze is seen from the turn after the next one, since frozen cycles are no turns (spec/16_scheduling.md R330). -/
def State.seenPhase (s : State) (core key : Nat) : BitVec 8 :=
  let b := s.barrier key
  let c := s.coreAt core
  match (if s.now ≤ c.seenTo then c.seen.find? (fun e => e.1 == key) else none) with
  | some e => e.2
  | none => if b.at_ = s.now then b.prev else b.phase

/-- The phases, before their change, of the barriers that change in this cycle. -/
def State.changedPhases (s : State) : List (Nat × BitVec 8) :=
  (s.bars.filter (fun e => e.2.at_ == s.now)).map (fun e => (e.1, e.2.prev))

/-- The barrier key of a context's die. -/
def barKey (k bar : Nat) : Nat := dieOf (coreOf k) * 256 + bar

/-- The hold target of a `k.hold`: a[s] as read at t0 (R127). -/
def Context.holdTarget (c : Context) (s : BitVec 5) : Nat :=
  match c.held with
  | some h => h.h.toNat
  | none => (c.regA s.toNat).toNat

/-- Whether a covered token is BUSY (R128). -/
def Context.busyToken (c : Context) (m : BitVec 8) : Bool :=
  (List.range 8).any (fun i => m.getLsbD i && (c.token i).st == .busy)

/-- A re-timing form. -/
def retiming : Instr → Bool
  | .kHold _ | .kWait _ | .kBwait _ => true
  | .kYield => true
  | _ => false

/-- Whether another context has issued, become held or ended since a `k.yield` was presented (R133). One that has left its
slot counts as ended, also where another stands there now; one that was held already has still to issue. -/
def State.yieldedTo (s : State) (o : Awaited) : Bool :=
  let c := s.ctxAt o.key
  decide (o.issued < c.issued) || (!o.held && c.held.any Held.waits) || c.stage == .idle || c.uid != o.uid

/-- Whether the condition of a re-timing bundle is met in this cycle, a first `k.yield` aside (R127 to R133). In a delay
position it does not wait: it traps (R64). -/
def State.retimed (s : State) (k : Nat) (i : Instr) : Bool :=
  let c := s.ctxAt k
  let det := (s.coreAt (coreOf k)).det
  c.inDelay || match i with
  | .kHold r => det || decide (c.holdTarget r ≤ s.conc)
  | .kWait m => !c.busyToken m
  | .kBwait b =>
    let bt := sget 0 c.bts b.toNat
    let key := barKey k (bt.toNat % 256)
    !bt.getLsbD 16 || (s.barrier key).expected == 0 || s.seenPhase (coreOf k) key != BitVec.ofNat 8 (bt.toNat / 256)
  | .kYield =>
    det || (match c.held with
            | some h => h.others.all s.yieldedTo
            | none => false)
  | _ => true

/-- Whether what a resumption waits for is done: its banks are closed and its operand is loaded (R304, R38). -/
def Context.reloaded (c : Context) (now : Nat) : Bool := decide (c.resumeAt ≤ now) && c.closes.isEmpty

/-- Whether a context's next bundle would issue in this cycle but for its own wait: it is live and running (R326). -/
def Context.due (c : Context) (now : Nat) : Bool := c.stage == .run && c.reloaded now

/-- V occupancy of another context (R57). -/
def State.otherV (s : State) (k : Nat) (is : List Instr) : Bool :=
  let core := s.coreAt (coreOf k)
  is.any takesV && core.vCtx != k && decide (s.now < core.vFree)

/-- Ready in this cycle (R326), a context that would first present a `k.yield` aside. A bundle that traps in its decoding
competes as any other and traps when it is picked. -/
def State.ready (s : State) (k : Nat) : Bool :=
  let c := s.ctxAt k
  c.due s.now &&
    (c.bundleFault.isSome ||
      (let is := c.bundle
       !s.otherV k is && !(c.il && s.interlocked k is) && s.retimed k (is.headD .kNop)))

/-! ### Traps and events of a presentation (R126, R346, R347) -/

/-- Index of a breakpoint at the context's PC. -/
def Context.breakpoint (c : Context) : Option Nat :=
  if c.sup then none else (List.range c.breaks.length).find? (fun i => c.breaks[i]? == some c.pc)

/-- A pending refresh-overdue or span-alignment trap is raised at a bundle presented in user mode; at a held one when it was
pending before this cycle (R346). -/
def State.raisePending (s : State) (k : Nat) : Option State :=
  let c := s.ctxAt k
  let due := fun (at_ : Nat) => c.held.isNone || decide (at_ < s.now)
  if c.sup then none
  else
    match (if due c.ev.overdueAt then c.ev.overdue else none) with
    | some v =>
      some ((s.modCtx k (fun c => { c with ev := { c.ev with overdue := none, overdueMore := false } })).raiseTrap
        k 0x0B false c.pc v c.ev.overdueMore)
    | none =>
      match (if due c.ev.spanAt then c.ev.span else none) with
      | some v =>
        some ((s.modCtx k (fun c => { c with ev := { c.ev with span := none, spanMore := false } })).raiseTrap
          k 0x13 false c.pc v c.ev.spanMore)
      | none => none

/-- The hold target of a re-timing bundle; 0 for the other forms. -/
def Context.holdOf (c : Context) (i : Instr) : Nat :=
  match i with
  | .kHold r => c.holdTarget r
  | _ => 0

/-- A `k.hold` whose target has passed (R127): a cycle H that goes to no context passes too, and the trap comes at H + 1
(log 111). -/
def State.missedHold (s : State) (k : Nat) (i : Instr) : Bool :=
  let c := s.ctxAt k
  match i with
  | .kHold r => decide (c.holdTarget r < (if (s.coreAt (coreOf k)).det then c.retired else s.conc))
  | _ => false

/-- Whether the presentation of a context's bundle in this cycle raises a trap or takes an event, so that the bundle does not
issue: a breakpoint, a trap of R346, a hold whose cycle has passed, an event at a held bundle. -/
def State.diverts (s : State) (k : Nat) : Bool :=
  let c := s.ctxAt k
  let i := c.bundle.headD .kNop
  c.breakpoint.isSome ||
    if c.held.isSome then
      (s.raisePending k).isSome || s.missedHold k i ||
        (!c.sup && (c.ev.repair.isSome || c.ev.preempt || c.ev.refresh.isSome || c.ev.host.isSome))
    else (c.bundleFault.isNone && ((s.raisePending k).isSome || (retiming i && !c.inDelay && s.missedHold k i)))

/-- The other contexts of the core that are ready now, with their issue counts and whether they are held (R133). One of a higher
index, which is still to present its bundle in this cycle, is not ready where that raises a trap or takes an event, nor where the
bundle is a first `k.yield` of its own (log 113). -/
def State.readyOthers (s : State) (k : Nat) : List Awaited :=
  ((coreCtxs (coreOf k)).filter (fun j => decide (j ≠ k) && s.ready j && !(decide (k < j) && s.diverts j))).map
    (fun j => { key := j, uid := (s.ctxAt j).uid, issued := (s.ctxAt j).issued, held := (s.ctxAt j).held.isSome })

end Sys2Proof.Machine
end

