-- ==== Sys2Proof/Machine/Shelf.lean ====
section
/-!
DEFINITION. Shelves: descriptors (spec/01_machine_state.md Table 01-6), the state, range and poison checks of an access
(spec/09_instr_scratchpad.md R184, spec/08_instr_vector.md R176) and the transitions (R190 to R193).
-/

namespace Sys2Proof.Machine

/-- A shelf check that fails: cause, the state found and the half (Table 17-3). -/
structure ShelfFail where
  cause : Nat
  state : Nat
  half : Nat
  deriving DecidableEq, Repr

/-- The descriptor as a word (Table 01-6); an undeclared shelf reads as 0 (R194). -/
def packShelf (d : Shelf) : Reg :=
  if d.len = 0 then 0
  else BitVec.ofNat 64 (d.base.toNat + d.len.toNat * 2 ^ 16 + d.dbl.toNat * 2 ^ 32 + d.fh.toNat * 2 ^ 33 +
    d.fs.code * 2 ^ 34 + d.bs.code * 2 ^ 36 + d.fp.toNat * 2 ^ 38 + d.bp.toNat * 2 ^ 39)

def shelfStateOf (n : Nat) : ShelfState :=
  match n with
  | 0 => .empty
  | 1 => .filling
  | 2 => .full
  | _ => .draining

/-- A descriptor from its word; length 0 is an undeclared shelf. Every field is taken as it stands, also states that a declared
shelf of an image would not have (log 101). -/
def unpackShelf (w : Reg) : Shelf :=
  let d : Shelf :=
    { base := w.setWidth 16, len := (w >>> 16).setWidth 16, dbl := w.getLsbD 32, fh := w.getLsbD 33
      fs := shelfStateOf (w.toNat / 2 ^ 34 % 4), bs := shelfStateOf (w.toNat / 2 ^ 36 % 4)
      fp := w.getLsbD 38, bp := w.getLsbD 39 }
  if d.len = 0 then {} else d

/-- State of the half that an access acts on; an undeclared shelf counts as EMPTY (R28). -/
def Shelf.stateAt (d : Shelf) (back : Bool) : ShelfState :=
  if d.len = 0 then .empty else if d.dbl && back then d.bs else d.fs

/-- Half field of Table 17-3: 1 only for the back half of a declared double shelf (R340). -/
def Shelf.halfAt (d : Shelf) (back : Bool) : Nat := if d.len != 0 && d.dbl && back then 1 else 0

/-- The physical half, 0 at base and 1 at base + len, that the logical half stands in. -/
def Shelf.physical (d : Shelf) (back : Bool) : Bool := if d.dbl then (d.fh != back) else false

def Shelf.poisonAt (d : Shelf) (back : Bool) : Bool := if d.dbl && back then d.bp else d.fp

def Shelf.setPoison (d : Shelf) (back : Bool) : Shelf := if d.dbl && back then { d with bp := true } else { d with fp := true }

/-- Pool address of byte `off` of a physical half. -/
def Context.halfAddr (c : Context) (d : Shelf) (half : Bool) (off : Nat) : Nat :=
  c.spBase + 64 * (d.base.toNat + half.toNat * d.len.toNat) + off

/-- Pool address of an access. -/
def Context.accessAddr (c : Context) (a : Access) (back : Bool) : Nat :=
  let d := c.shelf a.sh
  c.halfAddr d (d.physical back) a.off.toNat

/-- Range of an access in its half: offset, alignment and length (R184, R176). -/
def Shelf.inRange (d : Shelf) (a : Access) (align : Nat) : Bool :=
  decide (0 ≤ a.off) && a.off % align == 0 && decide (a.off + a.size ≤ (d.len.toNat * 64 : Nat))

/-- A read is allowed in FULL and DRAINING, a write in FILLING only (R28). -/
def readable (s : ShelfState) : Bool := s == .full || s == .draining

/-- Whether a run of pool bytes meets one of some pool words. -/
def badWords (l : List Nat) (addr n : Nat) : Bool := l.any (fun w => decide (8 * w < addr + n) && decide (addr < 8 * w + 8))

/-- Whether the pool bytes of an access hold an uncorrectable error (spec/18_integrity_repair.md R354). -/
def State.poolError (s : State) (k addr n : Nat) : Bool := badWords (s.coreAt (coreOf k)).poolBad addr n

/-- A context changes a descriptor: the change is marked for R35 step 3. -/
def State.changeShelf (s : State) (k sh : Nat) (d : Shelf) : State :=
  s.modCtx k (fun c => { c.setShelf sh d with changed := c.changed ||| BitVec.ofNat 64 (2 ^ sh) })

/-- A read of pool bytes counts each 8 bytes whose error the code corrects, which stays stored until they are written
(spec/18_integrity_repair.md R354, log 28). -/
def State.countPool (s : State) (k addr n : Nat) : State :=
  let hit := ((s.coreAt (coreOf k)).poolSoft.filter (fun w => decide (8 * w < addr + n) && decide (addr < 8 * w + 8))).length
  if hit = 0 then s else s.modCore (coreOf k) (fun c => { c with corrected := c.corrected + hit })

/-- The bytes of an access are read: whether its half is poisoned, which an uncorrectable pool error sets first (R354); the flag
of an EMPTY half, which a read-out may still read (R192), stays clear (spec/01_machine_state.md R30, log 28). -/
def State.readPoison (s : State) (k : Nat) (a : Access) (back : Bool) : State × Bool :=
  let c := s.ctxAt k
  let d := c.shelf a.sh
  let bad := s.poolError k (c.accessAddr a back) a.size
  let s' := s.countPool k (c.accessAddr a back) a.size
  (if bad && !d.poisonAt back && d.stateAt back != .empty then s'.changeShelf k a.sh (d.setPoison back) else s', bad || d.poisonAt back)

/-- Check a read of a half for its range, then for poison. -/
def State.readBytes (s : State) (k : Nat) (a : Access) (align : Nat) (back : Bool) : State × Option ShelfFail :=
  let d := (s.ctxAt k).shelf a.sh
  if !d.inRange a align then (s, some ⟨0x06, (d.stateAt back).code, d.halfAt back⟩)
  else
    let r := s.readPoison k a back
    (r.1, if r.2 then some ⟨0x07, (d.stateAt back).code, d.halfAt back⟩ else none)

/-- Check a read of a half: state, range, then poison. -/
def State.readHalf (s : State) (k : Nat) (a : Access) (align : Nat) (back : Bool) : State × Option ShelfFail :=
  let d := (s.ctxAt k).shelf a.sh
  if !readable (d.stateAt back) then (s, some ⟨0x05, (d.stateAt back).code, d.halfAt back⟩) else s.readBytes k a align back

/-- A read goes to the front half (R28). -/
def State.readCheck (s : State) (k : Nat) (a : Access) (align : Nat) : State × Option ShelfFail := s.readHalf k a align false

/-- A later read of a read-out with release flag goes to the physical half that it named. When an `l.rel` has let go of that half
in the meantime (`freed`), the read sees its bytes whatever its state (spec/09_instr_scratchpad.md R192); range and poison are
tested as before. -/
def State.readNamed (s : State) (k : Nat) (a : Access) (align : Nat) (half freed : Bool) : State × Option ShelfFail :=
  let back := ((s.ctxAt k).shelf a.sh).physical false != half
  if freed then s.readBytes k a align back else s.readHalf k a align back

/-- The bytes of an access to a physical half. -/
def State.namedBytes (s : State) (k : Nat) (a : Access) (half : Bool) : List Byte :=
  let c := s.ctxAt k
  s.poolRead (coreOf k) (c.halfAddr (c.shelf a.sh) half a.off.toNat) a.size

/-- Check a write of the back half: state, then range. -/
def State.writeCheck (s : State) (k : Nat) (a : Access) (align : Nat) : Option ShelfFail :=
  let d := (s.ctxAt k).shelf a.sh
  if d.stateAt true != .filling then some ⟨0x05, (d.stateAt true).code, d.halfAt true⟩
  else if !d.inRange a align then some ⟨0x06, (d.stateAt true).code, d.halfAt true⟩
  else none

/-- The bytes of an access to the front half. -/
def State.shelfBytes (s : State) (k : Nat) (a : Access) : List Byte :=
  s.poolRead (coreOf k) ((s.ctxAt k).accessAddr a false) a.size

/-- Write bytes of the back half. -/
def State.shelfStore (s : State) (k : Nat) (a : Access) (bs : List Byte) : State :=
  s.poolWrite (coreOf k) ((s.ctxAt k).accessAddr a true) bs

/-- `$tinfo` of a failed access: access 0 read, 1 write (Table 17-3). -/
def ShelfFail.info (f : ShelfFail) (sh access unit lf burst : Nat) (off : Int) : Reg :=
  infoShelf sh f.state f.half access unit lf burst (off % 2 ^ 26).toNat

/-! ### Transitions -/

/-- A publish of a double shelf: the halves change places (R28, R191). -/
def Shelf.swap (d : Shelf) : Shelf :=
  { d with
    fh := !d.fh
    fs := .full
    bs := if d.fs == .draining then .draining else .empty
    fp := d.bp
    bp := if d.fs == .draining then d.fp else false }

/-- A read-out with release flag completes: the physical half it named becomes EMPTY if it is DRAINING (R191, R192). -/
def Shelf.releaseHalf (d : Shelf) (half : Bool) : Shelf :=
  if d.physical false == half then (if d.fs == .draining then { d with fs := .empty, fp := false } else d)
  else if d.dbl && d.bs == .draining then { d with bs := .empty, bp := false } else d

/-- One transition of a declared or undeclared shelf, or the failure it reports (Table 09-2, R190, R191). -/
def Shelf.step (d : Shelf) (t : Trans) : Except ShelfFail Shelf :=
  let bad := fun (back : Bool) => Except.error ⟨0x05, (d.stateAt back).code, d.halfAt back⟩
  let on := d.len != 0
  match t with
  | .claim =>
    if on && d.stateAt true == .empty then
      .ok (if d.dbl then { d with bs := .filling } else { d with fs := .filling })
    else bad true
  | .pub =>
    if on && d.stateAt true == .filling then .ok (if d.dbl then d.swap else { d with fs := .full })
    else bad true
  | .drain => if on && d.stateAt false == .full then .ok { d with fs := .draining } else bad false
  | .rel => if on && readable (d.stateAt false) then .ok { d with fs := .empty, fp := false } else bad false
  | .relB =>
    if on && d.stateAt true == .filling then
      .ok (if d.dbl then { d with bs := .empty, bp := false } else { d with fs := .empty, fp := false })
    else bad true
  | .decl _ => .ok d
  | .readOut half => if on then .ok (d.releaseHalf half) else bad (d.physical false != half)

/-- Units of 64 bytes that a shelf occupies: its first and the one past its last. -/
def Shelf.span (d : Shelf) : Nat × Nat := (d.base.toNat, d.base.toNat + d.len.toNat * (1 + d.dbl.toNat))

/-- Whether a declared shelf lies in the region of `sg` granules and clear of the other declared shelves (R27). -/
def shelfFits (m : Store Shelf) (sg sh : Nat) (d : Shelf) : Bool :=
  decide (d.span.2 ≤ 1024 * sg) &&
    (List.range 64).all (fun i =>
      let e := sget ({} : Shelf) m i
      i == sh || e.len == 0 || decide (d.span.2 ≤ e.span.1) || decide (e.span.2 ≤ d.span.1))

/-- The descriptor that a declaration asks for (R193). -/
def declared (w : Reg) : Shelf :=
  let d : Shelf := { base := w.setWidth 16, len := (w >>> 16).setWidth 16, dbl := w.getLsbD 32 }
  if d.len = 0 then {} else d

/-- A declaration: every half EMPTY, then the range (R193). -/
def declareShelf (c : Context) (sh : Nat) (w : Reg) : Except ShelfFail Shelf :=
  let d := c.shelf sh
  if d.len != 0 && d.fs != .empty then .error ⟨0x05, d.fs.code, 0⟩
  else if d.len != 0 && d.dbl && d.bs != .empty then .error ⟨0x05, d.bs.code, 1⟩
  else
    let e := declared w
    if e.len = 0 || shelfFits c.shelves c.sg sh e then .ok e else .error ⟨0x06, 0, 0⟩

/-- A transition of shelf `sh` of a context. -/
def transition (c : Context) (sh : Nat) (t : Trans) : Except ShelfFail Shelf :=
  match t with
  | .decl w => declareShelf c sh w
  | t => (c.shelf sh).step t

/-- Access code of a transition in Table 17-3. -/
def transAccess : Trans → Nat
  | .decl _ => 3
  | _ => 2

/-- The descriptor as it was before any transition of the cycle, which untimed accesses of the cycle see too (R29). -/
def State.seen (s : State) (k sh : Nat) : Shelf :=
  match (s.ctxAt k).was.find? (fun e => e.1 == s.now && e.2.1 == sh) with
  | some e => e.2.2
  | none => (s.ctxAt k).shelf sh

/-- A transition keeps the descriptor that its cycle began with. -/
def State.keepSeen (s : State) (k sh : Nat) : State :=
  let e := (s.now, sh, s.seen k sh)
  s.modCtx k (fun c => { c with was := c.was.filter (fun x => x.1 == s.now && x.2.1 != sh) ++ [e] })

/-- The cycle that an event of this cycle has by the turns of its core, of which the frozen cycles are none: the same for the
events that would share a cycle without a freeze (spec/16_scheduling.md R330). -/
def State.turnTime (s : State) (o : Origin) : Nat := s.now - o.lag

/-- A timed transition that a freeze brings forward, counted in turns, keeps the descriptor that samples of earlier turns still see;
those that no sample can see any more are dropped (spec/16_scheduling.md R330, log 130). -/
def State.keepOlder (s : State) (o : Origin) (sh : Nat) : State :=
  let lag := (s.coreAt (coreOf o.ctx)).lag
  s.modCtx o.ctx (fun c => { c with
    older := if lag = o.lag then c.older
      else c.older.filter (fun e => decide (s.now - lag ≤ e.1)) ++ [(s.turnTime o, sh, s.seen o.ctx sh)] })

/-- The descriptor as a sample of an earlier issue sees it: before every transition of its own turn's cycle or a later one
(R29; spec/16_scheduling.md R330). -/
def State.seenBy (s : State) (o : Origin) (sh : Nat) : Shelf :=
  match (s.ctxAt o.ctx).older.find? (fun e => e.2.1 == sh && decide (s.turnTime o ≤ e.1)) with
  | some e => e.2.2
  | none => s.seen o.ctx sh

/-- A timed transition applies in its cycle or is a deferred trap (R29, R190). -/
def State.timedTransition (s : State) (o : Origin) (sub : Nat) (sh : Nat) (t : Trans) : State :=
  match transition (s.ctxAt o.ctx) sh t with
  | .ok d =>
    if d = (s.ctxAt o.ctx).shelf sh then s else ((s.keepOlder o sh).keepSeen o.ctx sh).changeShelf o.ctx sh d
  | .error f => s.fault o sub f.cause (f.info sh (transAccess t) o.unit 0 0 0)

/-- An untimed transition, or none where it is a fault (R29, R190). -/
def State.untimedTransition (s : State) (k sh : Nat) (t : Trans) (own : Bool) : Option State :=
  match transition (s.ctxAt k) sh t with
  | .ok d =>
    if d = (s.ctxAt k).shelf sh then some s
    else
      let s := s.keepSeen k sh
      some (if own then s.changeShelf k sh d else s.modCtx k (fun c => c.setShelf sh d))
  | .error _ => none

/-! ### The row SHELF_TRANSITION_APPLY -/

/-- The cycle of a publish of a shelf, with the one before it. -/
def Context.publish (c : Context) (sh now : Nat) : Context :=
  let p := sget (0, 0) c.published sh
  { c with published := sset (0, 0) c.published sh (if p.1 = now then p else (now, p.1)) }

/-- The last cycle before this one in which an `l.pub` of a shelf applied, 0 where none did. -/
def Context.publishedBefore (c : Context) (sh now : Nat) : Nat :=
  let p := sget (0, 0) c.published sh
  if p.1 < now then p.1 else p.2

/-- An `l.pub` that applies is remembered with its cycle: loans that were under way then write no more in later cycles
(spec/13_memory_model.md R287). A publish by `d.rd.last` or `m.drain` with `.pub` counts as one (log 118). -/
def State.notePublish (s : State) (k sh : Nat) (tr : Trans) : State :=
  if tr = .pub && ((s.ctxAt k).shelf sh).stateAt true == .filling then
    s.modCtx k (fun c => c.publish sh s.now)
  else s

/-- A burst still to sample belongs to a read-out that named a half which an `l.rel` lets go (R192). -/
def Due.letGo (k sh : Nat) (half : Bool) (d : Due) : Due :=
  match d.ev with
  | .op (.writeBurstSample o j b) =>
    if o.ctx = k ∧ b.acc.sh = sh ∧ b.named ∧ b.half = half then { d with ev := .op (.writeBurstSample o j { b with freed := true }) }
    else d
  | _ => d

/-- Whether a loan is a read-out with release flag that has named a half of a context's shelf: in its sample, or when it began to
read (R192; log 118). -/
def Loan.namesHalf (l : Loan) (k sh : Nat) (half : Bool) : Bool :=
  l.owner == .context k && recRel l.raw && addrKind (recSrc l.raw) == 0 && wordShelf (recSrc l.raw) == sh &&
    (if l.left.isSome then l.half == half else l.fronts.any (fun f => f.sh == sh && f.d.physical false == half))

/-- An `l.rel` that applies lets go of the front half: a read-out of it under way reads on whatever its state becomes, and its end
causes no transition (R192). -/
def State.noteRelease (s : State) (k sh : Nat) (tr : Trans) : State :=
  let d := (s.ctxAt k).shelf sh
  if tr = .rel && readable (d.stateAt false) then
    { s with
      agenda := s.agenda.map (Due.letGo k sh (d.physical false))
      loans := s.loans.map (fun l => if l.namesHalf k sh (d.physical false) then { l with freed := true } else l) }
  else s

/-- A requested timed shelf transition applies at t+2, or traps (R190). -/
def execShelfTransitionApply (o : Origin) (sh : Nat) (tr : Trans) (s : State) : Out :=
  .next ((((s.notePublish o.ctx sh tr).noteRelease o.ctx sh tr).timedTransition o 0 sh tr).touch o.ctx)

end Sys2Proof.Machine
end

