-- ==== Sys2Proof/Machine/Scratchpad.lean ====
section
/-!
DEFINITION. The L slots (spec/09_instr_scratchpad.md) and their samples and performs.
-/

namespace Sys2Proof.Machine

/-- Unit class of L. -/
def unitL : Nat := 4

/-- A loaded value of `n` bytes, zero- or sign-extended (R185). -/
def extend (x : Bool) (bs : List Byte) : Reg :=
  let v := leNat bs
  let n := 8 * bs.length
  if x && decide (2 ^ (n - 1) ≤ v) then BitVec.ofInt 64 ((v : Int) - (2 ^ n : Nat)) else BitVec.ofNat 64 v

/-- A load: the address registers, then the sample at t+2 (R184 to R186). -/
def loadSlot (s : State) (g : Guard) (regs : List Nat) (acc : Context → Access) (d : BitVec 5) (x spec : Bool) : Out :=
  whenGuard s g (fun s =>
    match regs.find? (fun i => s.me.poisonL i) with
    | some i => s.poisoned unitL i
    | none => s.emit 2 rankSample (.op (.scalarLoadSample (s.here unitL) (acc s.me) d.toNat x spec)))

/-- A store: address and data registers, then the perform at t+2 (R184, R187). -/
def storeSlot (s : State) (g : Guard) (regs : List Nat) (acc : Context → Access) (v : BitVec 5) : Out :=
  whenGuard s g (fun s =>
    match regs.find? (fun i => s.me.poisonL i) with
    | some i => s.poisoned unitL i
    | none => s.emit 2 (rankPerform unitL) (.op (.scalarStorePerform (s.here unitL) (acc s.me) (s.me.regL v.toNat))))

/-- A requested transition, applied at t+2 (R190). -/
def shelfSlot (s : State) (g : Guard) (sh : BitVec 6) (t : Trans) : Out :=
  whenGuard s g (fun s => s.emit 2 (rankShelf unitL) (.op (.shelfTransitionApply (s.here unitL) sh.toNat t)))

/-- A copy into l, readable from t+2, not poisoned (R189). -/
def copySlotL (s : State) (g : Guard) (d : BitVec 5) (v : Context → Reg) : Out :=
  whenGuard s g (fun s => s.land unitL 2 (.l d.toNat (v s.me) false))

/-- `l.nop` (R53). -/
def execLNop (s : State) : Out := .next s

def execLLd (g : Guard) (d r : BitVec 5) (sz : BitVec 2) (x : Bool) (off : BitVec 6) (s : State) : Out :=
  loadSlot s g [r.toNat] (fun c => scalarAccess (c.regL r.toNat) (dispImm off sz) sz.toNat) d x false

def execLSt (g : Guard) (v r : BitVec 5) (sz : BitVec 2) (off : BitVec 6) (s : State) : Out :=
  storeSlot s g [r.toNat, v.toNat] (fun c => scalarAccess (c.regL r.toNat) (dispImm off sz) sz.toNat) v

def execLLdx (g : Guard) (d r t : BitVec 5) (sz : BitVec 2) (x sc : Bool) (s : State) : Out :=
  loadSlot s g [r.toNat, t.toNat]
    (fun c => scalarAccess (c.regL r.toNat) (dispReg (c.regL t.toNat) sz sc) sz.toNat) d x false

def execLStx (g : Guard) (v r t : BitVec 5) (sz : BitVec 2) (sc : Bool) (s : State) : Out :=
  storeSlot s g [r.toNat, t.toNat, v.toNat]
    (fun c => scalarAccess (c.regL r.toNat) (dispReg (c.regL t.toNat) sz sc) sz.toNat) v

/-- `l.ld.s`: a failure of the shelf checks poisons the destination (R186). -/
def execLLdS (g : Guard) (d r : BitVec 5) (sz : BitVec 2) (x : Bool) (off : BitVec 6) (s : State) : Out :=
  loadSlot s g [r.toNat] (fun c => scalarAccess (c.regL r.toNat) (dispImm off sz) sz.toNat) d x true

/-- Address arithmetic propagates poison and never traps (R188). -/
def execLAdd (g : Guard) (d r t : BitVec 5) (s : State) : Out :=
  whenGuard s g (fun s => s.land unitL 1
    (.l d.toNat (s.me.regL r.toNat + s.me.regL t.toNat) (s.me.poisonL r.toNat || s.me.poisonL t.toNat)))

def execLAddImm (g : Guard) (d r : BitVec 5) (imm : BitVec 7) (s : State) : Out :=
  whenGuard s g (fun s => s.land unitL 1 (.l d.toNat (s.me.regL r.toNat + sext imm) (s.me.poisonL r.toNat)))

def execLAddImm64 (g : Guard) (d r : BitVec 5) (imm : BitVec 7) (s : State) : Out :=
  whenGuard s g (fun s => s.land unitL 1 (.l d.toNat (s.me.regL r.toNat + 64 * sext imm) (s.me.poisonL r.toNat)))

def execLClaim (g : Guard) (sh : BitVec 6) (s : State) : Out := shelfSlot s g sh .claim

/-- `l.claim.decl`: privileged whether or not its guard passes (R183); a poisoned descriptor register traps (R193). -/
def execLClaimDecl (g : Guard) (r : BitVec 5) (sh : BitVec 6) (s : State) : Out :=
  whenPriv s (fun s => whenGuard s g (fun s =>
    if s.me.poisonL r.toNat then s.poisoned unitL r.toNat
    else s.emit 2 (rankShelf unitL)
      (.op (.shelfTransitionApply (s.here unitL) sh.toNat (.decl (s.me.regL r.toNat))))))

def execLPub (g : Guard) (sh : BitVec 6) (s : State) : Out := shelfSlot s g sh .pub

def execLDrain (g : Guard) (sh : BitVec 6) (s : State) : Out := shelfSlot s g sh .drain

def execLRel (g : Guard) (sh : BitVec 6) (s : State) : Out := shelfSlot s g sh .rel

def execLRelB (g : Guard) (sh : BitVec 6) (s : State) : Out := shelfSlot s g sh .relB

/-- `l.sst` samples the descriptor at t+2 (R194). -/
def execLSst (g : Guard) (d : BitVec 5) (sh : BitVec 6) (s : State) : Out :=
  whenGuard s g (fun s => s.emit 2 rankSample (.micro (.sstSample (s.here unitL) d.toNat sh.toNat)))

def execLGetA (g : Guard) (d r : BitVec 5) (s : State) : Out := copySlotL s g d (fun c => c.regA r.toNat)

def execLGetB (g : Guard) (d r : BitVec 5) (s : State) : Out := copySlotL s g d (fun c => c.regB r.toNat)

def execLGetN (g : Guard) (d : BitVec 5) (r : BitVec 4) (s : State) : Out := copySlotL s g d (fun c => c.regN r.toNat)

def execLGetD (g : Guard) (d : BitVec 5) (r : BitVec 4) (s : State) : Out := copySlotL s g d (fun c => c.regD r.toNat)

/-! ### Samples and performs -/

/-- The descriptor sample of `l.sst`, readable two cycles later (R194). -/
def State.sstSample (s : State) (o : Origin) (d sh : Nat) : State :=
  (s.after 2 rankLand (.op (.resultLanding o (.l d (packShelf (s.seenBy o sh)) false)))).touch o.ctx

/-- SCALAR_LOAD_SAMPLE: the checks, the bytes, the write readable from t+4 (R184 to R186). -/
def execScalarLoadSample (o : Origin) (acc : Access) (d : Nat) (x spec : Bool) (s : State) : Out :=
  let r := s.readCheck o.ctx acc acc.size
  .next (match r.2 with
    | none =>
      (r.1.after 2 rankLand (.op (.resultLanding o (.l d (extend x (r.1.shelfBytes o.ctx acc)) false)))).touch o.ctx
    | some f =>
      if spec then (r.1.after 2 rankLand (.op (.resultLanding o (.l d 0 true)))).touch o.ctx
      else (r.1.fault o 0 f.cause (f.info acc.sh 0 unitL 0 0 acc.off)).touch o.ctx)

/-- SCALAR_STORE_PERFORM: the checks, then the bytes (R187). -/
def execScalarStorePerform (o : Origin) (acc : Access) (v : Reg) (s : State) : Out :=
  .next (match s.writeCheck o.ctx acc acc.size with
    | none => (s.shelfStore o.ctx acc (leBytes acc.size v.toNat)).touch o.ctx
    | some f => (s.fault o 0 f.cause (f.info acc.sh 1 unitL 0 0 acc.off)).touch o.ctx)

/-- RESULT_LANDING: a register, predicate or mask write becomes readable (R9, R56). -/
def execResultLanding (o : Origin) (w : Write) (s : State) : Out := .next (s.applyWrite o.ctx w)

end Sys2Proof.Machine
end

