-- ==== Sys2Proof/Machine/Control.lean ====
section
/-!
DEFINITION. The K slots (spec/06_instr_control.md): transfers, loops, the quiet bundle, the re-timing points, barriers,
spawns, traps and the privileged controls.
-/

namespace Sys2Proof.Machine

/-- Unit class of K. -/
def unitK : Nat := 0

/-- The present bundle takes a transfer to an address (R63). -/
def State.goTo (s : State) (pc : Word) : State := { s with cur := { s.cur with xfer := .to pc } }

/-- The bundle does not issue in this cycle: it is held or waits (R126). -/
def State.closeBundle (s : State) : State := { s with cur := {} }

/-- A bundle in a delay position of a taken transfer traps if it holds a quiet or re-timing form (R64). -/
def notInDelay (s : State) (f : State → State) : Out :=
  .next (if s.me.inDelay then s.issueTrap 0x04 (infoTiming 5 s.slotNo 0) else f s)

/-! ### Events (spec/17_traps_preemption.md R345, R348) -/

/-- The context leaves for its save area (R348): cause 0x21, or 0x23 for a repair move. What it was told of earlier repairs has no
part in this one (R418). -/
def Context.startSave (c : Context) (cause : Nat) : Context :=
  { c with stage := .saving, saveCause := cause, held := none, xfers := [.no, .no, .no], afterRepair := none }

/-- Take the first pending event at a bundle: repair, pre-emption, refresh-rate change, host interrupt (R345, R351). A save's
format writes come into force with the save (R65). -/
def State.takeEvent (s : State) (k : Nat) (pc : Word) : Option State :=
  let e := (s.ctxAt k).ev
  match e.repair with
  | some _ =>
    some (s.modCtx k (fun c =>
      { c.startSave 0x23 with
        ev := { e with repair := none, repairMore := false }
        afterRepair := some (e.repair.getD 0, e.repairMore) }))
  | none =>
    if e.preempt then
      some (s.modCtx k (fun c =>
        { c.startSave 0x21 with ev := { e with preempt := false, preemptMore := false } }))
    else
      match e.refresh with
      | some v =>
        some ((s.modCtx k (fun c => { c with ev := { e with refresh := none, refreshMore := false } })).raiseTrap
          k 0x22 false pc v e.refreshMore)
      | none =>
        match e.host with
        | some v =>
          some ((s.modCtx k (fun c => { c with ev := { e with host := none, hostMore := false } })).raiseTrap
            k 0x20 false pc (v.setWidth 64) e.hostMore)
        | none => none

/-! ### Transfers (R118 to R120) -/

/-- `k.nop` (R53). -/
def execKNop (s : State) : Out := .next s

/-- `k.trap n` raises its cause precisely (R134). -/
def execKTrap (n : BitVec 8) (s : State) : Out := .next (s.issueTrap 0x15 (n.setWidth 64))

/-- `k.br` (R118). -/
def execKBr (g : Guard) (off : BitVec 19) (s : State) : Out := whenGuard s g (fun s => s.goTo (s.target off))

/-- `k.call`: the link value is the address after the third bundle sequentially after the call (R118). -/
def execKCall (g : Guard) (off : BitVec 19) (s : State) : Out :=
  whenGuard s g (fun s =>
    let c := s.me
    let l := c.after (c.after (c.after s.nextPc))
    (s.land unitK 1 (.spec 0x00A (l.setWidth 64))).goTo (s.target off))

/-- `k.jr` (R119). -/
def execKJr (g : Guard) (r : BitVec 5) (off : BitVec 14) (s : State) : Out :=
  whenGuard s g (fun s => s.goTo (jumpTarget (s.me.regA r.toNat) off))

/-- `k.ret` (R119). -/
def execKRet (g : Guard) (s : State) : Out := whenGuard s g (fun s => s.goTo (alignPc s.me.lk))

/-- `k.chk` transfers when a selected l register is poisoned (R120). -/
def execKChk (grp : BitVec 3) (m : BitVec 4) (off : BitVec 12) (s : State) : Out :=
  .next (if (List.range 4).any (fun i => m.getLsbD i && s.me.poisonL (4 * grp.toNat + i)) then s.goTo (s.target off)
    else s)

/-! ### Loops (R121 to R124) -/

/-- Start a loop: the tests in the order of R121 and R124, then the entry to push. -/
def startLoop (s : State) (count : Word) (e : BitVec 11) (rot vrot : Bool) : State :=
  let stop := s.loopEnd e
  if stop.toNat < s.nextPc.toNat then s.refuse7 1
  else if count = 0 then s.goTo (s.me.after stop)
  else if vrot && decide (s.me.vg < 8) then s.refuse7 2
  else if 6 ≤ s.me.loops.length then s.issueTrap 0x11 (BitVec.ofNat 64 s.me.loops.length)
  else { s with cur := { s.cur with
    push := some { count := count, index := 0, start := s.nextPc, stop := stop, rot := rot, vrot := vrot }
    rot := if rot then some vrot else none } }

def execKLoop (cnt : BitVec 8) (e : BitVec 11) (s : State) : Out :=
  .next (startLoop s (cnt.setWidth 32) e false false)

def execKLoopReg (r : BitVec 5) (e : BitVec 11) (s : State) : Out :=
  .next (startLoop s ((s.me.regA r.toNat).setWidth 32) e false false)

def execKRot (v : Bool) (cnt : BitVec 6) (e : BitVec 11) (s : State) : Out :=
  .next (startLoop s (cnt.setWidth 32) e true v)

def execKRotReg (v : Bool) (r : BitVec 5) (e : BitVec 11) (s : State) : Out :=
  .next (startLoop s ((s.me.regA r.toNat).setWidth 32) e true v)

/-- `k.brk` pops the innermost loop and transfers past its end bundle (R123); the innermost entry is the first. -/
def execKBrk (g : Guard) (s : State) : Out :=
  whenGuard s g (fun s =>
    match s.me.loops with
    | [] => s.issueTrap 0x12 0
    | l :: _ => { s with cur := { s.cur with brk := true, xfer := .to (s.me.after l.stop) } })

/-! ### The launch pool (R131, R132) -/

/-- Occupied entries of a die's launch pool. -/
def State.poolOf (s : State) (die : Nat) : List PoolEntry := sget [] s.lpool die

def launchPoolSize : Nat := 64

/-- Cancel the reserved entries of a context (R132); one that is released stays released (log 112). -/
def State.cancelReserved (s : State) (k : Nat) : State :=
  let die := dieOf (coreOf k)
  let l := (s.poolOf die).filter (fun e => e.released || decide (e.ctx ≠ k))
  { s with lpool := sset [] s.lpool die l }.modCtx k (fun c => { c with reserved := [] })

/-- Release the reserved entries in the order they were reserved (R132). -/
def State.releaseReserved (s : State) (k : Nat) : State :=
  let die := dieOf (coreOf k)
  let l := (s.poolOf die).map (fun e => if e.ctx = k then { e with released := true } else e)
  let t := { s with lpool := sset [] s.lpool die l }.modCtx k (fun c => { c with reserved := [] })
  if (s.ctxAt k).reserved.isEmpty then t else t.post ⟨s.now, rankUntimed, .op (.childPlacement die)⟩

/-! ### The quiet bundle (R34, R67, R125) -/

/-- A quiet bundle that passes its check: with a pending event the reserved entries are released, the record is taken and the
event with it; otherwise the bundle goes on and both happen when it commits. -/
def quietPasses (s : State) : State :=
  if s.me.sup then { s with cur := { s.cur with quiet := true } }
  else
    let k := s.cur.ctx
    let s0 := s.releaseReserved k
    let s1 := if s.me.reissue then s0.modCtx k (fun c => { c with reissue := false }) else s0.record k s.cur.pc
    match s1.takeEvent k s.cur.pc with
    | some s2 => { s2 with cur := {} }
    | none => { s with cur := { s.cur with quiet := true } }

/-- `k.quiet`: in exposed mode a pending result traps, in interlocked mode the bundle waits (R34, R41). -/
def execKQuiet (s : State) : Out :=
  notInDelay s (fun s =>
    if s.pending s.cur.ctx then
      if s.me.il then s.closeBundle
      else s.issueTrap 0x04 (infoTiming 4 s.slotNo (s.concAt (s.pendingUntil s.cur.ctx)))
    else quietPasses s)

/-! ### Re-timing points (R126 to R133) -/

/-- The bundle is held from its presentation on (R126). -/
def holdBundle (s : State) (h : Reg) (others : List Awaited) : State :=
  let k := s.cur.ctx
  (match s.me.held with
   | some _ => s
   | none => s.modCtx k (fun c => { c with held := some { t0 := s.conc, h := h, others := others, waits := true } })).closeBundle

/-- `k.hold`: issues in cycle H, traps when H has passed, is held before it (R127); in deterministic mode H is compared with
the retired-bundle count, and the bundle becomes number H. -/
def execKHold (r : BitVec 5) (s : State) : Out :=
  notInDelay s (fun s =>
    let h := s.me.holdTarget r
    if (s.coreAt (coreOf s.cur.ctx)).det then
      if h < s.me.retired then s.issueTrap 0x08 (BitVec.ofNat 64 h)
      else { s with cur := { s.cur with holdR := some h } }
    else if h < s.conc then s.issueTrap 0x08 (BitVec.ofNat 64 h)
    else if h = s.conc then s
    else holdBundle s (BitVec.ofNat 64 h) [])

/-- The lowest covered token that is FAULT (R128). -/
def Context.faultToken (c : Context) (m : BitVec 8) : Option Nat :=
  (List.range 8).find? (fun i => m.getLsbD i && (c.token i).st == .fault)

/-- `k.wait`: held while a covered token is BUSY; a FAULT token traps, otherwise the tokens become FREE (R128, R335). -/
def execKWait (m : BitVec 8) (s : State) : Out :=
  notInDelay s (fun s =>
    if s.me.busyToken m then holdBundle s 0 []
    else
      match s.me.faultToken m with
      | some i =>
        s.issueTrap (if (s.me.token i).status = 7 then 0x0E else 0x0D)
          (BitVec.ofNat 64 (i + (s.me.token i).status % 256 * 256))
      | none => { s with cur := { s.cur with freed := s.cur.freed ||| m } })

/-- `k.arrive`: performs at t+1; an unconfigured barrier is refused with its id (R129). -/
def execKArrive (b : BitVec 2) (bar : BitVec 8) (s : State) : Out :=
  .next (if (s.barrier (barKey s.cur.ctx bar.toNat)).expected = 0 then s.refuse7 bar.toNat
    else s.emit 1 rankLand (.micro (.barrierArrive (s.here unitK) b.toNat bar.toNat)))

/-- `k.bwait`: an invalid token, then an unconfigured barrier, are refused; held while the phase is unchanged (R130). -/
def execKBwait (b : BitVec 2) (s : State) : Out :=
  notInDelay s (fun s =>
    let bt := sget 0 s.me.bts b.toNat
    let id := bt.toNat % 256
    if !bt.getLsbD 16 then s.refuse7 b.toNat
    else if (s.barrier (barKey s.cur.ctx id)).expected = 0 then s.refuse7 id
    else if s.seenPhase (coreOf s.cur.ctx) (barKey s.cur.ctx id) = BitVec.ofNat 8 (bt.toNat / 256) then holdBundle s 0 []
    else s)

/-- `k.yield`: held until each context ready at t0 has issued, become held or ended (R133). -/
def execKYield (s : State) : Out :=
  notInDelay s (fun s =>
    let k := s.cur.ctx
    if (s.coreAt (coreOf k)).det then s
    else
      match s.me.held with
      | some h => if h.others.all s.yieldedTo then s else s.closeBundle
      | none =>
        match s.readyOthers k with
        | [] => s
        | o :: r => holdBundle s 0 (o :: r))

/-! ### Spawn, privileged controls (R131, R135 to R140) -/

/-- `k.spawn`: the record is read at t+1 (R131). -/
def execKSpawn (g : Guard) (pd : BitVec 4) (sh : BitVec 6) (idx : BitVec 9) (s : State) : Out :=
  whenGuard s g (fun s =>
    s.emit 1 rankLand (.micro (.spawnRead (s.here unitK) sh.toNat idx.toNat (s.me.physP pd.toNat))))

/-- `k.rti`: a taken transfer to the resumption from the quiet record (R135). -/
def execKRti (s : State) : Out := whenPriv s (fun s => .next { s with cur := { s.cur with xfer := .rti } })

/-- `k.msr`: the access rules of Table 01-3, then the write in force from t+1 (R136). -/
def execKMsr (r : BitVec 5) (num : BitVec 10) (s : State) : Out :=
  .next (if msrAllowed s.me.sup num.toNat then s.land unitK 1 (.spec num.toNat (s.me.regA r.toNat))
    else s.issueTrap 0x03 (infoPrivilege s.slotWord s.slotNo 1 num.toNat))

/-- The special registers that the quiet record holds (R137). -/
def inRecord (num : Nat) : Bool :=
  (decide (8 ≤ num) && decide (num ≤ 0xD)) || (decide (0x20 ≤ num) && decide (num ≤ 0x2F))

/-- Whether a tolerance entry is valid: tau and eps are finite and not negative
(spec/10_instr_matrix.md Table 10-3, R199). -/
def tolValid (v : Reg) : Bool :=
  let part := fun (w : Nat) => decide (w / 2 ^ 23 < 0xFF)
  part (v.toNat % 2 ^ 32) && part (v.toNat / 2 ^ 32)

/-- `k.mrs` writes the record's copy; other registers, invalid format words and invalid tolerances are refused (R137). -/
def execKMrs (r : BitVec 5) (num : BitVec 10) (s : State) : Out :=
  whenPriv s (fun s => .next (
    let n := num.toNat
    let v := s.me.regA r.toNat
    if !inRecord n then s.refuse7 n
    else if 0xB ≤ n && n ≤ 0xD && formatInvalid (v.toNat % 2 ^ 32) then s.illegal { why := 6 }
    else if 0x20 ≤ n && !tolValid v then s.refuse7 6
    else s.land unitK 1 (.record n v)))

/-- `k.inval`: a token that is not FREE is refused; BUSY from t+1 (R138). -/
def invalSlot (s : State) (tk : BitVec 3) (va : Option Nat) : State :=
  if (s.me.token tk.toNat).st ≠ .free then s.refuse7 tk.toNat
  else s.emit 1 rankLand (.micro (.invalStart (s.here unitK) tk.toNat va))

def execKInval (r : BitVec 5) (tk : BitVec 3) (s : State) : Out :=
  whenPriv s (fun s => .next (invalSlot s tk (some ((s.me.regA r.toNat).toNat % 2 ^ 48))))

def execKInvalAll (tk : BitVec 3) (s : State) : Out := whenPriv s (fun s => .next (invalSlot s tk none))

/-- `k.halt` ends the context after its bundle (R139). -/
def execKHalt (s : State) : Out := whenPriv s (fun s => .next { s with cur := { s.cur with halt := true } })

/-- `k.mode` (R42, R140). -/
def execKMode (il : Bool) (s : State) : Out :=
  whenPriv s (fun s => .next (
    if s.pending s.cur.ctx then
      s.issueTrap 0x04 (infoTiming 6 s.slotNo (s.concAt (s.pendingUntil s.cur.ctx)))
    else { s with cur := { s.cur with il := some il } }))

/-! ### What the K slots cause later -/

/-- One arrival at a barrier: the phase before it, then the count and perhaps the phase advance (R129). -/
def Barrier.arrive (b : Barrier) (now : Nat) : Barrier :=
  let prev := if b.at_ = now then b.prev else b.phase
  if b.arrivals + 1 = b.expected then
    { b with arrivals := 0, phase := b.phase + 1, prev := prev, at_ := now }
  else { b with arrivals := b.arrivals + 1, prev := prev, at_ := now }

/-- The arrival of a `k.arrive` at t+1 with its token (R129). -/
def State.barrierArrive (s : State) (o : Origin) (bt bar : Nat) : State :=
  let key := barKey o.ctx bar
  let b := s.barrier key
  let v := BitVec.ofNat 17 (bar + 256 * b.phase.toNat + 65536)
  { s with bars := sset {} s.bars key (b.arrive s.now) }.applyWrite o.ctx (.barrierToken bt v)

/-- The record read of a `k.spawn` at t+1: the shelf checks, then a free entry is reserved (R131). -/
def State.spawnRead (s : State) (o : Origin) (sh idx pd : Nat) : State :=
  let acc : Access := { sh := sh, off := (64 * idx : Nat), size := 64 }
  let r := s.readCheck o.ctx acc 64
  match r.2 with
  | some f => r.1.fault o 0 f.cause (f.info sh 0 unitK 0 0 acc.off)
  | none =>
    let s := r.1
    let die := dieOf (coreOf o.ctx)
    let c := s.ctxAt o.ctx
    if launchPoolSize ≤ (s.poolOf die).length then s.applyWrite o.ctx (.pred pd false)
    else
      let e : PoolEntry :=
        { id := s.nextId, raw := BitVec.ofNat 512 (leNat (s.shelfBytes o.ctx acc)), ctx := o.ctx, launch := c.launch,
          part := c.part, released := false, order := s.nextId }
      ({ s with lpool := sset [] s.lpool die (s.poolOf die ++ [e]), nextId := s.nextId + 1 }.modCtx o.ctx
        (fun c => { c with reserved := c.reserved ++ [e.id] })).applyWrite o.ctx (.pred pd true)

end Sys2Proof.Machine
end

