-- ==== Sys2Proof/Machine/Folio.lean ====
section
/-!
DEFINITION. Folios (spec/13_memory_model.md R271 to R274), margins (spec/18_integrity_repair.md R352), the tests of sums
against margins (spec/10_instr_matrix.md R209) and the conversion of a row with its check (R211).
-/

namespace Sys2Proof.Machine

/-! ### Layout (R273) -/

/-- 1 for an MX or BBF word. -/
def blockBit (fw : Nat) : Nat := if isBlock fw then 1 else 0

def folioSize (fw : Nat) : Nat := 1152 + 2048 * elemBits fw + 512 * blockBit fw

/-- Offset of the codes of folio row `r`: 128 codes, a whole number of bytes. -/
def rowOff (fw r : Nat) : Nat := 64 + 16 * elemBits fw * r

def scaleOff (fw line : Nat) : Nat := 64 + 2048 * elemBits fw + 4 * line

def marginOff (fw k : Nat) : Nat := 64 + 2048 * elemBits fw + 512 * blockBit fw + 4 * k

/-- The fields of a folio header that its readers use (Table 13-2). -/
structure Header where
  code : Nat
  rows : Nat
  cols : Nat
  mr : Bool
  mc : Bool
  deriving DecidableEq, Repr

def headerOf (bs : List Byte) : Header :=
  let h := leNat (bs.take 8)
  { code := h % 32, rows := h / 2 ^ 32 % 256, cols := h / 2 ^ 40 % 256, mr := h.testBit 48, mc := h.testBit 49 }

/-- Whether a reader under `fw` accepts the header (R272). -/
def Header.ok (h : Header) (fw : Nat) : Bool :=
  h.code == fwCode fw && decide (1 ≤ h.rows) && decide (h.rows ≤ 128) && decide (1 ≤ h.cols) && decide (h.cols ≤ 128)

/-- The 64 header bytes that a drain writes (R211, R272). -/
def headerBytes (fw rows cols : Nat) : List Byte :=
  leBytes 64 (fw % 2 ^ 17 + rows * 2 ^ 32 + cols * 2 ^ 40 + 2 ^ 48 + 2 ^ 49 + (if isInt fw then 2 ^ 50 else 0))

/-- Codes of a folio row at a pool address. -/
def State.folioRow (s : State) (core addr fw r : Nat) : List Nat :=
  codesOf (elemBits fw) 128 (leNat (s.poolRead core (addr + rowOff fw r) (16 * elemBits fw)))

/-- Little-endian words of `b` bytes. -/
def wordsOf (b : Nat) : Nat → List Byte → List Nat
  | 0, _ => []
  | n + 1, bs => leNat (bs.take b) :: wordsOf b n (bs.drop b)

/-- Scale codes of a line: four for a block format, else none that matter. -/
def State.folioScales (s : State) (core addr fw line : Nat) : List Nat :=
  if isBlock fw then wordsOf 1 4 (s.poolRead core (addr + scaleOff fw line) 4) else [0x7F, 0x7F, 0x7F, 0x7F]

/-- `n` margin words from number `k` on. -/
def State.folioMargins (s : State) (core addr fw k n : Nat) : List Nat :=
  wordsOf 4 n (s.poolRead core (addr + marginOff fw k) (4 * n))

/-! ### Lists of exact values -/

/-- The element values of one line under its scales. -/
def lineVals (fw : Nat) (codes scales : List Nat) : List Num :=
  List.zipWith (fun c k => elemVal fw c (scales.getD (k / 32) 0)) codes (List.range codes.length)

/-- Columns of a list of rows of equal length `n`. -/
def transposed {α : Type} (d : α) (n : Nat) (rows : List (List α)) : List (List α) :=
  let as := (rows.map List.toArray).toArray
  (List.range n).map (fun c => (List.range as.size).map (fun r => (as.getD r #[]).getD c d))

/-- A margin: binary32 or s32 of an exact sum (R352). -/
def marginOf (int : Bool) (xs : List Num) : Nat :=
  if int then roundInt 32 true false (sumNum xs) .rz false 0 else rne32 (sumNum xs)

/-- A margin word as a value. -/
def marginVal (int : Bool) (w : Nat) : Num := if int then Num.ofInt (s32 w) else val32 w

/-- Row margins, column margins and the corner of a matrix of valid values, 257 words (R352). -/
def marginBlock (int : Bool) (rows : List (List Num)) : List Nat :=
  let rm := rows.map (marginOf int)
  let cm := (transposed Num.zero 128 rows).map (marginOf int)
  rm ++ cm ++ [marginOf int (rm.map (marginVal int))]

/-! ### Sums against margins (R209) -/

/-- Whether an exact sum with its sum of magnitudes disagrees with a margin under (τ, ε), F group. A sum or margin that is not
finite is tested as R209 has it for drains, at a pop too (log 126). -/
def disagreeF (tau eps sum mag m : Num) : Bool :=
  if !sum.finite || !m.finite then sum.finite != m.finite
  else Num.lt false ((tau.mul (mag.add m.abs)).add eps) (sum.add m.negate).abs

/-- The tolerance parts of a `$tol` entry (Table 10-3). -/
def tolTau (v : Reg) : Num := val32 (v.toNat % 2 ^ 32)

def tolEps (v : Reg) : Num := val32 (v.toNat / 2 ^ 32)

def sumMag (xs : List Num) : Num := sumNum (xs.map Num.abs)

/-- An integral exact value as an integer. -/
def Num.toInt : Num → Int
  | .fin n m e => Num.scaled n m e 0
  | _ => 0

/-- The I-group test: sums modulo 2^`w`. -/
def disagreeI (w : Nat) (sum m : Int) : Bool := intBits w sum != intBits w m

/-! ### Conversion of a row (R211) -/

/-- The grid step of an element encoding at a code (R211). -/
def gridStep (fw c : Nat) : Num :=
  match floatOf fw with
  | some f =>
    let e := c / 2 ^ f.mw % 2 ^ f.ew
    .fin false 1 ((max e 1 : Nat) - (f.bias : Int) - f.mw)
  | none => if fwCode fw = 0xA then .fin false 1 (-6) else .fin false 1 0

/-- The largest magnitudes below and above zero that an element encoding holds. -/
def rangeLo (fw : Nat) : Num :=
  match floatOf fw with
  | some f => (f.decode f.maxCode).negate
  | none =>
    if fwCode fw = 0xA then (Num.ofInt (intLo 8 true (fwSym fw))).times (.pow (-6))
    else if fwCode fw = 0xD then Num.ofInt (intLo (fwBw fw) true (fwSym fw))
    else Num.ofInt (intLo (elemBits fw) (fwSgn fw) (fwSym fw))

def rangeHi (fw : Nat) : Num :=
  match floatOf fw with
  | some f => f.decode f.maxCode
  | none =>
    if fwCode fw = 0xA then (Num.ofInt (intHi 8 true)).times (.pow (-6))
    else if fwCode fw = 0xD then Num.ofInt (intHi (fwBw fw) true)
    else Num.ofInt (intHi (elemBits fw) (fwSgn fw))

/-- Whether an element lies outside what the conversion can carry under the scale its block received (R211). -/
def outOfRange (fw : Nat) (x : Num) (sc : Nat) : Bool :=
  let k := scaleOf fw sc
  !x.finite || k == .nan || k == .zero || Num.lt false x ((rangeLo fw).times k) || Num.lt false ((rangeHi fw).times k) x

/-- A converted row: codes, scale codes, the values that they stand for, and whether the conversion check passes. -/
structure Converted where
  codes : List Nat
  scales : List Nat
  vals : List Num
  ok : Bool
  deriving DecidableEq, Repr

/-- Blocks of 32 elements of a row under a block word. -/
def blocksOf (fw : Nat) : Nat → List Num → List (Nat × List Nat)
  | 0, _ => []
  | n + 1, xs => quantBlock fw (xs.take 32) (fwMode fw) :: blocksOf fw n (xs.drop 32)

/-- Convert a row of elements into `fw`; `exact` says that the elements are of the I group (R211). -/
def convertRow (fw : Nat) (xs : List Num) (exact : Bool) : Converted :=
  let bl := blocksOf fw ((xs.length + 31) / 32) xs
  let codes := if isBlock fw then bl.flatMap (fun b => b.2)
    else xs.map (fun x => roundFmt fw x (fwMode fw) (fwSat fw) 0)
  let scales := if isBlock fw then bl.map (fun b => b.1) else []
  let ks := List.range codes.length
  let vals := lineVals fw codes scales
  let exempt := (List.zip xs ks).any (fun p => outOfRange fw p.1 (scales.getD (p.2 / 32) 0))
  let d := if exact && isInt fw then Num.zero
    else sumNum (List.zipWith (fun c k => (gridStep fw c).times (scaleOf fw (scales.getD (k / 32) 0))) codes ks)
  { codes := codes, scales := scales, vals := vals
    ok := exempt || !Num.lt false d ((sumNum vals).add (sumNum xs).negate).abs }

/-! ### Header check of a folio read (R200) -/

/-- The four steps of R200 at the header: state, range and poison of the whole folio (log 116), then the header. The state after it
and the folio's pool address and header, or the cause and `$tinfo`. -/
def State.openFolio (s : State) (o : Origin) (acc : Access) (fw : Nat) : State × Except (Nat × Reg) (Nat × Header) :=
  let r := s.readCheck o.ctx acc 64
  match r.2 with
  | some f => (r.1, .error (f.cause, f.info acc.sh 0 o.unit 0 0 acc.off))
  | none =>
    let addr := (r.1.ctxAt o.ctx).accessAddr acc false
    let h := headerOf (r.1.poolRead (coreOf o.ctx) addr 64)
    if h.ok fw then (r.1, .ok (addr, h))
    else (r.1, .error (0x01, infoIllegal o.word o.slot { why := 7, detail := 8 }))

end Sys2Proof.Machine
end

