-- ==== Sys2Proof/Machine/Link.lean ====
section
/-!
DEFINITION. Nabuam links (spec/19_span_fabric.md): flits and their CRC, departures, arrivals, the receive-order stage,
replay, pass-through, queues and pops (spec/12_instr_network.md R241 to R246), markers and packet flits.
-/

namespace Sys2Proof.Machine

/-! ### Flits (R373, R374) -/

def flitTxq (f : Flit) : Nat := f.hdr.toNat % 16

def flitKind (f : Flit) : Nat := f.hdr.toNat / 16 % 4

def flitIndex (f : Flit) : Nat := f.hdr.toNat / 64 % 256

def flitJv (f : Flit) : Nat := f.hdr.toNat / 2 ^ 14 % 256

def flitDep (f : Flit) : Nat := f.hdr.toNat / 2 ^ 22 % 2 ^ 16

def flitSeq (f : Flit) : BitVec 8 := f.hdr.extractLsb' 40 8

def flitCrc (f : Flit) : Nat := f.hdr.toNat / 2 ^ 48

/-- Sideband bytes [3:0], and the scale codes in bytes [7:4]. -/
def flitMargin (f : Flit) : Nat := f.side.toNat % 2 ^ 32

def flitScales (f : Flit) : List Nat := wordsOf 1 4 (leBytes 4 (f.side.toNat / 2 ^ 32))

/-- A flit before its departure gives it a sequence number and a CRC. -/
def makeFlit (data margin : Nat) (scales : List Nat) (txq kind index jv : Nat) (dep : Int) : Flit where
  data := BitVec.ofNat 512 data
  side := BitVec.ofNat 64 (margin % 2 ^ 32 + 2 ^ 32 * packRun 8 (scales.take 4))
  hdr := BitVec.ofNat 64 (txq % 16 + kind % 4 * 16 + index % 256 * 64 + jv % 256 * 2 ^ 14 +
    (dep % 2 ^ 16).toNat * 2 ^ 22)

/-- One bit of the CRC register (R374). -/
def crcBit (crc : Nat) (b : Bool) : Nat :=
  let top := decide (2 ^ 15 ≤ crc) != b
  Nat.xor (crc * 2 % 2 ^ 16) (if top then 0x1021 else 0)

/-- One byte, most significant bit first. -/
def crcByte (crc : Nat) (b : Byte) : Nat :=
  [7, 6, 5, 4, 3, 2, 1, 0].foldl (fun c i => crcBit c (b.getLsbD i)) crc

/-- CRC-16 of bytes 0 to 77. -/
def flitCheck (f : Flit) : Nat :=
  (leBytes 64 f.data.toNat ++ leBytes 8 f.side.toNat ++ leBytes 6 (f.hdr.toNat % 2 ^ 48)).foldl crcByte 0xFFFF

/-- Put the departure cycle and the sequence number into the header and close it with the CRC. -/
def sealFlit (f : Flit) (seq : BitVec 8) : Flit :=
  let g : Flit := { f with hdr := BitVec.ofNat 64 (f.hdr.toNat % 2 ^ 40 + seq.toNat * 2 ^ 40) }
  { g with hdr := BitVec.ofNat 64 (g.hdr.toNat + flitCheck g * 2 ^ 48) }

/-- A flit that the receiver takes: its CRC and its reserved bits (R374). -/
def flitGood (f : Flit) : Bool := flitCrc f == flitCheck f && f.hdr.toNat / 2 ^ 38 % 4 == 0

/-- Sum modulo 2^32 of the sixteen data words (R241). -/
def wordSum (data : BitVec 512) : Nat := (codesOf 32 16 data.toNat).foldl (fun s x => s + x) 0 % 2 ^ 32

/-! ### Links and queues -/

def State.link (s : State) (l : Nat) : Link := sget {} s.links l

def State.modLink (s : State) (l : Nat) (f : Link → Link) : State :=
  { s with links := sset {} s.links l (f (s.link l)) }

def Link.queue (l : Link) (q : Nat) : Queue := sget {} l.queues q

def Link.setQueue (l : Link) (q : Nat) (v : Queue) : Link := { l with queues := sset {} l.queues q v }

def State.queue (s : State) (l q : Nat) : Queue := (s.link l).queue q

def State.setQueue (s : State) (l q : Nat) (v : Queue) : State := s.modLink l (fun x => x.setQueue q v)

/-- Timetable entry of a cycle. -/
def outEntry (l : Link) (c : Int) : TTEntry := sget {} l.outT (c % 256).toNat

def inEntry (l : Link) (c : Int) : TTEntry := sget {} l.inT (c % 256).toNat

/-! ### The queue view (spec/12_instr_network.md R240) -/

def State.viewEntry (s : State) (core e : Nat) : Nat := (sget (0 : Word) (s.coreAt core).qview e).toNat

def viewRxl (v : Nat) : Nat := v % 32
def viewRxq (v : Nat) : Nat := v / 32 % 16
def viewRxv (v : Nat) : Bool := v.testBit 9
def viewTxl (v : Nat) : Nat := v / 1024 % 32
def viewTxq (v : Nat) : Nat := v / 2 ^ 15 % 16
def viewTxv (v : Nat) : Bool := v.testBit 19

/-- An M slot owns an entry when the view belongs to its context's partition. -/
def State.viewMine (s : State) (k : Nat) : Bool :=
  (coreCtxs (coreOf k)).any (fun j => (s.ctxAt j).gN) && (s.coreAt (coreOf k)).qviewPart == (s.ctxAt k).part

/-- `$tinfo` of an N timing trap (Table 12-3). -/
def infoNet (kind view link queue : Nat) (cyc : Int) : Reg :=
  BitVec.ofNat 64 (kind + view * 16 + link * 256 + queue * 2 ^ 13 + (cyc % 2 ^ 32).toNat * 2 ^ 32)

/-! ### Departures (R242) -/

/-- The test of a departure on a link in a cycle: 3 not owned, 4 conflict. -/
def State.departFault (s : State) (part link : Nat) (dep : Int) : Option Nat :=
  let e := outEntry (s.link link) dep
  if e.kind != 0 || e.part != part then some 3
  else if (s.link link).departs.any (fun d => d == dep) then some 4
  else none

/-- A departure cycle is committed; cycles that have passed are forgotten. -/
def State.commitDepart (s : State) (link : Nat) (dep : Int) : State :=
  s.modLink link (fun l => { l with departs := l.departs.filter (fun d => decide (s.concI ≤ d)) ++ [dep] })

/-- A flit leaves on a link: the next sequence number, its CRC, and a copy kept until it is acknowledged (R373, R384). A
link that is not up carries nothing (R376). -/
def State.sendFlit (s : State) (link : Nat) (f : Flit) : State :=
  if (s.link link).st ≠ 2 then s
  else s.modLink link (fun l =>
    let g := sealFlit f l.seqOut
    { l with seqOut := l.seqOut + 1, unacked := l.unacked ++ [(l.seqOut, g)], sent := l.sent ++ [g] })

/-- FLIT_DEPARTURE: a committed flit leaves in its departure cycle (R242, R378). -/
def execFlitDeparture (link : Nat) (f : Flit) (s : State) : Out := .next (s.sendFlit link f)

/-! ### Arrivals (R374, R379, R380, R385) -/

/-- The departure cycle of a flit that arrives at local cycle `a`: the largest x ≤ a − λ with x[15:0] = dep (R374). -/
def departureOf (a : Int) (lam dep : Nat) : Int :=
  let m := a - lam
  m - (m - dep) % 2 ^ 16

/-- A sequence number that the receiver has already taken (R384): behind the stage, or waiting in it. -/
def Link.taken (l : Link) (seq : BitVec 8) : Bool :=
  decide (128 ≤ (seq - l.seqIn).toNat) || l.stage.any (fun e => e.1 == seq)

/-- What becomes of a good flit: it goes on to the stage's queue side, is dropped by an OPEN entry, comes too late to pass
through (R380), or passes through to a link. -/
inductive Fate where
  | enter
  | drop
  | late
  | pass (link : Nat)
  deriving DecidableEq, Repr

/-- The in entry that governs the nominal arrival `nom`: a change applies from the cycle after its write (R381). -/
def inEntryAt (l : Link) (nom : Int) : TTEntry :=
  match l.inOld.find? (fun e => e.2.1 == (nom % 256).toNat && decide (nom ≤ e.1)) with
  | some e => e.2.2
  | none => inEntry l nom

/-- The fate of a good flit with nominal arrival `nom` at local cycle `a`. -/
def Link.fate (l : Link) (f : Flit) (nom a : Int) : Fate :=
  let e := inEntryAt l nom
  if flitKind f = 3 then .enter
  else if e.kind = 1 && flitTxq f == e.fq then (if a = nom then .pass e.fl else .late)
  else if e.kind = 0 || e.kind = 1 then .enter
  else .drop

/-- FLIT_ARRIVAL: a bad flit is dropped and negatively acknowledged; a good first copy is acknowledged and takes its way
(R374, R379, R384). -/
def execFlitArrival (link : Nat) (f : Flit) (s : State) : Out :=
  let l := s.link link
  .next (
    if l.st ≠ 2 then s
    else if !flitGood f then s.modLink link (fun l => { l with acks := l.acks ++ [(flitSeq f, false)] })
    else if l.taken (flitSeq f) then s.modLink link (fun l => { l with acks := l.acks ++ [(flitSeq f, true)] })
    else
      let nom := departureOf s.concI l.lam (flitDep f) + l.lam
      let fate := l.fate f nom s.concI
      let kept := match fate with
        | .enter => some (nom, f)
        | _ => none
      let s := s.modLink link (fun l => { l with
        acks := l.acks ++ [(flitSeq f, true)]
        stage := l.stage ++ [(flitSeq f, kept)]
        dropped := if fate = .drop then l.dropped + 1 else l.dropped })
      let s := match fate with
        | .pass out => (s.modLink link (fun l => { l with passing := l.passing ++ [(out, s.now + 8, f)] })).after 8
            rankDepart (.op (.passThrough out f))
        | _ => s
      s.post ⟨s.now, rankArrive, .op (.receiveOrderPass link)⟩)

/-- A flit with the departure cycle of this cycle. -/
def State.departing (s : State) (f : Flit) : Flit :=
  { f with hdr := BitVec.ofNat 64 (f.hdr.toNat % 2 ^ 22 + (s.concI % 2 ^ 16).toNat * 2 ^ 22) }

/-- The link that holds a flit for pass-through to `link` in this cycle. -/
def State.passFrom (s : State) (link : Nat) (f : Flit) : Option Nat :=
  (s.links.find? (fun (e : Nat × Link) => e.2.passing.contains (link, s.now, f))).map (fun e => e.1)

/-- Whether a committed departure takes this cycle of a link: one flit departs in a cycle (R372). -/
def State.departTaken (s : State) (link : Nat) : Bool := (s.link link).departs.any (fun d => d == s.concI)

/-- PASS_THROUGH: a flit that its link still holds departs on the other link, with a new departure cycle and sequence number,
when that link's out entry of the cycle is the matching FWD entry (R376, R378, R380; log 97). -/
def execPassThrough (link : Nat) (f : Flit) (s : State) : Out :=
  .next (match s.passFrom link f with
    | none => s
    | some y =>
      let t := s.modLink y (fun l => { l with passing := l.passing.filter (fun x => x != (link, s.now, f)) })
      let e := outEntry (s.link link) s.concI
      if e.kind = 1 && e.fl == y && e.fq == flitTxq f && !s.departTaken link then t.sendFlit link (s.departing f) else t)

/-- A flit enters its receive queue; with 64 present it is discarded and the overflow mark set (R244). -/
def Queue.enter (q : Queue) (nom : Int) (f : Flit) : Queue :=
  if 64 ≤ q.flits.length then { q with ovf := true } else { q with flits := q.flits ++ [(nom, f)] }

/-- A packet flit arrives: flit 0 begins a packet, any other continues the packet begun last; a packet of higher class
may stand inside another (R388). -/
def joinPacket (open_ : List (List Flit)) (f : Flit) : List (List Flit) :=
  if flitIndex f = 0 then [f] :: open_
  else
    match open_ with
    | [] => []
    | p :: r => (p ++ [f]) :: r

/-- A packet from its flits (R388). -/
def packetOf (fs : List Flit) : Packet :=
  let h := (fs.headD ⟨0, 0, 0⟩).data.toNat
  { dst := h % 2 ^ 11, src := h / 2 ^ 16 % 2 ^ 11, engine := h / 2 ^ 32 % 2 ^ 16, seq := BitVec.ofNat 32 (h / 2 ^ 48)
    cls := h / 2 ^ 80 % 4, response := h.testBit 82
    record := (fs.getD 1 ⟨0, 0, 0⟩).data, data := (fs.drop 2).map Flit.data }

/-- The flits of a packet, without departure cycles (R388). -/
def flitsOf (p : Packet) : List Flit :=
  let h := p.dst % 2 ^ 11 + p.src % 2 ^ 11 * 2 ^ 16 + p.engine % 2 ^ 16 * 2 ^ 32 + p.seq.toNat * 2 ^ 48 +
    p.cls % 4 * 2 ^ 80 + p.response.toNat * 2 ^ 82 + p.data.length % 16 * 2 ^ 88
  let ds := BitVec.ofNat 512 h :: p.record :: p.data
  (List.zip ds (List.range ds.length)).map (fun e =>
    makeFlit e.1.toNat (wordSum e.1) [] 0 3 e.2 (ds.length - 1) 0)

/-- The packet begun last has all its flits. -/
def packetWhole (fs : List Flit) : Bool := flitJv (fs.headD ⟨0, 0, 0⟩) + 1 == fs.length

/-- A packet flit passes the stage: a whole packet is routed, one with a failing word sum is discarded (R388); either way
its credits go back to the far device (R372, R389, log 97). -/
def State.takePacketFlit (s : State) (link : Nat) (f : Flit) : State :=
  let open_ := joinPacket (s.link link).rxPacket f
  match open_ with
  | [] => s
  | p :: r =>
    if packetWhole p then
      let s := s.modLink link (fun l => { l with rxPacket := r, credits := l.credits + p.length })
      if p.all (fun f => wordSum f.data == flitMargin f) then
        s.post ⟨s.now, rankUntimed, .op (.packetRoute (packetOf p))⟩
      else s
    else s.modLink link (fun l => { l with rxPacket := open_ })

/-- Pass the flits of the stage that are next in sequence, at most `n`. -/
def State.passStage (s : State) (link : Nat) : Nat → State
  | 0 => s
  | n + 1 =>
    let l := s.link link
    match l.stage.find? (fun e => e.1 == l.seqIn) with
    | none => s
    | some e =>
      let s := s.modLink link (fun l => { l with
        stage := l.stage.filter (fun x => x.1 != e.1)
        seqIn := l.seqIn + 1 })
      let s := match e.2 with
        | none => s
        | some (nom, f) =>
          if flitKind f = 3 then s.takePacketFlit link f
          else s.setQueue link (flitTxq f) ((s.queue link (flitTxq f)).enter nom f)
      s.passStage link n

/-- RECEIVE_ORDER_PASS: flits pass the stage in ascending sequence (R385). -/
def execReceiveOrderPass (link : Nat) (s : State) : Out := .next (s.passStage link 256)

/-! ### Replay and a link set down (R376, R384) -/

/-- Cycles from now to the first replay slot that follows. -/
def State.toReplaySlot (s : State) : Nat := (16 - s.concI % 16).toNat

/-- A negative acknowledgement: the flit waits for the first replay slot that no other waits for; the eighth failure sets the
link down. -/
def State.nack (s : State) (link : Nat) (seq : BitVec 8) : State :=
  let n := sget 0 (s.link link).fails seq.toNat + 1
  if 8 ≤ n then s.post ⟨s.now, rankUntimed, .op (.linkDown link)⟩
  else
    let wait := (s.agenda.filter (fun d => d.ev == .op (.replay link))).length
    (s.modLink link (fun l => { l with fails := sset 0 l.fails seq.toNat n, nacks := l.nacks ++ [seq] })).after
      (s.toReplaySlot + 16 * wait) rankDepart (.op (.replay link))

/-- An acknowledgement: the sender keeps the flit no longer. -/
def State.ack (s : State) (link : Nat) (seq : BitVec 8) : State :=
  s.modLink link (fun l => { l with
    unacked := l.unacked.filter (fun e => e.1 != seq), fails := sset 0 l.fails seq.toNat 0 })

/-- REPLAY: in a replay slot the first waiting flit is sent again with its original header (R384). -/
def execReplay (link : Nat) (s : State) : Out :=
  .next (
    if (s.link link).st ≠ 2 then s
    else
      match (s.link link).nacks with
      | [] => s
      | q :: r =>
        s.modLink link (fun l => { l with
          nacks := r
          rpl := min (l.rpl + 1) 0xFFFF
          sent := l.sent ++ (l.unacked.filter (fun e => e.1 == q)).map (fun e => e.2) }))

/-- The start that is at its span join. -/
def State.joining (s : State) : Option Starting := s.starting.filter (fun st => st.step == 10)

/-- The links have changed: a device that joins the span looks again whether it is the root (spec/20_bringup_power.md R394). -/
def State.joinAgain (s : State) : State :=
  if s.joining.isSome then s.post ⟨s.now, rankUntimed, .micro .startStep⟩ else s

/-- LINK_DOWN: the link drops what it holds in flight, in the stage, in its open buffer and for pass-through from it or to it;
queues keep what they hold; the steward is told (R376, R384, R385, R389). The far device's room is unknown until its credits
come again (log 97). -/
def State.downLink (s : State) (link : Nat) : State :=
  let t := (s.links.map (fun (e : Nat × Link) => e.1)).foldl (fun (t : State) i =>
    t.modLink i (fun l => { l with passing := if i = link then [] else l.passing.filter (fun x => x.1 != link) })) s
  { t.modLink link (fun l => { l with
      st := 0, stage := [], unacked := [], nacks := [], fails := [], rxPacket := [], openBuf := [], room := 0 }) with
    linkReports := s.linkReports ++ [(link, 0)] }.joinAgain

def execLinkDown (link : Nat) (s : State) : Out := .next (s.downLink link)

/-! ### Packet flits leave in OPEN entries (R378, R388) -/

/-- The waiting packet that goes first: highest class, then arrival. -/
def firstPacket : Nat × Nat × List Flit → List (Nat × Nat × List Flit) → Nat × Nat × List Flit
  | a, [] => a
  | a, b :: r => firstPacket (if b.1 < a.1 || (b.1 == a.1 && decide (b.2.1 < a.2.1)) then b else a) r

/-- One packet flit departs on a link whose out entry is OPEN, when the far buffer has room (R378, R389) and no committed
departure takes the cycle (R372). -/
def State.openDepart (s : State) (link : Nat) : State :=
  let l := s.link link
  if (outEntry l s.concI).kind ≠ 2 || l.st ≠ 2 || l.room = 0 || s.departTaken link then s
  else
    match l.openBuf with
    | [] => s
    | a :: r =>
      let p := firstPacket a r
      match p.2.2 with
      | [] => s.modLink link (fun l => { l with openBuf := l.openBuf.filter (fun x => x != p) })
      | f :: fs =>
        let s := s.modLink link (fun l => { l with
          room := l.room - 1
          openBuf := if fs.isEmpty then l.openBuf.filter (fun x => x != p)
            else l.openBuf.map (fun x => if x = p then (p.1, p.2.1, fs) else x) })
        s.sendFlit link (s.departing f)

/-- A packet waits in a link's open buffer. -/
def State.bufferPacket (s : State) (link : Nat) (p : Packet) : State :=
  { s.modLink link (fun l => { l with openBuf := l.openBuf ++ [(p.cls, s.nextId, flitsOf p)] }) with
    nextId := s.nextId + 1 }

/-! ### Pops (R244 to R246) -/

/-- Elements of a flit under a word: as many as 64 bytes hold, at most 128 (Table 10-5). -/
def flitWidth (fw : Nat) : Nat := min 128 (512 / elemBits fw)

def flitCodes (fw : Nat) (f : Flit) : List Nat := codesOf (elemBits fw) (flitWidth fw) f.data.toNat

/-- `$tinfo` of a checksum trap at a pop (R245, Table 10-7). -/
def infoPop (kind : Nat) (f : Flit) : Reg :=
  BitVec.ofNat 64 ((if flitKind f = 2 then flitIndex f * 256 else flitIndex f) + kind * 2 ^ 36)

/-- A sum with its magnitudes against a margin, in either group. -/
def disagrees (int : Bool) (w : Nat) (tol : Reg) (sum mag m : Num) : Bool :=
  if int then disagreeI w sum.toInt m.toInt else disagreeF (tolTau tol) (tolEps tol) sum mag m

/-- The sums with one more row flit (R245). -/
def QSums.addRow (q : QSums) (xs ys : List Num) (m my : Num) : QSums :=
  let old := fun (l : List (Num × Num)) k => l.getD k (Num.zero, Num.zero)
  { cols := (List.zip xs (List.range xs.length)).map (fun p =>
      ((old q.cols p.2).1.add p.1, (old q.cols p.2).2.add p.1.abs))
    rows := (q.rows.1.add m, q.rows.2.add m.abs)
    conv := (List.zip ys (List.range ys.length)).map (fun p => (q.conv.getD p.2 Num.zero).add p.1)
    convRows := q.convRows.add my }

/-- A row flit as delivered: its verification, and its conversion when the sink word differs (R245). The failure's kind,
the delivered flit, and the queue with its sums. -/
def popRowFlit (q : Queue) (tol : Reg) (f : Flit) : Option Nat × Flit × Queue :=
  let fs := q.fs.toNat
  let fk := q.fk.toNat
  let xs := lineVals fs (flitCodes fs f) (flitScales f)
  let m := marginVal (isInt fs) (flitMargin f)
  let bad := decide (flitJv f ≤ flitWidth fs) && disagrees (isInt fs) 32 tol (sumNum xs) (sumMag xs) m
  let cv := convertRow fk xs (isInt fs)
  let ys := if fk = fs then xs else cv.vals
  let my := if fk = fs then flitMargin f else marginOf (isInt fk) ys
  let g := if fk = fs then f else { f with
    data := BitVec.ofNat 512 (packRun (elemBits fk) cv.codes)
    side := BitVec.ofNat 64 (my + 2 ^ 32 * packRun 8 cv.scales) }
  let base := if flitIndex f = 0 then some {} else q.sums
  let sums := base.map (fun b => b.addRow xs ys m (marginVal (isInt fk) my))
  (if bad then some 6 else if fk ≠ fs && !cv.ok then some 7 else none, g, { q with sums := sums })

/-- Margin values of a column-margin flit: sixteen words from column 16 × index on. -/
def popColFlit (q : Queue) (tol : Reg) (f : Flit) (free : Nat) : Option Nat × Flit × Queue :=
  let fs := q.fs.toNat
  let fk := q.fk.toNat
  let i0 := 16 * flitIndex f
  let last := flitIndex f + 1 == flitWidth fs / 16
  let ms := codesOf 32 16 f.data.toNat
  let ks := (List.range 16).filter (fun k => decide (i0 + k < flitWidth fs))
  match q.sums with
  | some b =>
    let int := isInt fs
    let badCol := ks.any (fun k =>
      let c := b.cols.getD (i0 + k) (Num.zero, Num.zero)
      disagrees int 32 tol c.1 c.2 (marginVal int (ms.getD k 0)))
    let badCorner := last && disagrees int 32 tol b.rows.1 b.rows.2 (marginVal int (flitMargin f))
    let ws := (List.range 16).map (fun k =>
      if ks.contains k then marginOf (isInt fk) [b.conv.getD (i0 + k) Num.zero] else ms.getD k 0)
    let g := if fk = fs then f else { f with
      data := BitVec.ofNat 512 (packRun 32 ws)
      side := BitVec.ofNat 64 (if last then marginOf (isInt fk) [b.convRows] else flitMargin f) }
    (if badCol || badCorner then some 6 else none, g, { q with sums := if last then none else q.sums })
  | none =>
    let g := if fk = fs then f else { f with
      data := BitVec.ofNat 512 (packRun 64 ((List.range 8).map (fun k => (Config.freeWord (free + k)).toNat)))
      side := BitVec.ofNat 64 (if last then (Config.freeWord (free + 8)).toNat % 2 ^ 32 else flitMargin f) }
    (none, g, q)

/-- The checks and the conversion of a popped flit (R245). -/
def popDelivery (q : Queue) (tol : Reg) (f : Flit) (free : Nat) : Option Nat × Flit × Queue :=
  match flitKind f with
  | 1 => popRowFlit q tol f
  | 2 => popColFlit q tol f free
  | _ => (if wordSum f.data = flitMargin f then none else some 5, f, q)

/-- A pop of entry `e` of the context's queue view in this cycle: conflict, overflow, empty, stream mismatch, then the
checks of R245 (R244 to R246). `want` is the kind and, where it matters, the index expected; `raw` delivers the flit as it
stands (R248); `words` are the queue's format words as an `m.mul` read them at its issue
(spec/02_bundles_and_encoding.md R65). A flit that is delivered as it stands or that is a mismatch leaves the sums as they were
(log 124). The cause and `$tinfo` of a failure, or the flit. A checksum failure goes to the
steward against the link (spec/18_integrity_repair.md R353). -/
def State.pop (s : State) (k e : Nat) (want : Option (Nat × Option Nat)) (raw : Bool)
    (words : Option (BitVec 17 × BitVec 17) := none) : State × Except (Nat × Reg) Flit :=
  let v := s.viewEntry (coreOf k) e
  let l := viewRxl v
  let n := viewRxq v
  let q := s.queue l n
  let timing := fun kind => Except.error (0x08, infoNet kind e l n s.concI)
  if q.popAt = some s.now then (s, timing 5)
  else
    let q := { q with popAt := some s.now }
    if q.ovf then (s.setQueue l n { q with ovf := false }, timing 2)
    else
      match q.flits with
      | [] => (s.setQueue l n q, timing 1)
      | (nom, f) :: r =>
        if s.concI < nom + q.slack then (s.setQueue l n q, timing 1)
        else
          let q := { q with flits := r }
          let miss := match want with
            | none => false
            | some (kind, none) => flitKind f != kind
            | some (kind, some i) => flitKind f != kind || flitIndex f != i
          if miss then (s.setQueue l n q, timing 7)
          else if raw then (s.setQueue l n q, .ok f)
          else
            let w := words.getD (q.fs, q.fk)
            let d := popDelivery { q with fs := w.1, fk := w.2 } (sget 0 (s.ctxAt k).tol 15) f s.free
            let s := { s with free := s.free + 9 }.setQueue l n { d.2.2 with fs := q.fs, fk := q.fk }
            match d.1 with
            | some kind =>
              ({ s with linkReports := s.linkReports ++ [(l, kind)] }, .error (0x0F, infoPop kind f))
            | none => (s, .ok d.2.1)

/-! ### Span time (R386, R387) -/

/-- SPAN_MARKER_SEND: at each cycle that is a multiple of 2^16 the count goes out on every link of the span that is up. The
marker is no flit; what leaves is recorded among the link's alignment words. -/
def execSpanMarkerSend (s : State) : Out :=
  .next ((List.range 24).foldl (fun t l =>
    if (t.link l).st = 2 && !(t.link l).open_ then t.modLink l (fun x => { x with markers := x.markers ++ [s.conc] })
    else t) s)

/-- A span-alignment trap becomes pending in every live context (R346). -/
def State.spanAlignment (s : State) (slip : Int) : State :=
  (s.ctxs.map (fun e => e.1)).foldl (fun t k =>
    t.modCtx k (fun c =>
      if !c.present then c
      else { c with ev := { c.ev with
        span := some (BitVec.ofInt 64 slip), spanMore := c.ev.span.isSome || c.ev.spanMore
        spanAt := if c.ev.span.isSome then c.ev.spanAt else t.now } })) s

/-- A device that joins the span takes the count of an upstream marker and holds it for two more, each with slip 0; another
slip has the count taken again (spec/20_bringup_power.md Table 20-1, step 10, log 17). -/
def State.joinMarker (s : State) (st : Starting) (slip : Int) : State :=
  if slip = 0 && st.joins ≠ 0 then
    let t := { s with starting := some { st with joins := st.joins + 1 } }
    if st.joins + 1 = 3 then t.post ⟨s.now, rankUntimed, .micro .startStep⟩ else t
  else { s with skew := s.skew - slip, starting := some { st with joins := 1 } }

/-- SPAN_MARKER_RECEIVE: the slip of a marker; on the upstream link it raises the trap and the count is stepped before the
next marker, on another link it is reported (R386, R387). A device that joins takes its count from it. -/
def execSpanMarkerReceive (link : Nat) (c : BitVec 64) (s : State) : Out :=
  let l := s.link link
  let slip : Int := s.concI - ((c.toNat : Int) + l.lam)
  .next (
    if l.st ≠ 2 || l.open_ then s
    else if l.upl && s.joining.isSome then (match s.joining with
      | some st => s.joinMarker st slip
      | none => s)
    else if slip = 0 then
      (if l.upl && l.slipped then
        { s.modLink link (fun l => { l with slipped := false }) with linkReports := s.linkReports ++ [(link, 2)] }
      else s)
    else if l.upl then
      ((s.modLink link (fun l => { l with slipped := true })).spanAlignment slip).drawn.after
        (Config.untimedDelay s.free % 2 ^ 16) rankUntimed (.op (.countStep slip))
    else { s with linkReports := s.linkReports ++ [(link, 1)] })

/-- COUNT_STEP: the local count is stepped by −slip (R387). -/
def execCountStep (slip : Int) (s : State) : Out := .next { s with skew := s.skew - slip }

end Sys2Proof.Machine
end

