-- ==== Sys2Proof/Machine/Network.lean ====
section
/-!
DEFINITION. The N slots (spec/12_instr_network.md R238 to R259, R268): sends, receives, forwards, the bay bus, queue
settings, anthology steps, loans, fences and copies.
-/

namespace Sys2Proof.Machine

/-- Unit class of N. -/
def unitN : Nat := 6

/-- A poisoned l register traps, otherwise the slot goes on (R30). -/
def orPoisoned (s : State) (unit l : Nat) (f : State → State) : State :=
  if s.me.poisonL l then s.poisoned unit l else f s

/-- An entry that may be popped, else detail 1 (R240). -/
def withRx (s : State) (e : Nat) (f : Nat → State) : State :=
  let v := s.viewEntry (coreOf s.cur.ctx) e
  if viewRxv v then f v else s.refuse7 1

/-- An entry that may be sent on, else detail 1 (R240). -/
def withTx (s : State) (e : Nat) (f : Nat → State) : State :=
  let v := s.viewEntry (coreOf s.cur.ctx) e
  if viewTxv v then f v else s.refuse7 1

/-- The departure `n` cycles on is tested, and kept when the bundle commits (R242). -/
def withDeparture (s : State) (e v n : Nat) (f : State → Int → State) : State :=
  let dep := s.concI + n
  match s.departFault s.me.part (viewTxl v) dep with
  | some kind => s.issueTrap 0x08 (infoNet kind e (viewTxl v) (viewTxq v) dep)
  | none => (f s dep)

/-- What a slot does besides: its departure cycle is committed and it is pending through the departure (R34, R242). -/
def State.holdDeparture (s : State) (link n : Nat) (dep : Int) : State :=
  (s.emit 0 rankSample (.micro (.reserveDep link dep))).emit n rankDepart (.micro (.mark (s.here unitN)))

/-- A form of the link engine: it needs the N grant, and its guard (R239, R49). -/
def linkSlot (s : State) (g : Guard) (f : State → State) : Out := whenGrant s s.me.gN (fun s => whenGuard s g f)

/-- `n.nop` (R53). -/
def execNNop (s : State) : Out := .next s

/-- `n.send` (R243). -/
def execNSend (g : Guard) (lq : BitVec 4) (l : BitVec 5) (off : BitVec 10) (s : State) : Out :=
  linkSlot s g (fun s => withTx s lq.toNat (fun v => withDeparture s lq.toNat v 6 (fun s dep =>
    orPoisoned s unitN l.toNat (fun s =>
      (s.holdDeparture (viewTxl v) 6 dep).emit 1 rankSample
        (.micro (.sendSample (s.here unitN) lq.toNat (granuleAccess (s.me.regL l.toNat) off) dep))))))

/-- `n.recv` (R247). -/
def execNRecv (g : Guard) (lq : BitVec 4) (l : BitVec 5) (off : BitVec 10) (s : State) : Out :=
  linkSlot s g (fun s => withRx s lq.toNat (fun _ => orPoisoned s unitN l.toNat (fun s =>
    s.emit 1 rankPopN (.micro (.popRecv (s.here unitN) lq.toNat (granuleAccess (s.me.regL l.toNat) off))))))

/-- `n.fwd` (R248). -/
def execNFwd (g : Guard) (m : BitVec 4) (lq : BitVec 4) (s : State) : Out :=
  linkSlot s g (fun s => withRx s lq.toNat (fun _ => withTx s m.toNat (fun v => withDeparture s m.toNat v 6
    (fun s dep => (s.holdDeparture (viewTxl v) 6 dep).emit 1 rankPopN
      (.micro (.popFwd (s.here unitN) lq.toNat m.toNat dep))))))

/-- A bay's broadcast latch. -/
def State.latch (s : State) (bay c : Nat) : Latch := sget {} s.latches (8 * bay + c)

/-- Naming a latch that is not the partition's: detail 2 (R250). -/
def withLatch (s : State) (c : Nat) (f : Latch → State) : State :=
  let x := s.latch (bayOf (coreOf s.cur.ctx)) c
  if x.assigned && x.part == s.me.part then f x else s.refuse7 2

/-- `n.bsend` writes the latch at t+3 (R250). -/
def execNBsend (g : Guard) (c : BitVec 3) (r : BitVec 4) (s : State) : Out :=
  linkSlot s g (fun s => withLatch s c.toNat (fun _ =>
    s.emit 3 rankDepart (.op (.bayLatchWrite (s.here unitN) (bayOf (coreOf s.cur.ctx)) c.toNat (s.me.regN r.toNat)))))

/-- `n.blatch` reads the latch at t (R250). -/
def execNBlatch (g : Guard) (d : BitVec 4) (c : BitVec 3) (s : State) : Out :=
  linkSlot s g (fun s => withLatch s c.toNat (fun x => s.land unitN 2 (.n d.toNat x.v)))

/-- Widths that queue words may have (R251). -/
def queueWidth (w : Nat) : Bool := w == 4 || w == 8 || w == 16 || w == 32

/-- `n.qfmt`: invalid words first (reason 6), then the entry and the widths (R240, R251). -/
def execNQfmt (g : Guard) (lq : BitVec 4) (r : BitVec 4) (s : State) : Out :=
  linkSlot s g (fun s =>
    let x := s.me.regN r.toNat
    let fs := x.toNat % 2 ^ 17
    let fk := x.toNat / 2 ^ 32 % 2 ^ 17
    if formatInvalid fs || formatInvalid fk then s.illegal { why := 6 }
    else withRx s lq.toNat (fun v =>
      if elemBits fs ≠ elemBits fk || !queueWidth (elemBits fs) then s.refuse7 3
      else s.emit 0 rankSample (.micro (.shadowWrite s.cur.ctx
        { num := 0x100 + viewRxl v * 16 + viewRxq v, v := x, left := Config.delayBundles }))))

/-- `n.loan`: the record is sampled at t+1 (R259). -/
def execNLoan (g : Guard) (l : BitVec 5) (off : BitVec 14) (s : State) : Out :=
  whenGuard s g (fun s => orPoisoned s unitN l.toNat (fun s =>
    s.emit 1 rankSample (.micro (.loanRecord (s.here unitN) (granuleAccess (s.me.regL l.toNat) off) s.me.sup))))

/-- `n.fence`: in force for loans issued from t+1 (R268). -/
def execNFence (g : Guard) (sc : BitVec 3) (s : State) : Out :=
  whenGuard s g (fun s => s.emit 1 rankLand (.micro (.fenceFrom s.cur.ctx sc.toNat)))

/-- The base die that carries a link. -/
def baseOf (link : Nat) : Nat := link / 12

/-- The tag word of an anthology step's type (R249). -/
def redWord (bf16 : Bool) : Nat := if bf16 then 1 else 0

/-- `n.red` (R249, R391). -/
def execNRed (g : Guard) (m : BitVec 4) (lq : BitVec 4) (l : BitVec 5) (ty : Bool) (s : State) : Out :=
  linkSlot s g (fun s => withRx s lq.toNat (fun r => withTx s m.toNat (fun v =>
    if baseOf (viewRxl r) ≠ baseOf (viewTxl v) then s.refuse7 1
    else if (s.queue (viewRxl r) (viewRxq r)).fk.toNat ≠ redWord ty then s.refuse7 4
    else withDeparture s m.toNat v 14 (fun s dep => orPoisoned s unitN l.toNat (fun s =>
      (s.holdDeparture (viewTxl v) 14 dep).emit 1 rankPopN
        (.micro (.popRed (s.here unitN) lq.toNat m.toNat
          { sh := addrShelf (s.me.regL l.toNat), off := (addrOffset (s.me.regL l.toNat) : Int), size := 64 } ty dep)))))))

/-- `n.qsl`: the slack from t+1; with `.clr` the flits present are discarded after the pops of t+1 (R252). -/
def execNQsl (g : Guard) (lq : BitVec 4) (clr : Bool) (k : BitVec 6) (s : State) : Out :=
  linkSlot s g (fun s => withRx s lq.toNat (fun _ =>
    let s1 := s.emit 1 rankLand (.micro (.qslApply (s.here unitN) lq.toNat false k.toNat))
    if clr then s1.emit 1 (rankPopN + 1) (.micro (.qslApply (s.here unitN) lq.toNat true k.toNat)) else s1))

def execNGetA (g : Guard) (d : BitVec 4) (r : BitVec 5) (s : State) : Out :=
  whenGuard s g (fun s => s.land unitN 2 (.n d.toNat (s.me.regA r.toNat)))

def execNGetB (g : Guard) (d : BitVec 4) (r : BitVec 5) (s : State) : Out :=
  whenGuard s g (fun s => s.land unitN 2 (.n d.toNat (s.me.regB r.toNat)))

/-- `n.get` from l traps on a poisoned register (R253). -/
def execNGetL (g : Guard) (d : BitVec 4) (r : BitVec 5) (s : State) : Out :=
  whenGuard s g (fun s => orPoisoned s unitN r.toNat (fun s => s.land unitN 2 (.n d.toNat (s.me.regL r.toNat))))

def execNGetD (g : Guard) (d : BitVec 4) (r : BitVec 4) (s : State) : Out :=
  whenGuard s g (fun s => s.land unitN 2 (.n d.toNat (s.me.regD r.toNat)))

/-! ### What the N slots cause later -/

/-- The sample of an `n.send` at t+1; its flit departs at t+6 (R243). -/
def State.sendSample (s : State) (o : Origin) (e : Nat) (acc : Access) (dep : Int) : State :=
  let r := s.readCheck o.ctx acc 64
  match r.2 with
  | some f => r.1.fault o 0 f.cause (f.info acc.sh 0 unitN 0 0 acc.off)
  | none =>
    let v := r.1.viewEntry (coreOf o.ctx) e
    let data := leNat (r.1.shelfBytes o.ctx acc)
    let f := makeFlit data (wordSum (BitVec.ofNat 512 data)) [] (viewTxq v) 0 0 0 dep
    r.1.after 5 rankDepart (.op (.flitDeparture (viewTxl v) f))

/-- The pop of an `n.recv` at t+1 (R247). -/
def State.popRecv (s : State) (o : Origin) (e : Nat) (acc : Access) : State :=
  let r := s.pop o.ctx e none false
  match r.2 with
  | .error (cause, info) => r.1.fault o 0 cause info
  | .ok f => r.1.after 3 (rankPerform unitN) (.op (.recvShelfWrite o acc f.data))

/-- RECV_SHELF_WRITE: the delivered bytes are written at t+4, under the checks of R247. -/
def execRecvShelfWrite (o : Origin) (acc : Access) (data : BitVec 512) (s : State) : Out :=
  .next ((match s.writeCheck o.ctx acc 64 with
    | none => s.shelfStore o.ctx acc (leBytes 64 data.toNat)
    | some f => s.fault o 0 f.cause (f.info acc.sh 1 unitN 0 0 acc.off)).touch o.ctx)

/-- The pop of an `n.fwd`: the flit as it stands, with its far queue and departure replaced (R248). -/
def State.popFwd (s : State) (o : Origin) (e m : Nat) (dep : Int) : State :=
  let r := s.pop o.ctx e none true
  match r.2 with
  | .error (cause, info) => r.1.fault o 0 cause info
  | .ok f =>
    let v := r.1.viewEntry (coreOf o.ctx) m
    let g := makeFlit f.data.toNat (flitMargin f) (flitScales f) (viewTxq v) (flitKind f) (flitIndex f) (flitJv f) dep
    r.1.after 5 rankDepart (.op (.flitDeparture (viewTxl v) g))

/-- The sum flit of an anthology step (R249). -/
def sumFlit (bf16 : Bool) (q : Flit) (sh : Nat) (txq : Nat) (dep : Int) : Flit :=
  let fmt := if bf16 then bfloat16 else binary32
  let b := if bf16 then 16 else 32
  let n := 512 / b
  let xs := (codesOf b n q.data.toNat).map fmt.decode
  let ys := (codesOf b n sh).map fmt.decode
  let out := List.zipWith (fun x y => fmt.round (x.add y) .rne false 0) xs ys
  let ms := rne32 (sumNum ys)
  makeFlit (packRun b out) (rne32 ((val32 (flitMargin q)).add (val32 ms))) [] txq 1 (flitIndex q) (flitJv q) dep

/-- The pop and the shelf sample of an `n.red` at t+1; the sum departs at t+14 (R249). When both fail the pop's trap is the one
reported (log 125). -/
def State.popRed (s : State) (o : Origin) (e m : Nat) (acc : Access) (ty : Bool) (dep : Int) : State :=
  let r := s.pop o.ctx e (some (1, none)) false
  match r.2 with
  | .error (cause, info) => r.1.fault o 0 cause info
  | .ok f =>
    let c := r.1.readCheck o.ctx acc 64
    match c.2 with
    | some x => c.1.fault o 0 x.cause (x.info acc.sh 0 unitN 0 0 acc.off)
    | none =>
      let v := c.1.viewEntry (coreOf o.ctx) m
      c.1.after 13 rankDepart
        (.op (.flitDeparture (viewTxl v) (sumFlit ty f (leNat (c.1.shelfBytes o.ctx acc)) (viewTxq v) dep)))

/-- The slack of a queue at t+1, or its clearing (R252). -/
def State.qslApply (s : State) (o : Origin) (e : Nat) (clr : Bool) (k : Nat) : State :=
  let v := s.viewEntry (coreOf o.ctx) e
  let q := s.queue (viewRxl v) (viewRxq v)
  s.setQueue (viewRxl v) (viewRxq v)
    (if clr then { q with flits := [], ovf := false, sums := none } else { q with slack := k })

/-- BAY_LATCH_WRITE: the value is latched at t+3; a read of that cycle sees the old one (R250, R60). -/
def execBayLatchWrite (o : Origin) (bay c : Nat) (v : Reg) (s : State) : Out :=
  .next ({ s with latches := sset {} s.latches (8 * bay + c) { s.latch bay c with v := v } }.touch o.ctx)

/-- A fence: the loans of the context that are outstanding hold its later loans (R268). -/
def State.fenceFrom (s : State) (k scope : Nat) : State :=
  let ids := (s.loans.filter (fun l => l.owner == .context k && l.stage != .finished)).map (fun l => (l.id, scope))
  s.modCtx k (fun c => { c with fence := ids })

end Sys2Proof.Machine
end

