-- ==== Sys2Proof/Machine/Remote.lean ====
section
/-!
DEFINITION. End-to-end requests of the loan engines (spec/19_span_fabric.md R388 to R390): the packets of one granule or
one operation each (log 21), sequence numbers, timers, routing and responses.
-/

namespace Sys2Proof.Machine

/-- This device's id. -/
def ownDevice : Nat := Config.deviceId % 2 ^ 11

/-! ### Loans by number -/

def State.loan (s : State) (id : Nat) : Option Loan := s.loans.find? (fun l => l.id == id)

def State.modLoan (s : State) (id : Nat) (f : Loan → Loan) : State :=
  { s with loans := s.loans.map (fun l => if l.id = id then f l else l) }

/-! ### What a request carries (log 21)

Flit 1 is the loan's record. The first data flit says which granule of the home is meant, and the data follow. -/

/-- Bytes placed in a granule as a number, and the mask of the bytes present. -/
def granuleData (cells : List (Nat × Byte)) : Nat := (cells.map (fun e => e.2.toNat * 2 ^ (8 * e.1))).sum
def granuleMask (cells : List (Nat × Byte)) : Nat := (cells.map (fun e => 2 ^ e.1)).sum

/-- A list of columns as bits. -/
def columnBits (l : List Nat) : Nat := ([0, 1].filter (fun k => l.contains k)).foldl (fun n k => n + 2 ^ k) 0

def columnList (n : Nat) : List Nat := [0, 1].filter (fun k => n.testBit k)

/-- The first data flit: where the access acts at its home, what it does (0 read, 1 write, 2 atomic, 3 adds), the poisoned
columns, the granule sum of R264, the mask of the bytes, and of adds the loan, their total and the number of the first. -/
structure Piece where
  addr : Nat := 0
  kind : Nat := 0
  poison : Nat := 0
  sum : Nat := 0
  mask : Nat := 0
  loan : Nat := 0
  total : Nat := 0
  first : Nat := 0
  deriving DecidableEq, Repr

def Piece.flit (p : Piece) : BitVec 512 :=
  recordOf [(0, p.addr % 2 ^ 48), (48, p.kind % 4), (50, p.poison % 4), (64, p.sum % 2 ^ 32), (128, p.mask % 2 ^ 64),
    (192, p.loan % 2 ^ 64), (256, p.total % 2 ^ 64), (320, p.first % 2 ^ 64)]

def pieceOf (f : BitVec 512) : Piece where
  addr := recBits f 0 48
  kind := recBits f 48 2
  poison := recBits f 50 2
  sum := recBits f 64 32
  mask := recBits f 128 64
  loan := recBits f 192 64
  total := recBits f 256 64
  first := recBits f 320 64

/-- The piece of a request that has one. -/
def pieceIn (p : Packet) : Piece := pieceOf (p.data.headD 0)

/-- Adds in a data flit, sixteen bytes each. -/
def addsFlit (l : List (Nat × Nat)) : BitVec 512 :=
  BitVec.ofNat 512 (packRun 64 (l.flatMap (fun e => [e.1, e.2])))

def addsOf (n : Nat) (f : BitVec 512) : List (Nat × Nat) :=
  (List.range (min n 4)).map (fun i => (recBits f (128 * i) 64, recBits f (128 * i + 64) 64))

/-- Adds that one packet holds beside its piece: seven flits of four (R388). -/
def packetAdds : Nat := 28

/-- Lists of at most `n`. -/
def chunks {α : Type} (n : Nat) : Nat → List α → List (List α)
  | 0, _ => []
  | f + 1, l => if l.isEmpty then [] else l.take n :: chunks n f (l.drop n)

/-- The data of the requests that a granule access sends: one request, or as many as its adds need. -/
def requestsOf (loan dpa : Nat) (k : ReqKind) : List (List (BitVec 512)) :=
  match k with
  | .read => [[({ addr := dpa } : Piece).flit]]
  | .write bytes poison =>
    let v := BitVec.ofNat 512 (granuleData bytes)
    [[({ addr := dpa, kind := 1, poison := columnBits poison, sum := wordSum v, mask := granuleMask bytes } : Piece).flit, v]]
  | .atomic _ off _ _ _ _ => [[({ addr := dpa + off, kind := 2 } : Piece).flit]]
  | .accumulate _ _ adds poison =>
    let cs := chunks packetAdds adds.length adds
    (List.zip cs (List.range cs.length)).map (fun e =>
      ({ addr := dpa, kind := 3, poison := columnBits poison, loan := loan, total := adds.length
         first := packetAdds * e.2 } : Piece).flit :: (chunks 4 e.1.length e.1).map addsFlit)

/-- The cells of a granule that a mask selects. -/
def maskedCells (mask v : Nat) : List (Nat × Byte) :=
  ((List.range 64).filter (fun i => mask.testBit i)).map (fun i => (i, BitVec.ofNat 8 (v / 2 ^ (8 * i))))

/-- The adds of a request. -/
def addsIn (p : Packet) : List (Nat × Nat) :=
  let q := pieceIn p
  let n := min packetAdds (q.total - q.first)
  ((List.zip (p.data.drop 1) (List.range (p.data.length - 1))).flatMap (fun e => addsOf (n - 4 * e.2) e.1))

/-- The access that a request asks of its home. -/
def accessOf (p : Packet) : ReqKind :=
  let q := pieceIn p
  let r := p.record
  match q.kind with
  | 0 => .read
  | 1 => .write (maskedCells q.mask (p.data.getD 1 0).toNat) (columnList q.poison)
  | 2 => .atomic (recOp r) (q.addr % 64) (recSize r) (recAtype r) (recOpnd r) (recCmp r)
  | _ => .accumulate (recSize r) (recAtype r) (addsIn p) (columnList q.poison)

/-- The granule's DPA at the home. -/
def accessDpa (p : Packet) : Nat := (pieceIn p).addr / 64 * 64

/-- The record of a request that is no piece of its loan: a publish at the end of a copy (R266). -/
def publishRecord (raw : LoanRec) (w : Nat) : LoanRec :=
  recordOf [(0, 0x20), (8, recClass raw), (10, recScope raw), (192, w)]

/-! ### Sending (R388, R389) -/

/-- Key of a sequence counter. -/
def seqKey (engine home : Nat) : Nat := engine * 2 ^ 11 + home

/-- Outstanding requests of an engine to a home. -/
def State.outstanding (s : State) (engine home : Nat) : List RemoteReq :=
  s.remoteReqs.filter (fun r => r.engine == engine && r.home == home)

/-- A request leaves and its timer starts. -/
def State.launchRequest (s : State) (r : RemoteReq) : State :=
  (s.post ⟨s.now, rankUntimed, .op (.packetRoute r.packet)⟩).after s.endTimer rankUntimed
    (.op (.endToEndTimerExpiry r.home r.engine r.seq))

/-- The waiting request that leaves first: highest class, then the oldest (spec/16_scheduling.md R333). -/
def firstWaiting (l : List RemoteReq) : Option RemoteReq :=
  [0, 1, 2, 3].findSome? (fun c => l.find? (fun r => !r.sent && r.packet.cls == c))

/-- Waiting requests leave while fewer than 128 are outstanding; at most `n` of them. -/
def State.flushUpTo (s : State) (engine home : Nat) : Nat → State
  | 0 => s
  | n + 1 =>
    match firstWaiting (s.outstanding engine home) with
    | none => s
    | some r =>
      (({ s with remoteReqs := s.remoteReqs.map (fun (x : RemoteReq) => if x.id = r.id then { x with sent := true } else x)
        }).launchRequest r).flushUpTo engine home n

/-- Every request that the bound of 128 leaves room for goes out (R389). -/
def State.flushRequests (s : State) (engine home : Nat) : State :=
  s.flushUpTo engine home (128 - ((s.outstanding engine home).filter (fun r => r.sent)).length)

/-- Requests are given up; the room that they leave goes to those that wait (R389). -/
def State.dropRequests (s : State) (p : RemoteReq → Bool) : State :=
  (s.remoteReqs.filter p).foldl (fun t r => t.flushRequests r.engine r.home)
    { s with remoteReqs := s.remoteReqs.filter (fun r => !p r) }

/-- A request whose granule's adds go in several packets, which its home answers before all of them are performed (log 21). -/
def inParts (p : Packet) : Bool := (pieceIn p).kind == 3 && decide (packetAdds < (pieceIn p).total)

/-- Whether two requests of a loan carry adds of one granule. -/
def RemoteReq.sameGranule (a b : RemoteReq) : Bool :=
  a.loan == b.loan && a.home == b.home && inParts a.packet && inParts b.packet &&
    accessDpa a.packet == accessDpa b.packet

/-- A request has been answered. A part of a granule's adds is kept while another part of them is outstanding, since the home
performs none before all (R389, log 21). -/
def State.keepAnswered (s : State) (r : RemoteReq) : State :=
  s.modLoan r.loan (fun l => { l with
    answered := if s.remoteReqs.any r.sameGranule then (if inParts r.packet then l.answered ++ [r] else l.answered)
      else l.answered.filter (fun x => !r.sameGranule x) })

/-- With a part that is sent again go the parts of its granule that have been answered: a home that has started since has lost them,
and any other knows them from its reply cache (R389, R390). -/
def State.resendAnswered (s : State) (r : RemoteReq) : State :=
  match s.loan r.loan with
  | some l => s.postAll ((l.answered.filter r.sameGranule).map (fun x => ⟨s.now, rankUntimed, .op (.packetRoute x.packet)⟩))
  | none => s

/-- A loan sends a request to a home; `tag` goes with the answer. -/
def State.sendRequest (s : State) (l : Loan) (home : Nat) (rec : LoanRec) (data : List (BitVec 512)) (tag : Nat) : State :=
  let key := seqKey l.core home
  let seq := BitVec.ofNat 32 (sget 0 s.seqs key)
  let p : Packet :=
    { dst := home, src := ownDevice, engine := l.core, seq := seq, cls := l.cls % 4, response := false, record := rec
      data := data }
  let r : RemoteReq := { id := s.nextId, home := home, engine := l.core, seq := seq, loan := l.id, packet := p }
  (({ s with
    nextId := s.nextId + 1
    seqs := sset 0 s.seqs key ((sget 0 s.seqs key + 1) % 2 ^ 32)
    remoteReqs := s.remoteReqs ++ [r] }).modLoan l.id (fun m => { m with out := m.out ++ [(r.id, tag)] })).flushRequests
      l.core home

/-! ### Routing, responses, timers -/

/-- PACKET_ROUTE: a packet for this device goes to its engines; any other waits in the open buffer of the link that the
route table names (R388), or for a route, since no packet is lost for want of one (R389, log 88). -/
def execPacketRoute (p : Packet) (s : State) : Out :=
  .next (
    if p.dst = ownDevice then
      s.post ⟨s.now, rankUntimed, .op (if p.response then .packetResponse p else .homeRequest p)⟩
    else
      match sget none s.routes p.dst with
      | some link => s.bufferPacket link p
      | none => { s with unrouted := s.unrouted ++ [p] })

/-- The response record: status, old value and the count of bytes written (R388). -/
def responseRecord (status old count : Nat) : LoanRec := recordOf [(0, status), (64, old % 2 ^ 64), (128, count)]

/-- The data of a response: the granule read, and a further flit that names the columns that ECC could not correct when there
are any (log 21). -/
def responseData (bytes : Option (List Byte)) (bad : List Nat) : List (BitVec 512) :=
  (match bytes with
    | some bs => [BitVec.ofNat 512 (leNat bs)]
    | none => []) ++ (if bad.isEmpty then [] else [BitVec.ofNat 512 (columnBits bad)])

/-- PACKET_RESPONSE: the first response to an outstanding request answers its loan; any other is discarded (R389, R390). -/
def execPacketResponse (p : Packet) (s : State) : Out :=
  .next (match (s.outstanding p.engine p.src).find? (fun r => r.seq == p.seq && r.sent) with
    | none => s
    | some r =>
      let s := { s with remoteReqs := s.remoteReqs.filter (fun x => x.id != r.id) }.keepAnswered r
      let isRead := decide (recOp r.packet.record < 0x20) && (pieceIn r.packet).kind == 0
      let bad := columnList (p.data.getD isRead.toNat 0).toNat
      let bytes := if isRead then leBytes 64 (p.data.headD 0).toNat else leBytes 8 (recOpnd p.record)
      let s := s.modLoan r.loan (fun l => { l with bytes := l.bytes + recBits p.record 128 64 })
      (s.flushRequests p.engine p.src).post ⟨s.now, rankUntimed,
        .micro (.answer (.loan r.loan) r.id bytes bad (recOp p.record))⟩)

/-- END_TO_END_TIMER_EXPIRY: the request is sent again, after the answered parts of its granule; when the third resend also expires,
its loan fails with status 10 and its other requests are given up, those that wait with them (R389). -/
def execEndToEndTimerExpiry (home engine : Nat) (seq : BitVec 32) (s : State) : Out :=
  .next (match (s.outstanding engine home).find? (fun r => r.seq == seq && r.sent) with
    | none => s
    | some r =>
      if r.resends < 3 then
        ({ s.resendAnswered r with remoteReqs := s.remoteReqs.map (fun (x : RemoteReq) =>
            if x.id = r.id then { x with resends := x.resends + 1 } else x) }).launchRequest r
      else
        let mine := s.remoteReqs.filter (fun x => x.loan == r.loan)
        ((s.postAll (mine.map (fun x => ⟨s.now, rankUntimed, .micro (.answer (.loan r.loan) x.id [] [] 10)⟩))).dropRequests
          (fun x => x.loan == r.loan)).modLoan r.loan (fun l => { l with waits := [] }))

end Sys2Proof.Machine
end

