-- ==== Sys2Proof/Machine/Checker.lean ====
section
/-!
DEFINITION. HBM4 pseudo-channels: addresses (spec/15_translation_host.md R306), the history of committed commands and the
rules of Table 11-2 (spec/11_instr_dram.md R223), translation and ownership (R221, R222, spec/14_dram_system.md R294,
R295).
-/

namespace Sys2Proof.Machine

/-- Unit class of D. -/
def unitD : Nat := 7

abbrev noPseudo : Pseudo := {}

def State.pseudo (s : State) (pc : Nat) : Pseudo := sget noPseudo s.pcs pc

def State.modPseudo (s : State) (pc : Nat) (f : Pseudo → Pseudo) : State :=
  { s with pcs := sset noPseudo s.pcs pc (f (s.pseudo pc)) }

/-! ### Addresses (spec/15_translation_host.md R306) -/

def dpaByte (a : Nat) : Nat := a % 32
def dpaCol (a : Nat) : Nat := a / 2 ^ 15 % 32 * 2 + a / 32 % 2
def dpaPch (a : Nat) : Nat := a / 2 ^ 6 % 64
def dpaStack (a : Nat) : Nat := a / 2 ^ 12 % 8
def dpaBank (a : Nat) : Nat := a / 2 ^ 20 % 32
def dpaRow (a : Nat) : Nat := a / 2 ^ 25
def dpaPc (a : Nat) : Nat := dpaStack a * 64 + dpaPch a

/-- The address of a column's first byte. -/
def dpaOf (pc bank row col : Nat) : Nat :=
  row * 2 ^ 25 + bank % 32 * 2 ^ 20 + col / 2 % 32 * 2 ^ 15 + pc / 64 * 2 ^ 12 + pc % 64 * 2 ^ 6 + col % 2 * 2 ^ 5

/-- A DPA that memory backs. -/
def backed (dpa : Nat) : Bool := decide (dpa < Config.rowsPerBank * 2 ^ 25)

/-- Whether a column's stored check pattern reads as uncorrectable (R303). -/
def State.colBad (s : State) (dpa : Nat) : Bool := s.badCols.contains (dpa / 32)

/-- A column is written whole with new check bits. -/
def State.setColBad (s : State) (dpa : Nat) (bad : Bool) : State :=
  let r := s.badCols.filter (fun c => c != dpa / 32)
  { s with badCols := if bad then r ++ [dpa / 32] else r, softCols := s.softCols.filter (fun c => c != dpa / 32) }

/-- A read of a column counts the error that its code corrects, which stays stored until the column is written (R303,
log 28). -/
def State.countCol (s : State) (dpa : Nat) : State :=
  if s.softCols.contains (dpa / 32) then
    { s with eccCount := sset 0 s.eccCount (dpaStack dpa) (sget 0 s.eccCount (dpaStack dpa) + 1) }
  else s

/-! ### History -/

/-- The last arrival of the commands that satisfy a test. -/
def lastAt (p : DCmd → Bool) (h : List DCmd) : Option Int :=
  h.foldl (fun m c => if p c then
    (match m with
      | none => some c.at_
      | some t => some (max t c.at_)) else m) none

/-- At least `gap` cycles after the last arrival, if any. -/
def since (a : Int) (last : Option Int) (gap : Nat) : Bool :=
  match last with
  | none => true
  | some t => decide (t + gap ≤ a)

/-- The command with the greater arrival, the later entry on a tie. -/
def laterCmd : Option DCmd → DCmd → Option DCmd
  | none, c => some c
  | some d, c => if c.at_ < d.at_ then some d else some c

/-- The last command that satisfies a test. -/
def lastCmd (p : DCmd → Bool) (h : List DCmd) : Option DCmd := (h.filter p).foldl laterCmd none

/-- The row that a bank is open with, and the opening command. -/
def openBy (h : List DCmd) (bank : Nat) : Option DCmd :=
  match lastCmd (fun c => (c.bank == bank && (c.kind == .act || c.kind == .pre)) || c.kind == .prea) h with
  | some c => if c.kind = .act then some c else none
  | none => none

/-- Whether a channel is in self-refresh or power-down (R229). -/
def asleep (h : List DCmd) : Bool :=
  match lastCmd (fun c => c.kind == .sre || c.kind == .pde || c.kind == .srx || c.kind == .pdx) h with
  | some c => c.kind == .sre || c.kind == .pde
  | none => false

def inSelfRefresh (h : List DCmd) : Bool :=
  match lastCmd (fun c => c.kind == .sre || c.kind == .srx) h with
  | some c => c.kind == .sre
  | none => false

def sameGroup (a b : Nat) : Bool := a / 4 == b / 4

/-- The channel forms (R229). -/
def channelKind (k : DKind) : Bool := k == .sre || k == .srx || k == .pde || k == .pdx

/-- The pseudo-channels of a command: both of the channel for a channel form. -/
def pcsOf (c : DCmd) : List Nat := if channelKind c.kind then [c.pc / 2 * 2, c.pc / 2 * 2 + 1] else [c.pc]

def allBanks : List Nat := List.range 32

/-- Banks that code 15 concerns on one pseudo-channel. -/
def concerned (c : DCmd) : List Nat := if c.kind = .refpb then [c.bank] else allBanks

/-- The spacing of ACTs and REFpbs, and of column commands, by bank group. -/
def spaced (h : List DCmd) (c : DCmd) (p : DCmd → Bool) (near far : Nat) : Bool :=
  since c.at_ (lastAt (fun x => p x && sameGroup x.bank c.bank) h) near &&
    since c.at_ (lastAt (fun x => p x && !sameGroup x.bank c.bank) h) far

/-- Codes 1 to 17 of Table 11-2 that a command breaks on one pseudo-channel, in ascending order. `all` is the history of
the pseudo-channel and `ch` that of its channel, both without the command. Commands of the same arrival cycle on the sibling
pseudo-channel count for none, an MRS for code 17 neither (log 137). -/
def brokenCodes (tm : Config.Timing) (all ch : List DCmd) (c : DCmd) : List Nat :=
  let a := c.at_
  let h := all.filter (fun x => decide (x.at_ < a) && x.kind != .reserve)
  let ch := ch.filter (fun x => decide (x.at_ < a))
  let isAct := c.kind == .act
  let isCol := c.kind == .rd || c.kind == .wr
  let actRef := fun (x : DCmd) => x.kind == .act || x.kind == .refpb
  let col := fun (x : DCmd) => x.kind == .rd || x.kind == .wr
  let of := fun (k : DKind) (b : Nat) (x : DCmd) => x.kind == k && x.bank == b
  let precharge := fun (b : Nat) => lastAt (fun x => of .pre b x || x.kind == .prea) h
  let row := openBy h c.bank
  let kept := fun (b : Nat) => (openBy h b).isNone ||
    (since a (lastAt (of .act b) h) tm.tRAS && since a (lastAt (of .rd b) h) tm.tRTP &&
      since a (lastAt (of .wr b) h) tm.tWR)
  let kind := fun (k : DKind) => lastAt (fun x => x.kind == k)
  let rules : List (Nat × Bool) :=
    [(1, all.all (fun x => x.at_ != a)),
     (2, c.kind == .srx || c.kind == .pdx || !asleep h),
     (3, !isAct || row.isNone),
     (4, !isAct || since a (precharge c.bank) tm.tRP),
     (5, !isAct || since a (lastAt (of .act c.bank) h) tm.tRC),
     (6, !actRef c || spaced h c actRef tm.tRRDL tm.tRRDS),
     (7, !isAct || decide ((h.filter (fun x => x.kind == .act && decide (a - tm.tFAW + 1 ≤ x.at_))).length < 4)),
     (8, !actRef c || (since a (kind .ref h) tm.tRFC && since a (lastAt (of .refpb c.bank) h) tm.tRFCpb)),
     (9, !isCol || (match row with
        | some x => x.row == c.row
        | none => false)),
     (10, !isCol || since a (lastAt (of .act c.bank) h) tm.tRCD),
     (11, !isCol || spaced h c col tm.tCCDL tm.tCCDS),
     (12, c.kind != .rd || since a (kind .wr h) tm.tWTR),
     (13, c.kind != .wr || since a (kind .rd h) tm.tRTW),
     (14, (c.kind != .pre || kept c.bank) && (c.kind != .prea || allBanks.all kept)),
     (15, !(c.kind == .ref || c.kind == .refpb || c.kind == .sre || c.kind == .mrs) ||
        (concerned c).all (fun b => (openBy h b).isNone && since a (precharge b) tm.tRP)),
     (16, (c.kind != .srx || since a (kind .sre h) tm.tRFC) && (c.kind != .pdx || since a (kind .pde h) tm.tXP)),
     (17, since a (kind .srx ch) tm.tXS && since a (kind .pdx ch) tm.tXP && since a (kind .mrs ch) tm.tRFC)]
  if c.kind = .reserve then (if all.all (fun x => x.at_ != a) then [] else [1])
  else (rules.filter (fun r => !r.2)).map (fun r => r.1)

/-- The history of a pseudo-channel's channel. -/
def State.channelHist (s : State) (pc : Nat) : List DCmd :=
  (s.pseudo (pc / 2 * 2)).hist ++ (s.pseudo (pc / 2 * 2 + 1)).hist

/-- The codes that a command breaks on the pseudo-channels it goes to; `out` takes a history without the command. -/
def State.codesOver (s : State) (c : DCmd) (out : List DCmd → List DCmd) : List Nat :=
  (pcsOf c).flatMap (fun pc =>
    brokenCodes s.timing (out (s.pseudo pc).hist) (out (s.channelHist pc)) { c with pc := pc })

/-- The codes that a new command breaks. -/
def State.codesFor (s : State) (c : DCmd) : List Nat := s.codesOver c (fun l => l)

/-- The codes that a committed command breaks: its own entry in the history is left out, once. -/
def State.codesAgain (s : State) (c : DCmd) : List Nat :=
  s.codesOver c (fun l => (pcsOf c).foldl (fun l pc => l.erase { c with pc := pc }) l)

def lowest : List Nat → Option Nat
  | [] => none
  | a :: r => some (r.foldl min a)

/-- A command joins the history of its pseudo-channels. -/
def State.remember (s : State) (c : DCmd) : State :=
  (pcsOf c).foldl (fun t pc => t.modPseudo pc (fun p => { p with hist := p.hist ++ [{ c with pc := pc }] })) s

/-- Committed commands of the channel that arrive after a command. -/
def State.laterCmds (s : State) (c : DCmd) : List DCmd :=
  (s.channelHist c.pc).filter (fun x => decide (c.at_ < x.at_) && x.kind != .reserve)

/-- The lowest code that refuses a command: its own rules, then those of committed commands that arrive after it, with it
in the history (R223). Of several such commands the first counts, those of the even pseudo-channel before the odd one's, each in
the order of commitment (log 67). -/
def State.refusedBy (s : State) (c : DCmd) : Option Nat :=
  match lowest (s.codesFor c) with
  | some n => some n
  | none =>
    if c.kind = .reserve then none
    else
      let t := s.remember c
      (s.laterCmds c).findSome? (fun x => lowest (t.codesAgain x))

/-! ### Translation and ownership -/

/-- Translation under the partition's bank window: the code of the failure, or the command with its physical row
(R221). -/
def State.translate (s : State) (part : Nat) (c : DCmd) (colEnd : Nat) : Except Nat DCmd :=
  let w := sget ({} : BankWindow) s.windows (part * 512 + c.pc)
  let names := c.kind == .act || c.kind == .rd || c.kind == .wr
  if names && decide (w.count ≤ c.row) then .error 32
  else if (names || c.kind == .pre || c.kind == .refpb || c.kind == .mrs) && decide (32 ≤ c.bank) then .error 33
  else if (c.kind == .rd || c.kind == .wr) && decide (64 < colEnd) then .error 34
  else .ok (if names then { c with row := w.base + c.row } else c)

def Pseudo.entry (p : Pseudo) (a : Int) : CircEntry := sget {} p.circ (a % 64).toNat

/-- Every entry OPEN (R294). -/
def Pseudo.entirelyOpen (p : Pseudo) : Bool := (List.range 64).all (fun i => (sget ({} : CircEntry) p.circ i).open_)

/-- A bank of the open side (R294). -/
def Pseudo.openSide (p : Pseudo) (bank : Nat) : Bool := p.entirelyOpen || p.obank.getLsbD bank

/-- Ownership of an arrival cycle, with the open-bank mask (R222, R295). -/
def State.owned (s : State) (part : Nat) (c : DCmd) : Bool :=
  (pcsOf c).all (fun pc =>
    let p := s.pseudo pc
    let e := p.entry c.at_
    let named := c.kind == .act || c.kind == .pre || c.kind == .rd || c.kind == .wr || c.kind == .refpb
    let whole := c.kind == .ref || c.kind == .prea || c.kind == .mrs || channelKind c.kind
    !e.open_ && e.owner == part && !(named && p.obank.getLsbD c.bank) && !(whole && p.obank != 0))

/-- A timed command tested in the order of R224: the command as it goes, or cause and code. -/
def State.testTimed (s : State) (part : Nat) (c : DCmd) (colEnd : Nat) : Except (Nat × Nat) DCmd :=
  match s.translate part c colEnd with
  | .error n => .error (0x0C, n)
  | .ok c =>
    if !s.owned part c then .error (0x0A, 0)
    else
      match s.refusedBy c with
      | some n => .error (0x09, n)
      | none => .ok c

/-- The earliest cycle from `a` on, at most `n` cycles away, in which a command passes the rules and a test. -/
def State.earliest (s : State) (c : DCmd) (ok : Int → Bool) : Nat → Int → Option DCmd
  | 0, _ => none
  | n + 1, a =>
    let c := { c with at_ := a }
    if ok a && (s.refusedBy c).isNone then some c else s.earliest c ok n (a + 1)

/-- The bound of that search (log 13). -/
def searchBound : Nat := 8192

end Sys2Proof.Machine
end

