-- ==== Sys2Proof/Machine/Dram.lean ====
section
/-!
DEFINITION. The D slots (spec/11_instr_dram.md) and the HBM4 controller (spec/14_dram_system.md): arrivals, landings and
samples, the open-slot issuer, refresh and self-refresh, and the closing of banks at a resumption (R304).
-/

namespace Sys2Proof.Machine

/-! ### Issue (R216 to R228) -/

/-- `$tinfo` after a D trap (Table 11-3). -/
def infoDram (arr : Int) (rule burst pc bank : Nat) : Reg :=
  BitVec.ofNat 64 ((arr % 2 ^ 32).toNat + rule * 2 ^ 32 + burst * 2 ^ 38 + pc / 64 * 2 ^ 44 + pc % 64 * 2 ^ 48 +
    bank % 64 * 2 ^ 54)

/-- Every D form but `d.nop` needs the D grant (R216). -/
def dramSlot (s : State) (f : State → Out) : Out := whenGrant s s.me.gD f

/-- The update that a D form names (Table 11-1, R226). -/
def State.updateD (s : State) (d : BitVec 4) (u : BitVec 2) (f : BitVec 5) : State :=
  let v := s.me.regD d.toNat
  match u.toNat with
  | 0 => s
  | 1 => s.land unitD 2 (.d d.toNat (s.me.regL f.toNat))
  | 2 => s.land unitD 1 (.d d.toNat (incRow v f))
  | _ => s.land unitD 1 (.d d.toNat (incBank v f))

/-- Whether the update reads a poisoned l[f]. -/
def updatePoison (s : State) (u : BitVec 2) (f : BitVec 5) : Bool := u.toNat == 1 && s.me.poisonL f.toNat

/-- Commands tested one after another, each against those before it: the commands as they go, or the trap (R224). -/
def State.testAll (s : State) (part : Nat) (colEnd : Nat) :
    Nat → List DCmd → Except (Nat × Reg) (List DCmd)
  | _, [] => .ok []
  | j, c :: r =>
    match s.testTimed part c colEnd with
    | .error (cause, rule) => .error (cause, infoDram c.at_ rule j c.pc c.bank)
    | .ok d =>
      match (s.remember d).testAll part colEnd (if c.kind = .reserve then j else j + 1) r with
      | .error e => .error e
      | .ok ds => .ok (d :: ds)

/-- The slot's commands are tested; then they are committed with the bundle and the rest happens (R224). -/
def State.sendAll (s : State) (cmds : List DCmd) (colEnd : Nat) (go : State → List DCmd → State) : State :=
  match s.testAll s.me.part colEnd 0 cmds with
  | .error (cause, info) => s.issueTrap cause info
  | .ok ds => go (s.emit 0 rankSample (.micro (.dCommit ds))) ds

/-- The command of a d register, `n` cycles after the base arrival t+48 (R219). -/
def State.cmdOf (s : State) (kind : DKind) (d : Reg) (n burst : Nat) : DCmd :=
  { kind := kind, pc := dPc d, bank := dBank d, row := dRow d, col := 0, at_ := s.concI + Config.dArrival + n
    src := .timed (s.here unitD) burst }

/-- A form with one command and an update (Table 11-1). -/
def dramCommand (s : State) (g : Guard) (kind : DKind) (d : BitVec 4) (u : BitVec 2) (f : BitVec 5) : Out :=
  dramSlot s (fun s => whenGuard s g (fun s =>
    if updatePoison s u f then s.poisoned unitD f.toNat
    else s.sendAll [s.cmdOf kind (s.me.regD d.toNat) 0 0] 0 (fun s _ => s.updateD d u f)))

/-- `d.nop` (R53). -/
def execDNop (s : State) : Out := .next s

/-- `d.nop n`: n arrival cycles are reserved (R228). -/
def execDNopReserve (d : BitVec 4) (u : BitVec 2) (f : BitVec 5) (cnt : BitVec 8) (s : State) : Out :=
  dramSlot s (fun s => .next (
    if updatePoison s u f then s.poisoned unitD f.toNat
    else s.sendAll ((List.range cnt.toNat).map (fun i => s.cmdOf .reserve (s.me.regD d.toNat) i 0)) 0
      (fun s _ => s.updateD d u f)))

/-- `d.get` (R226). -/
def execDGet (d : BitVec 4) (f : BitVec 5) (s : State) : Out :=
  dramSlot s (fun s => .next (if s.me.poisonL f.toNat then s.poisoned unitD f.toNat else s.updateD d 1 f))

/-- `d.inc row` (R226). -/
def execDIncRow (d : BitVec 4) (f : BitVec 5) (s : State) : Out := dramSlot s (fun s => .next (s.updateD d 2 f))

/-- `d.inc bank` (R226). -/
def execDIncBank (d : BitVec 4) (f : BitVec 5) (s : State) : Out := dramSlot s (fun s => .next (s.updateD d 3 f))

def execDAct (g : Guard) (d : BitVec 4) (u : BitVec 2) (f : BitVec 5) (s : State) : Out := dramCommand s g .act d u f

def execDPre (g : Guard) (d : BitVec 4) (u : BitVec 2) (f : BitVec 5) (s : State) : Out := dramCommand s g .pre d u f

def execDPrea (g : Guard) (d : BitVec 4) (u : BitVec 2) (f : BitVec 5) (s : State) : Out := dramCommand s g .prea d u f

def execDRef (g : Guard) (d : BitVec 4) (u : BitVec 2) (f : BitVec 5) (s : State) : Out := dramCommand s g .ref d u f

def execDRefpb (g : Guard) (d : BitVec 4) (u : BitVec 2) (f : BitVec 5) (s : State) : Out :=
  dramCommand s g .refpb d u f

def execDSre (g : Guard) (d : BitVec 4) (u : BitVec 2) (f : BitVec 5) (s : State) : Out := dramCommand s g .sre d u f

def execDSrx (g : Guard) (d : BitVec 4) (u : BitVec 2) (f : BitVec 5) (s : State) : Out := dramCommand s g .srx d u f

def execDPde (g : Guard) (d : BitVec 4) (u : BitVec 2) (f : BitVec 5) (s : State) : Out := dramCommand s g .pde d u f

def execDPdx (g : Guard) (d : BitVec 4) (u : BitVec 2) (f : BitVec 5) (s : State) : Out := dramCommand s g .pdx d u f

/-- The bursts of a `d.rd` or `d.wr` from its D address word (R218). -/
def burstsOf (a : Reg) (ds : List DCmd) (flag : Bool) : List Burst :=
  (List.zip ds (List.range ds.length)).map (fun e =>
    { acc := { sh := addrShelf a, off := ((addrOffset a + 32 * e.2 : Nat) : Int), size := 32 }
      pc := e.1.pc, bank := e.1.bank, row := e.1.row, col := e.1.col
      final := e.2 + 1 == ds.length, flag := flag, half := false })

/-- A column form: poison, then the bursts in ascending order (R224, R231, R232). -/
def columnSlot (s : State) (g : Guard) (kind : DKind) (d : BitVec 4) (l : BitVec 5) (cnt : BitVec 6)
    (go : State → Reg → List DCmd → State) : Out :=
  dramSlot s (fun s => whenGuard s g (fun s =>
    if s.me.poisonL l.toNat then s.poisoned unitD l.toNat
    else
      let a := s.me.regL l.toNat
      let cmds := (List.range (cnt.toNat + 1)).map (fun j =>
        { s.cmdOf kind (s.me.regD d.toNat) (j * s.timing.tCCDL) j with col := addrColumn a + j })
      s.sendAll cmds (addrColumn a + cnt.toNat + 1) (fun s ds => go s a ds)))

/-- `d.rd`: burst j lands at t+Λ_R+j × tCCD_L (R231). -/
def execDRd (g : Guard) (d : BitVec 4) (l : BitVec 5) (cnt : BitVec 6) (last : Bool) (s : State) : Out :=
  columnSlot s g .rd d l cnt (fun s a ds =>
    (List.zip (burstsOf a ds last) (List.range ds.length)).foldl (fun t e =>
      t.emit (t.timing.lambdaR + e.2 * t.timing.tCCDL) (rankPerform unitD)
        (.op (.readBurstLanding (t.here unitD) e.2 e.1 0 false))) s)

/-- `d.wr`: burst j samples at t+1+j × tCCD_L (R232). -/
def execDWr (g : Guard) (d : BitVec 4) (l : BitVec 5) (cnt : BitVec 6) (rel : Bool) (s : State) : Out :=
  columnSlot s g .wr d l cnt (fun s a ds =>
    (List.zip (burstsOf a ds rel) (List.range ds.length)).foldl (fun t e =>
      t.emit (1 + e.2 * t.timing.tCCDL) rankSample (.op (.writeBurstSample (t.here unitD) e.2 e.1))) s)

/-- `d.mrs`: registers 12 to 15 (R234, R290). The command's column and row fields carry register and value. Reason 7 is looked
for after the poison and before the tests of the command (log 123). -/
def execDMrs (g : Guard) (d : BitVec 4) (l : BitVec 5) (s : State) : Out :=
  whenPriv s (fun s => dramSlot s (fun s => whenGuard s g (fun s =>
    let v := s.me.regL l.toNat
    let num := v.toNat / 2 ^ 8 % 32
    if s.me.poisonL l.toNat then s.poisoned unitD l.toNat
    else if 15 < num then s.refuse7 2
    else if num < 12 then s.refuse7 5
    else s.sendAll [{ s.cmdOf .mrs (s.me.regD d.toNat) 0 0 with col := num, row := v.toNat % 256 }] 0 (fun s _ => s))))

/-- Whether a window overlaps another partition's that is in force on the pseudo-channel (R235, log 117). -/
def State.windowClash (s : State) (part pc : Nat) (w : BankWindow) : Bool :=
  s.windows.any (fun e => e.1 % 512 == pc && e.1 / 512 != part && decide (0 < e.2.count) && decide (0 < w.count) &&
    decide (w.base < e.2.base + e.2.count) && decide (e.2.base < w.base + w.count))

/-- `d.win`: in force from t+1 (R235). -/
def execDWin (g : Guard) (d : BitVec 4) (l : BitVec 5) (s : State) : Out :=
  whenPriv s (fun s => dramSlot s (fun s => whenGuard s g (fun s =>
    let v := s.me.regL l.toNat
    let w : BankWindow := { base := v.toNat % 2 ^ 24, count := v.toNat / 2 ^ 24 % 2 ^ 24 }
    let pc := dPc (s.me.regD d.toNat)
    if s.me.poisonL l.toNat then s.poisoned unitD l.toNat
    else if Config.rowsPerBank < w.base + w.count then s.refuse7 3
    else if s.windowClash s.me.part pc w then s.refuse7 4
    else s.emit 1 rankLand (.micro (.window s.me.part pc w)))))

/-- A window is in force. Of two `d.win` of one partition for a pseudo-channel that issue in one cycle the later core's stands
(R235, log 117). -/
def State.setWindow (s : State) (part pc : Nat) (w : BankWindow) : State :=
  { s with windows := sset {} s.windows (part * 512 + pc) w }

/-! ### Commit and arrival (R219, R224, R281) -/

/-- A command is committed: it joins the history, its bank remembers who opened it (R304), and it will arrive, in the real cycle
and under the count label of now whatever a count step does (log 48). -/
def State.commitCmd (s : State) (c : DCmd) : State :=
  let who := match c.src with
    | .timed o _ => (s.ctxAt o.ctx).uid + 1
    | _ => 0
  let s := (s.remember c).modPseudo c.pc (fun p =>
    if c.kind = .act then { p with actBy := sset 0 p.actBy c.bank who } else p)
  s.after (c.at_ - s.concI).toNat rankSample (.op (.commandArrival c))

def State.dCommit (s : State) (cs : List DCmd) : State := cs.foldl State.commitCmd s

/-- The debt of a bank falls by 1, to no lower than −8 (R298). -/
def lowerDebt (p : Pseudo) (bank : Nat) : Pseudo := { p with debt := sset 0 p.debt bank (max (sget 0 p.debt bank - 1) (-8)) }

/-- A read burst's data joins its landing. -/
def fillLanding (o : Origin) (j : Nat) (data : BitVec 256) (bad : Bool) (d : Due) : Due :=
  match d.ev with
  | .op (.readBurstLanding o' j' b _ _) =>
    if o' = o ∧ j' = j then { d with ev := .op (.readBurstLanding o j b data bad) } else d
  | _ => d

/-- Bytes of a list from an offset on. -/
def bytesAt (bs : List Byte) (off n : Nat) : List Byte := (bs.drop off).take n

/-- Write a granule's bytes with their check bits: a column is poisoned when its data is; a partial write, and one whose values
come from the stored bytes (`merge`), reads the stored column first and leaves an uncorrectable one uncorrectable (R303). -/
def State.granuleWrite (s : State) (dpa : Nat) (cells : List (Nat × Byte)) (poison : List Nat) (merge : Bool := false) :
    State :=
  [0, 1].foldl (fun t k =>
    let base := dpa + 32 * k
    let mine := cells.filter (fun e => e.1 / 32 == k)
    if mine.isEmpty then t
    else
      let part := merge || decide (mine.length < 32)
      let t := if part then t.countCol base else t
      let bad := poison.contains k || (part && t.colBad base)
      let t := mine.foldl (fun u e => { u with mem := sset 0 u.mem (dpa + e.1) e.2 }) t
      t.setColBad base bad) s

/-- The columns of a granule that ECC cannot correct (R303). -/
def State.granuleBad (s : State) (dpa : Nat) : List Nat := [0, 1].filter (fun k => s.colBad (dpa + 32 * k))

/-- Bytes that stand from an offset on. -/
def cellsFrom (off : Nat) (bs : List Byte) : List (Nat × Byte) :=
  (List.zip bs (List.range bs.length)).map (fun e => (off + e.2, e.1))

/-- `min` and `max` of R160 on binary32 codes: −0 below +0, any NaN gives the canonical NaN. -/
def floatPick (max : Bool) (x y : Nat) : Nat :=
  let a := val32 x
  let b := val32 y
  if a == Num.nan || b == Num.nan then 0x7FC00000
  else if Num.lt true b a != max then y
  else x

/-- The value that an atomic stores (spec/12_instr_network.md R263, Table 12-7): none for a comparison that fails. `op` is
the loan op 0x10 to 0x17; `ty` 0 signed, 1 unsigned, 2 f32 (Table 12-5). -/
def atomicNew (op ty size : Nat) (old v cmp : Nat) : Option Nat :=
  let bits := 8 * size
  let x := old % 2 ^ bits
  let y := v % 2 ^ bits
  let less := fun (a b : Nat) => if ty = 0 then decide (intCode bits false a < intCode bits false b) else decide (a < b)
  match op with
  | 0x10 => some (if ty = 2 then rne32 ((val32 x).add (val32 y)) else (x + y) % 2 ^ bits)
  | 0x11 => some (if ty = 2 then floatPick false x y else if less y x then y else x)
  | 0x12 => some (if ty = 2 then floatPick true x y else if less x y then y else x)
  | 0x13 => some (Nat.land x y)
  | 0x14 => some (Nat.lor x y)
  | 0x15 => some (Nat.xor x y)
  | 0x16 => some y
  | _ => if x = cmp % 2 ^ bits then some y else none

/-- The adds of a scatter-accumulate applied to a granule's bytes, in order (spec/12_instr_network.md R262). -/
def accumulateBytes (size ty : Nat) : List (Nat × Nat) → List Byte → List Byte
  | [], bs => bs
  | (off, v) :: r, bs =>
    let new := (atomicNew 0x10 ty size (leNat (bytesAt bs off size)) v 0).getD 0
    accumulateBytes size ty r (bs.take off ++ leBytes size new ++ bs.drop (off + size))

/-- The offsets that some add covers. -/
def addCovers (size : Nat) (adds : List (Nat × Nat)) (k : Nat) : Bool :=
  adds.any (fun e => decide (e.1 ≤ k) && decide (k < e.1 + size))

/-- What a request does to its granule in one step: the state, the bytes it returns, and the columns that ECC could not
correct (R278, R303; spec/12_instr_network.md R263). -/
def State.granuleAct (s : State) (dpa : Nat) (k : ReqKind) : State × List Byte × List Nat :=
  match k with
  | .read => ((s.countCol dpa).countCol (dpa + 32), s.memRead dpa 64, s.granuleBad dpa)
  | .write bytes poison => (s.granuleWrite dpa bytes poison, [], [])
  | .atomic op off size ty v cmp =>
    let old := s.memRead (dpa + off) size
    let t := match atomicNew op ty size (leNat old) v cmp with
      | some x => s.granuleWrite dpa (cellsFrom off (leBytes size x)) [] true
      | none => s.countCol (dpa + off)
    (t, old, (s.granuleBad dpa).filter (fun c => c == off / 32))
  | .accumulate size ty adds poison =>
    let bs := accumulateBytes size ty adds (s.memRead dpa 64)
    (s.granuleWrite dpa ((cellsFrom 0 bs).filter (fun e => addCovers size adds e.1)) poison true, [], [])

/-- A request's column command arrives: a read returns both columns with the last, anything else takes effect with the
first (R278, R281). The answer goes to whoever waits. -/
def State.requestArrival (s : State) (pc id col : Nat) : State :=
  match (s.pseudo pc).queue.find? (fun r => r.id == id) with
  | none => s
  | some r =>
    if (r.kind == .read) == (col == 1) then
      let a := s.granuleAct r.dpa r.kind
      a.1.post ⟨s.now, rankUntimed, .micro (.answer r.owner id a.2.1 a.2.2 0)⟩
    else s

/-- Activity on a channel restarts its self-refresh timer (R302). -/
def State.activity (s : State) (pc : Nat) : State := s.modPseudo pc (fun p => { p with idleSince := s.now })

/-- A bank is closed by a precharge that is not its request's own, or all banks are: the requests that had opened it have to open
it again, and one whose columns have gone is served (R297). -/
def Pseudo.shutBank (p : Pseudo) (all : Bool) (bank : Nat) : Pseudo :=
  let hit := fun (r : Request) => r.opened && (all || dpaBank r.dpa == bank)
  { p with queue := (p.queue.filter (fun r => !(hit r && r.col1))).map (fun r => if hit r then { r with opened := false } else r) }

/-- COMMAND_ARRIVAL: what a command does at its pseudo-channel in its arrival cycle. -/
def execCommandArrival (c : DCmd) (s : State) : Out :=
  let s := if c.kind = .reserve then s else (pcsOf c).foldl State.activity s
  let dpa := dpaOf c.pc c.bank c.row c.col
  .next (match c.kind, c.src with
    | .rd, .timed o j =>
      let data := BitVec.ofNat 256 (leNat (s.memRead dpa 32))
      { s.countCol dpa with agenda := s.agenda.map (fillLanding o j data (s.colBad dpa)) }
    | .wr, .timed o j =>
      match s.wrData.find? (fun e => e.1 == o && e.2.1 == j) with
      | none => s
      | some (_, _, data, bad) =>
        let s := { s with wrData := s.wrData.filter (fun e => !(e.1 == o && e.2.1 == j)) }
        (s.memWrite dpa (leBytes 32 data.toNat)).setColBad dpa bad
    | .rd, .request id col => s.requestArrival c.pc id col
    | .wr, .request id col => s.requestArrival c.pc id col
    | .ref, _ => s.modPseudo c.pc (fun p => allBanks.foldl lowerDebt p)
    | .refpb, _ => s.modPseudo c.pc (fun p => lowerDebt p c.bank)
    | .pre, _ => s.modPseudo c.pc (fun p => p.shutBank false c.bank)
    | .prea, _ => s.modPseudo c.pc (fun p => p.shutBank true 0)
    | .srx, _ => (pcsOf c).foldl (fun t pc => t.modPseudo pc (fun p =>
        if inSelfRefresh (p.hist.filter (fun x => decide (x.at_ < c.at_))) then { p with debt := [] } else p)) s
    | .mrs, _ => s.modPseudo c.pc (fun p => { p with modes := sset 0 p.modes c.col (BitVec.ofNat 8 c.row) })
    | _, _ => s)

/-! ### Landings and samples (R231 to R233) -/

/-- `$tinfo` of a burst that fails: off is the offset of the burst's own access, o + 32j (R233, log 136). -/
def landInfo (f : ShelfFail) (b : Burst) (access j : Nat) : Reg := f.info b.acc.sh access unitD 1 j b.acc.off

/-- READ_BURST_LANDING: the checks, the bytes, the poison flag; with `.last` the publish (R231). -/
def execReadBurstLanding (o : Origin) (j : Nat) (b : Burst) (data : BitVec 256) (poison : Bool) (s : State) : Out :=
  .next ((match s.writeCheck o.ctx b.acc 32 with
    | some f => s.fault o j f.cause (landInfo f b 1 j)
    | none =>
      let s := s.shelfStore o.ctx b.acc (leBytes 32 data.toNat)
      let d := (s.ctxAt o.ctx).shelf b.acc.sh
      let s := if poison && !d.poisonAt true then s.changeShelf o.ctx b.acc.sh (d.setPoison true) else s
      if b.final && b.flag then s.post ⟨s.now, rankShelf unitD, .op (.shelfTransitionApply o b.acc.sh .pub)⟩ else s).touch
        o.ctx)

/-- The physical half that the first sample names goes with the later samples of its instruction, so that each tells whether an
`l.rel` has let go of it since (R191, R192, R232). -/
def nameHalf (o : Origin) (half : Bool) (d : Due) : Due :=
  match d.ev with
  | .op (.writeBurstSample o' j b) =>
    if o' = o then { d with ev := .op (.writeBurstSample o' j { b with half := half, named := true }) } else d
  | _ => d

/-- WRITE_BURST_SAMPLE: the checks, the bytes held for the burst's arrival; with `.rel` the reads of one half and its release
(R232, spec/09_instr_scratchpad.md R192). -/
def execWriteBurstSample (o : Origin) (j : Nat) (b : Burst) (s : State) : Out :=
  let half := if j = 0 then ((s.ctxAt o.ctx).shelf b.acc.sh).physical false else b.half
  let s := if j = 0 then { s with agenda := s.agenda.map (nameHalf o half) } else s
  let r := if b.flag && j != 0 then s.readNamed o.ctx b.acc 32 half b.freed else s.readCheck o.ctx b.acc 32
  .next ((match r.2 with
    | some f => r.1.fault o j f.cause (landInfo f b 0 j)
    | none =>
      let data := BitVec.ofNat 256 (leNat (if b.flag then r.1.namedBytes o.ctx b.acc half else r.1.shelfBytes o.ctx b.acc))
      let s := { r.1 with wrData := r.1.wrData ++ [(o, j, data, false)] }
      if b.final && b.flag && !b.freed then
        s.post ⟨s.now, rankShelf unitD, .op (.shelfTransitionApply o b.acc.sh (.readOut half))⟩
      else s).touch o.ctx)

/-! ### Requests and the open-slot issuer (R296, R297) -/

/-- A request joins those that entered before it or in its cycle. -/
def insertRequest (r : Request) : List Request → List Request
  | [] => [r]
  | x :: l => if r.ready < x.ready then r :: x :: l else x :: insertRequest r l

/-- A request enters its pseudo-channel's queue, no earlier than `ready`; the queue stands in the order of entry (R297).
Queues, orders and the one command a cycle are each pseudo-channel's own (log 128). -/
def State.enqueue (s : State) (owner : ReqOwner) (cls dpa : Nat) (kind : ReqKind) (ready : Int) : State × Nat :=
  let id := s.nextId
  let g := dpa / 64 * 64
  let r : Request := { id := id, owner := owner, cls := cls, dpa := g, kind := kind, ready := max ready s.concI, order := id }
  ({ s with nextId := id + 1 }.modPseudo (dpaPc g) (fun p => { p with queue := insertRequest r p.queue }), id)

/-- The guard G (R292). -/
def guardOfTable (t : Config.Timing) : Nat := [t.tFAW, t.tRTW, t.tWTR, t.tRRDL, t.tCCDL].foldl max 0

/-- Commands of partitions and of the controller; what the issuer places names a request, 0 for its own refresh. -/
def isTimed (c : DCmd) : Bool :=
  match c.src with
  | .request _ _ => false
  | _ => true

/-- The next command of a request: ACT, two column commands, PRE. -/
def Request.nextCmd (r : Request) (pc : Nat) (a : Int) : DCmd :=
  let c : DCmd := { kind := .pre, pc := pc, bank := dpaBank r.dpa, row := dpaRow r.dpa, col := 0, at_ := a
                    src := .request r.id 0 }
  let k : DKind := match r.kind with
    | .read => .rd
    | _ => .wr
  if !r.opened then { c with kind := .act }
  else if !r.col0 then { c with kind := k, col := dpaCol r.dpa / 2 * 2, src := .request r.id 0 }
  else if !r.col1 then { c with kind := k, col := dpaCol r.dpa / 2 * 2 + 1, src := .request r.id 1 }
  else c

def Request.wantsColumn (r : Request) : Bool := r.opened && !r.col1

/-- The next commands of requests in arrival order; a column command waits for those of earlier requests (`held`). -/
def orderedCmds (pc : Nat) (a : Int) (p : Pseudo) : Bool → List Request → List DCmd
  | _, [] => []
  | held, r :: l =>
    (if p.openSide (dpaBank r.dpa) && !(r.wantsColumn && held) then [r.nextCmd pc a] else []) ++
      orderedCmds pc a p (held || !r.col1) l

/-- Those of one class that have entered their queue (R297). -/
def classCmds (pc : Nat) (a : Int) (p : Pseudo) (cls : Nat) : List DCmd :=
  orderedCmds pc a p false (p.queue.filter (fun r => r.cls == cls && decide (r.ready < a)))

/-- Refresh commands of the open side, for banks whose debt lies in a range (R297, R299). -/
def refreshCmds (pc : Nat) (a : Int) (p : Pseudo) (urgent : Bool) : List DCmd :=
  let debt := fun (b : Nat) => sget (0 : Int) p.debt b
  let due := allBanks.filter (fun b => p.openSide b && decide (1 ≤ debt b))
  let c : DCmd := { kind := .refpb, pc := pc, bank := 0, row := 0, col := 0, at_ := a, src := .request 0 0 }
  let any6 := due.any (fun b => decide (6 ≤ debt b))
  if p.entirelyOpen && due.length == 32 then
    (if any6 == urgent then
      (if asleep p.hist && !inSelfRefresh p.hist then [{ c with kind := .pdx }] else [{ c with kind := .ref }])
    else [])
  else
    let mine := due.filter (fun b => decide (6 ≤ debt b) == urgent)
    if mine.isEmpty then []
    else if p.entirelyOpen && asleep p.hist && !inSelfRefresh p.hist then [{ c with kind := .pdx }]
    else mine.map (fun b => { c with bank := b })

/-- Both pseudo-channels of a channel entirely OPEN. -/
def State.channelOpen (s : State) (pc : Nat) : Bool :=
  (s.pseudo (pc / 2 * 2)).entirelyOpen && (s.pseudo (pc / 2 * 2 + 1)).entirelyOpen

/-- What the issuer might place, best first (R297, R299, R302). -/
def candidates (pc : Nat) (a : Int) (p : Pseudo) (chOpen : Bool) : List DCmd :=
  let wake : List DCmd :=
    if inSelfRefresh p.hist && chOpen && p.queue.any (fun r => decide (r.ready < a)) then
      [{ kind := .srx, pc := pc, bank := 0, row := 0, col := 0, at_ := a, src := .request 0 0 }]
    else []
  wake ++ refreshCmds pc a p true ++ [0, 1, 2, 3].flatMap (classCmds pc a p) ++ refreshCmds pc a p false

/-- Conditions 1, 2 and 4 of R296 on an arrival cycle. -/
def State.slotFree (s : State) (pc : Nat) (a : Int) : Bool :=
  let p := s.pseudo pc
  let e := p.entry a
  let donated := sget false p.donate e.owner
  (e.open_ || donated) && p.hist.all (fun c => c.at_ != a) &&
    p.hist.all (fun c => !isTimed c || c.kind == .reserve || decide (c.at_ ≤ a) ||
      decide (a + guardOfTable s.timing < c.at_))

/-- A placed command moves its request on; a PRE ends it. -/
def progress (p : Pseudo) (c : DCmd) : Pseudo :=
  match c.src with
  | .request id _ =>
    if id = 0 then p
    else { p with
      queue := (p.queue.map (fun r =>
        if r.id ≠ id then r
        else if !r.opened then { r with opened := true }
        else if !r.col0 then { r with col0 := true }
        else { r with col1 := true })).filter (fun r => !(r.id == id && c.kind == .pre)) }
  | _ => p

/-- OPEN_SLOT_ISSUE: in cycle a − 1 the issuer decides what arrives in cycle a (R296). -/
def execOpenSlotIssue (pc : Nat) (s : State) : Out :=
  let a := s.concI + 1
  let p := s.pseudo pc
  .next (if !s.slotFree pc a then s
    else
      match (candidates pc a p (s.channelOpen pc)).find? (fun c => (s.refusedBy c).isNone) with
      | none => s
      | some c => (s.modPseudo pc (fun p => progress p c)).commitCmd c)

/-- Whether the issuer has work on a pseudo-channel. -/
def Pseudo.needsService (p : Pseudo) : Bool :=
  !p.queue.isEmpty || p.debt.any (fun e => decide (1 ≤ e.2) && p.openSide e.1)

/-- Pseudo-channels whose issuer decides in this cycle; in a cycle that brings a gain, every one with an open side, since the gain
makes its refresh due (R299). -/
def State.served (s : State) (gain : Bool) : List Nat :=
  if gain then (List.range 512).filter (fun pc => allBanks.any (s.pseudo pc).openSide || (s.pseudo pc).needsService)
  else (s.pcs.filter (fun e => e.2.needsService)).map (fun e => e.1)

/-! ### Refresh (R298 to R302) -/

/-- tREFI as in force in this cycle (R301). -/
def State.refiNow (s : State) : Nat :=
  match s.refiNext with
  | some (c, v) => if c ≤ s.concI then v else s.refi
  | none => s.refi

/-- A forced refresh is committed: a PRE if the bank is open, then a REFpb, each at the earliest arrival cycle from `first` on
that passes the rules; false while no such cycle is in reach (log 13). -/
def State.commitForced (s : State) (pc bank : Nat) (first : Int) : State × Bool :=
  let a := max first (s.concI + 1)
  let c : DCmd := { kind := .refpb, pc := pc, bank := bank, row := 0, col := 0, at_ := a, src := .control }
  let isOpen := (openBy ((s.pseudo pc).hist.filter (fun x => decide (x.at_ < a))) bank).isSome
  let pre := if isOpen then s.earliest { c with kind := .pre } (fun _ => true) searchBound a else none
  let s1 := match pre with
    | some x => s.commitCmd x
    | none => s
  if isOpen && pre.isNone then (s, false)
  else
    match s1.earliest c (fun _ => true) searchBound (match pre with
      | some x => x.at_ + 1
      | none => a) with
    | some x => (s1.commitCmd x, true)
    | none => (s1, false)

/-- A forced refresh that cannot be committed yet is owed. -/
def State.forceOne (s : State) (pc bank : Nat) (first : Int) : State :=
  let r := s.commitForced pc bank first
  if r.2 then r.1 else r.1.modPseudo pc (fun p => { p with owed := p.owed ++ [(bank, first)] })

/-- The forced refreshes that a pseudo-channel owes are tried again. -/
def State.forceRetry (s : State) (pc : Nat) : State :=
  (s.pseudo pc).owed.foldl (fun t e => t.forceOne pc e.1 e.2) (s.modPseudo pc (fun p => { p with owed := [] }))

/-- The controller forces a refresh of a bank whose debt would reach 9, and raises the refresh-overdue trap for the contexts
with the D grant of every partition that owns an entry (R300); of several in one cycle the last in rising pseudo-channel and bank
gives `$tinfo` (log 129). -/
def State.forceRefresh (s : State) (pc bank : Nat) : State :=
  let s2 := s.forceOne pc bank (s.concI + Config.dArrival)
  let owners := (((List.range 64).map (fun i => sget ({} : CircEntry) (s.pseudo pc).circ i)).filter (fun e => !e.open_)).map
    CircEntry.owner
  let info := BitVec.ofNat 64 (s.conc % 2 ^ 32 + bank * 2 ^ 32 + pc / 64 * 2 ^ 44 + pc % 64 * 2 ^ 48)
  (s2.ctxs.map (fun e => e.1)).foldl (fun t k =>
    t.modCtx k (fun x =>
      if x.gD && owners.contains x.part && x.present then
        { x with ev := { x.ev with overdue := some info
                                   overdueMore := x.ev.overdue.isSome || x.ev.overdueMore
                                   overdueAt := if x.ev.overdue.isSome then x.ev.overdueAt else t.now } }
      else x)) s2

/-- The gain of one bank. -/
def State.gainBank (s : State) (pc bank : Nat) : State :=
  if 8 ≤ sget (0 : Int) (s.pseudo pc).debt bank then s.forceRefresh pc bank
  else s.modPseudo pc (fun p => { p with debt := sset 0 p.debt bank (sget 0 p.debt bank + 1) })

/-- The gain of one pseudo-channel, unless it is in self-refresh or leaves it in this cycle, from which its debt is 0 (R302). -/
def State.gainPseudo (s : State) (pc : Nat) : State :=
  let h := (s.pseudo pc).hist
  if inSelfRefresh (h.filter (fun c => decide (c.at_ ≤ s.concI))) || inSelfRefresh (h.filter (fun c => decide (c.at_ < s.concI)))
  then s
  else allBanks.foldl (fun t b => t.gainBank pc b) s

/-- REFRESH_DEBT_GAIN: at c mod tREFI = 0 every bank that is not in self-refresh gains 1 (R298). -/
def execRefreshDebtGain (s : State) : Out :=
  let s := { s with refi := s.refiNow, refiNext := match s.refiNext with
    | some (c, v) => if c ≤ s.concI then none else some (c, v)
    | none => none }
  .next ((List.range 512).foldl State.gainPseudo s)

/-- Whether the idle timer of a channel has run out: both pseudo-channels entirely OPEN, no request queued, no command
for 65,536 cycles, those before the pseudo-channels became entirely OPEN among them, not yet asleep (R302, log 13). -/
def State.idleLong (s : State) (ch : Nat) : Bool :=
  [2 * ch, 2 * ch + 1].all (fun pc =>
    let p := s.pseudo pc
    p.entirelyOpen && p.queue.all (fun r => decide (s.concI < r.ready)) && decide (max p.idleSince s.bootAt + 65536 ≤ s.now) &&
      !asleep p.hist)

/-- A channel whose timer has run out takes SRE, if the rules allow it in the next cycle. -/
def State.sleepChannel (s : State) (ch : Nat) : State :=
  if !s.idleLong ch then s
  else
    let c : DCmd := { kind := .sre, pc := 2 * ch, bank := 0, row := 0, col := 0, at_ := s.concI + 1, src := .request 0 0 }
    if (s.refusedBy c).isNone then s.commitCmd c else s

/-- SELF_REFRESH_TIMER: the controller places SRE on every channel whose timer has run out (R302). -/
def execSelfRefreshTimer (s : State) : Out := .next ((List.range 256).foldl State.sleepChannel s)

/-- REFRESH_RATE_CHANGE: the new tREFI applies from the next multiple of 2,535; contexts with the D grant take the event
(R301). -/
def execRefreshRateChange (double : Bool) (s : State) : Out :=
  let half := s.timing.tREFI / 2
  let c := (s.conc / half + 1) * half
  let s := { s with
    refi := s.refiNow
    refiNext := some ((c : Int), if double then half else s.timing.tREFI) }
  let info := BitVec.ofNat 64 (double.toNat + c % 2 ^ 32 * 2 ^ 32)
  .next ((s.ctxs.map (fun e => e.1)).foldl (fun t k =>
    t.modCtx k (fun x =>
      if x.gD && x.present then
        { x with ev := { x.ev with refresh := some info, refreshMore := x.ev.refresh.isSome || x.ev.refreshMore } }
      else x)) s)

/-! ### Bank states across a resumption (R304) -/

/-- Banks whose last ACT is the context's, named by its `uid`, and that no later committed PRE or PREA closes. -/
def Pseudo.openedBy (p : Pseudo) (uid : Nat) : List Nat :=
  allBanks.filter (fun b => sget 0 p.actBy b == uid + 1 && (openBy p.hist b).isSome)

/-- Close one bank at the earliest owned arrival cycle, from `first` on, that passes the rules: the cycle from which the bank is
idle, or none while no such cycle is in reach (log 13). -/
def State.closeBank (s : State) (k pc bank : Nat) (first : Int) : State × Option Int :=
  let a := max first (s.concI + 1)
  let c : DCmd := { kind := .pre, pc := pc, bank := bank, row := 0, col := 0, at_ := a, src := .control }
  let part := (s.ctxAt k).part
  let mine := fun (x : Int) =>
    let e := (s.pseudo pc).entry x
    !e.open_ && e.owner == part
  match s.earliest c mine searchBound a with
  | some x => (s.commitCmd x, some (x.at_ + s.timing.tRP))
  | none => (s, none)

/-- Real cycles until a concordance cycle. -/
def State.until (s : State) (c : Int) : Nat := (c - s.concI).toNat

/-- Close one bank that the context left open: its quiet bundle issues once the bank is idle; a PRE with no cycle in reach is
still to be committed, and the bundle waits for it. -/
def State.closeOne (s : State) (k pc bank : Nat) (first : Int) : State :=
  if !((s.pseudo pc).openedBy (s.ctxAt k).uid).contains bank then s
  else
    let r := s.closeBank k pc bank first
    r.1.modCtx k (fun c => match r.2 with
      | some x => { c with resumeAt := max c.resumeAt (s.now + s.until x) }
      | none => { c with closes := c.closes ++ [(pc, bank, first)] })

/-- Close every bank that the context left open. -/
def State.closeBanks (s : State) (k : Nat) : State :=
  s.pcs.foldl (fun t e => (e.2.openedBy (s.ctxAt k).uid).foldl (fun t b =>
    t.closeOne k e.1 b (s.concI + Config.dArrival)) t) s

/-- Precharges still to be committed are tried again. -/
def State.closeRetry (s : State) (k : Nat) : State :=
  (s.ctxAt k).closes.foldl (fun t e => t.closeOne k e.1 e.2.1 e.2.2) (s.modCtx k (fun c => { c with closes := [] }))

end Sys2Proof.Machine
end

