-- ==== Sys2Proof/Machine/Translate.lean ====
section
/-!
DEFINITION. Address translation (spec/15_translation_host.md R307 to R311): page-table entries, the walk, the translations
that a loan engine caches with their pins, and invalidations.
-/

namespace Sys2Proof.Machine

/-! ### Page-table entries and the walk (R307, R308) -/

/-- What a walk finds at one entry. -/
inductive WalkStep where
  | fault
  | table (addr : Nat)
  | leaf (pa : Nat) (w : Bool) (dev : Option Nat)
  deriving DecidableEq, Repr

/-- Bytes that an entry of a level maps. -/
def levelSize (level : Nat) : Nat := if level = 1 then 2 ^ 30 else if level = 2 then 2 ^ 21 else 2 ^ 16

/-- Index of a VA in the table of a level. -/
def levelIndex (level va : Nat) : Nat :=
  if level = 1 then va / 2 ^ 30 % 2 ^ 18 else if level = 2 then va / 2 ^ 21 % 2 ^ 9 else va / 2 ^ 16 % 2 ^ 5

def pteAddr (e : Nat) : Nat := e / 2 ^ 6 % 2 ^ 40 * 64

/-- Reserved bits of an entry (Table 15-2). -/
def pteReserved (e : Nat) : Bool :=
  e / 2 ^ 4 % 4 != 0 || e / 2 ^ 57 % 2 ^ 7 != 0 || (!e.testBit 3 && e / 2 ^ 46 % 2 ^ 11 != 0)

/-- One entry of the walk of R308, for the page that holds `va`. -/
def walkEntry (level va e : Nat) : WalkStep :=
  if e.testBit 0 && !e.testBit 1 && decide (level < 3) then .table (pteAddr e + 8 * levelIndex (level + 1) va)
  else if !e.testBit 1 && level == 3 then .fault
  else if !e.testBit 0 || pteReserved e || pteAddr e % levelSize level != 0 then .fault
  else
    let pa := pteAddr e + va % levelSize level
    if !e.testBit 3 && !backed pa then .fault
    else .leaf pa (e.testBit 2) (if e.testBit 3 then some (e / 2 ^ 46 % 2 ^ 11) else none)

/-! ### Cached translations and pins (R309) -/

/-- A cached translation that covers a page of a partition. -/
def Trans1.covers (t : Trans1) (part page : Nat) : Bool :=
  !t.dropped && t.part == part && decide (t.va ≤ page * 2 ^ 16) && decide (page * 2 ^ 16 < t.va + t.size)

def State.cached (s : State) (core part page : Nat) : Option Trans1 :=
  (s.coreAt core).cache.find? (fun t => t.covers part page)

/-- The mapping of one page by a cached translation. -/
def Trans1.mapping (t : Trans1) (page : Nat) : Mapping :=
  { page := page, pa := t.pa + (page * 2 ^ 16 - t.va), w := t.w, dev := if t.g then some t.dev else none }

def State.modCache (s : State) (core : Nat) (f : List Trans1 → List Trans1) : State :=
  s.modCore core (fun c => { c with cache := f c.cache })

def State.pin (s : State) (core id : Nat) : State :=
  s.modCache core (fun l => l.map (fun t => if t.id = id then { t with pins := t.pins + 1 } else t))

/-- A finished walk joins the cache. -/
def State.addTrans (s : State) (core part va level pa : Nat) (w : Bool) (dev : Option Nat) : State :=
  let size := levelSize level
  let t : Trans1 :=
    { id := s.nextId, part := part, va := va / size * size, size := size, pa := pa - va % size, w := w, g := dev.isSome
      dev := dev.getD 0, pins := 0, dropped := false }
  { s with nextId := s.nextId + 1 }.modCache core (fun l => l ++ [t])

/-! ### Invalidations (R138, R310) -/

/-- What an invalidation waits for is gone. -/
def Inval.without (i : Inval) (core id : Nat) : Inval := { i with waits := i.waits.filter (fun w => w != (core, id)) }

/-- A pin is dropped; a dropped translation without pins leaves the cache, and the invalidations that waited for it may
complete. -/
def State.unpin (s : State) (core id : Nat) : State :=
  let s := s.modCache core (fun l => l.map (fun t => if t.id = id then { t with pins := t.pins - 1 } else t))
  let gone := (s.coreAt core).cache.filter (fun t => t.id == id && t.dropped && t.pins == 0)
  if gone.isEmpty then s
  else
    let s := s.modCache core (fun l => l.filter (fun t => t.id != id))
    let ready := s.invals.filter (fun i => i.waits == [(core, id)])
    ({ s with invals := s.invals.map (fun (i : Inval) => i.without core id) }).postAll
      (ready.map (fun (i : Inval) => ⟨s.now, rankUntimed, .op (.invalidationComplete i.id)⟩))

def State.unpinAll (s : State) (core : Nat) (ids : List Nat) : State := ids.foldl (fun t i => t.unpin core i) s

/-- Whether an invalidation names a translation: its partition, and the VA it covers if one is given. -/
def Trans1.named (t : Trans1) (part : Nat) (va : Option Nat) : Bool :=
  !t.dropped && t.part == part &&
    (match va with
     | none => true
     | some a => decide (t.va ≤ a) && decide (a < t.va + t.size))

/-- Drop the matching translations of one engine; those still pinned, which the invalidation waits for. -/
def State.dropTrans (s : State) (core part : Nat) (va : Option Nat) : State × List (Nat × Nat) :=
  let l := (s.coreAt core).cache
  let held := l.filter (fun t => t.named part va && decide (0 < t.pins))
  (s.modCache core (fun l =>
      (l.filter (fun t => !(t.named part va && t.pins == 0))).map
        (fun t => if t.named part va then { t with dropped := true } else t)),
    held.map (fun t => (core, t.id)))

/-- A loan of the engine that is still translating releases its pins and translates its whole extent again (R310). -/
def State.restartWalks (s : State) (core part : Nat) : State :=
  let mine := s.loans.filter (fun l => l.core == core && l.part == part && l.stage == .walking)
  mine.foldl (fun t l =>
    let t := { t with loans := t.loans.map (fun (m : Loan) =>
      if m.id = l.id then { m with stage := .waiting, trans := [], pins := [], pages := [], walk := none } else m) }
    (t.unpinAll core l.pins).post ⟨t.now, rankUntimed, .micro (.kick l.id)⟩) s

/-- An invalidation takes effect in the engines of `cores`. -/
def State.invalidate (s : State) (cores : List Nat) (part : Nat) (va : Option Nat) (ctx : Option (Nat × Nat))
    (fn : Option Nat) : State :=
  let id := s.nextId
  let s := { s with nextId := id + 1 }
  let r := cores.foldl (fun (r : State × List (Nat × Nat)) core =>
    let d := (r.1.restartWalks core part).dropTrans core part va
    (d.1, r.2 ++ d.2)) (s, [])
  let s := { r.1 with invals := r.1.invals ++ [{ id := id, ctx := ctx, fn := fn, waits := r.2 }] }
  if r.2.isEmpty then s.post ⟨s.now, rankUntimed, .op (.invalidationComplete id)⟩ else s

/-- `k.inval` at t+1: the token is BUSY, and the core's engine drops what the slot names (R138). -/
def State.invalStart (s : State) (o : Origin) (tk : Nat) (va : Option Nat) : State :=
  let c := s.ctxAt o.ctx
  (s.setCtx o.ctx (c.setToken tk { st := .busy, loan := s.nextId })).invalidate [coreOf o.ctx] c.part va
    (some (o.ctx, tk)) none

/-- A token takes its end state, and so does the quiet record's copy when it belongs to the same loan
(spec/01_machine_state.md R31, R35 step 2). -/
def Context.endToken (c : Context) (tk loan : Nat) (st : TokenState) (status : Nat) : Context :=
  let r : Token := sget {} c.record.toks tk
  let c := if (c.token tk).loan = loan && (c.token tk).st == .busy then
      c.setToken tk { (c.token tk) with st := st, status := status } else c
  if r.loan = loan && r.st == .busy then
    { c with record := { c.record with toks := sset {} c.record.toks tk { r with st := st, status := status } } }
  else c

end Sys2Proof.Machine
end

