-- ==== Sys2Proof/Machine/Loan.lean ====
section
/-!
DEFINITION. Loans (spec/12_instr_network.md R259 to R268): the sample of a record, and the steps of the loan engine from a
loan's beginning to its completion. Each row of the engine carries the loan that State names one stage on.
-/

namespace Sys2Proof.Machine

/-! ### The record's sample (R259, R37, R342) -/

/-- The log entry that a re-issued loan finds at its ordinal (spec/01_machine_state.md R37). -/
def Context.logged (c : Context) (ordinal : Nat) : Option LogEntry := c.log.find? (fun e => e.ordinal == ordinal)

/-- The address fields that a log entry keeps: the operand of a scatter-accumulate is one. -/
def logOpnd (r : LoanRec) : Nat := if recOp r = 4 then recOpnd r else 0

/-- Whether a logged loan has the fields of a record (R37). -/
def LogEntry.same (e : LogEntry) (r : LoanRec) : Bool :=
  e.op.toNat == recOp r && e.tk == recTk r && e.src.toNat == recSrc r && e.dst.toNat == recDst r &&
    e.opnd.toNat == logOpnd r

/-- The page-table root of a context's launch. -/
def State.rootOf (s : State) (k : Nat) : Nat :=
  match s.launches.find? (fun l => l.id == (s.ctxAt k).launch) with
  | some l => recBits l.raw 64 46
  | none => (sget ({} : Partition) s.parts (s.ctxAt k).part).root

/-- A loan waits for the engine's next turn; how long is free (log 6). -/
def State.loanLater (s : State) (id : Nat) : State :=
  s.drawn.after (1 + Config.untimedDelay s.free) rankUntimed (.micro (.kick id))

/-- Own shelves that a record reads: its source, and the indices of a gather or scatter. -/
def ownSources (r : LoanRec) : List Nat :=
  let op := recOp r
  (if addrKind (recSrc r) = 0 && !flatOp op && op != 5 then [wordShelf (recSrc r)] else []) ++
    (if op = 2 ∨ op = 3 ∨ op = 4 then [wordShelf (recOpnd r)] else [])

/-- The front half of a context's shelf in this cycle. -/
def State.frontNow (s : State) (k sh : Nat) : Front :=
  let d := s.seen k sh
  { sh := sh, d := d, bytes := s.poolRead (coreOf k) ((s.ctxAt k).halfAddr d (d.physical false) 0) (d.len.toNat * 64)
    bad := (s.coreAt (coreOf k)).poolBad }

/-- The sources of a record that may be read already at its sample: the loan reads these bytes, whatever becomes of the half
(spec/13_memory_model.md R287, log 118). -/
def State.frontsOf (s : State) (k : Nat) (r : LoanRec) : List Front :=
  ((ownSources r).eraseDups.map (s.frontNow k)).filter (fun f => readable (f.d.stateAt false))

/-- The loan of a record that passed its tests; `sup`: its bundle issued in supervisor mode. -/
def State.newLoan (s : State) (o : Origin) (r : LoanRec) (sup : Bool) : Loan :=
  let c := s.ctxAt o.ctx
  let e := if sup then none else c.logged c.ordinal
  { id := s.nextId, owner := .context o.ctx, core := coreOf o.ctx, part := c.part, root := s.rootOf o.ctx, raw := r
    u := s.concI - 1, cls := max (recClass r) c.cls.toNat, stamp := c.qrec
    ordinal := if sup then none else some c.ordinal
    fromLog := e.filter (fun x => x.same r), mismatch := e.any (fun x => !x.same r)
    fence := c.fence.map (fun f => f.1), round := s.issueRound o.ctx
    candidate := if recOp r = 6 && depAnc r then some c.record else none, sampled := s.now, fronts := s.frontsOf o.ctx r }

/-- The sample of an `n.loan`'s record at t+1: the shelf checks, the tests, the ordinal; then the token is BUSY and the loan
enters the engine (R259). The mode is that of the loan's bundle, which the third delay bundle of `k.rti` shares with the
handler (spec/06_instr_control.md R135). -/
def State.loanRecord (s : State) (o : Origin) (acc : Access) (sup : Bool) : State :=
  let a := s.readCheck o.ctx acc 64
  match a.2 with
  | some f => a.1.fault o 0 f.cause (f.info acc.sh 0 unitN 0 0 acc.off)
  | none =>
    let s := a.1
    let c := s.ctxAt o.ctx
    let r : LoanRec := BitVec.ofNat 512 (leNat (s.shelfBytes o.ctx acc))
    let free := fun (m : Store Token) => (List.range 8).all (fun i => (sget ({} : Token) m i).st == .free)
    match recordDetail r ((c.token (recTk r)).st == .free) sup (free c.record.toks) with
    | some d => s.fault o 0 0x01 (infoIllegal o.word o.slot { why := 7, detail := d })
    | none =>
      if !sup && decide (256 ≤ c.ordinal) then
        s.fault o 0 0x10 (BitVec.ofNat 64 (1 + c.qcount % 2 ^ 32 * 2 ^ 32))
      else
        let l := s.newLoan o r sup
        let c := c.setToken (recTk r) { st := .busy, loan := l.id, round := l.round + Config.deliveryRounds }
        (({ s with nextId := s.nextId + 1, loans := s.loans ++ [l] }).setCtx o.ctx
          { c with ordinal := if sup then c.ordinal else c.ordinal + 1 }).loanLater l.id

/-! ### Order among loans (R268) -/

/-- Loans of the same context or queue that were issued before. -/
def State.earlierLoans (s : State) (l : Loan) : List Loan :=
  s.loans.filter (fun m => m.owner == l.owner && decide (m.id < l.id))

/-- A loan may begin: in issue order, after the reads of earlier acquire loans and after what a fence names; on a
deterministic core after every earlier loan of the core (R268, spec/16_scheduling.md R329). -/
def State.mayBegin (s : State) (l : Loan) : Bool :=
  (s.earlierLoans l).all (fun m =>
    m.stage != .waiting && (recOrd m.raw != 1 || m.readsDone || m.stage == .finished)) &&
    s.loans.all (fun m => !l.fence.contains m.id || m.stage == .finished) &&
    (!(s.coreAt l.core).det || s.loans.all (fun m => m.core != l.core || decide (l.id ≤ m.id) || m.stage == .finished))

/-- Every earlier loan of the same owner has performed. -/
def State.earlierDone (s : State) (l : Loan) : Bool := (s.earlierLoans l).all (fun m => m.stage == .finished)

/-- A release loan writes after every earlier loan has performed (R268). A write performs at one moment for every scope
(spec/13_memory_model.md R284, log 140). -/
def State.mayWrite (s : State) (l : Loan) : Bool := recOrd l.raw != 2 || s.earlierDone l

/-- Loans that wait for others, deposits before their receipt among them, look again in the next cycle, in which they see the
shelves as the others left them (spec/01_machine_state.md R29). -/
def State.kickWaiting (s : State) : State :=
  s.postAll ((s.loans.filter (fun l => l.stage == .waiting || l.stage == .read || (l.stage == .writing && recOp l.raw == 6))).map
    (fun l => ⟨s.now + 1, rankUntimed, .micro (.kick l.id)⟩))

/-- The loan has its status and goes to the row LOAN_COMPLETION; its first fault stands. -/
def State.endLoan (s : State) (id status : Nat) : State :=
  (s.modLoan id (fun l => { l with
    stage := .completing, readsDone := true, status := if l.status = 0 then status else l.status })).post
    ⟨s.now, rankUntimed, .op (.loanCompletion id)⟩

/-! ### Own and local scratchpads (R261, R263, spec/13_memory_model.md R280, R287, R288) -/

/-- The context whose scratchpad an address of kind 0 names. -/
def Loan.ctx? (l : Loan) : Option Nat :=
  match l.owner with
  | .context k => some k
  | _ => none

/-- What a loan reads of an own source: the half as it stood at the sample, or one that could not be read then as it stands
in this cycle (spec/13_memory_model.md R287). -/
def Loan.front (s : State) (l : Loan) (k sh : Nat) : Front := (l.fronts.find? (fun f => f.sh == sh)).getD (s.frontNow k sh)

/-- The physical half that a front stood in. -/
def Front.half (f : Front) : Bool := f.d.physical false

/-- Whether the elements of a front stood on an uncorrectable error at the sample, or their physical half, if it has not been claimed
since, is poisoned or holds such an error there (spec/18_integrity_repair.md R354; log 118). -/
def State.halfBad (s : State) (k : Nat) (f : Front) (as : List Int) (z : Nat) : Bool :=
  let d := s.seen k f.sh
  let back := d.physical false != f.half
  let addr := fun (a : Int) => (s.ctxAt k).halfAddr f.d f.half a.toNat
  as.any (fun a => badWords f.bad (addr a) z) ||
    (d.stateAt back != .filling && (d.poisonAt back || as.any (fun a => s.poolError k (addr a) z)))

/-- Status of an untimed read of elements at offsets of a front half: 3 state, 4 range, 5 poison. Untimed accesses see the
descriptor with which the cycle began (R29). -/
def State.frontStatus (s : State) (k : Nat) (f : Front) (as : List Int) (z : Nat) : Nat :=
  if as.isEmpty then 0
  else if !readable (f.d.stateAt false) then 3
  else if as.any (fun a => decide (a < 0) || decide ((f.d.len.toNat * 64 : Nat) < a + z)) then 4
  else if f.d.fp || s.halfBad k f as z then 5
  else 0

/-- Status of an untimed write of elements at offsets of a back half. -/
def State.backStatus (s : State) (k sh : Nat) (as : List Int) (z : Nat) : Nat :=
  let d := s.seen k sh
  if as.isEmpty then 0
  else if d.stateAt true != .filling then 3
  else if as.any (fun a => decide (a < 0) || decide ((d.len.toNat * 64 : Nat) < a + z)) then 4
  else 0

/-- Set the flag of a physical half. One that a transition of the cycle made EMPTY stays clear, since accesses come before
transitions (spec/01_machine_state.md R29, spec/09_instr_scratchpad.md R190). -/
def Shelf.poisonHalf (d : Shelf) (half : Bool) : Shelf :=
  let back := d.physical false != half
  if d.stateAt back = .empty then d else d.setPoison back

/-- A read that finds an uncorrectable pool error sets the flag of the half that it reads (spec/18_integrity_repair.md R354). -/
def State.markHalf (s : State) (k sh st : Nat) (half : Bool) : State :=
  let d := (s.ctxAt k).shelf sh
  let e := d.poisonHalf half
  if st = 5 && d != e then s.changeShelf k sh e else s

/-- The same for the half of a front, unless it has been claimed since (log 118). -/
def State.markFront (s : State) (k : Nat) (f : Front) (st : Nat) : State :=
  let d := s.seen k f.sh
  if d.stateAt (d.physical false != f.half) = .filling then s else s.markHalf k f.sh st f.half

/-- Write bytes at offsets of a back half; poisoned data sets its flag (spec/01_machine_state.md R30). `own`: the change
counts as the context's own (R35 step 3). -/
def State.backWrite (s : State) (k sh : Nat) (cells : List (Nat × Byte)) (poison own : Bool) : State :=
  let c := s.ctxAt k
  let d := s.seen k sh
  let e := (c.shelf sh).poisonHalf (d.physical true)
  let s := s.poolCells (coreOf k) (cells.map (fun e => (c.halfAddr d (d.physical true) e.1, e.2)))
  if poison && c.shelf sh != e then (if own then s.changeShelf k sh e else s.modCtx k (fun c => c.setShelf sh e))
  else s

/-- A loan that was under way at an `l.pub` of its own destination writes no more there from the next cycle on: status 3, whatever
the shelf has become since (spec/13_memory_model.md R287). One whose record was sampled in the cycle of the publish was under way,
since the sample saw the shelf before it (spec/01_machine_state.md R29). -/
def State.shut (s : State) (l : Loan) (k sh : Nat) : Bool :=
  let p := (s.ctxAt k).publishedBefore sh s.now
  l.ctx? == some k && decide (0 < p) && decide (l.sampled ≤ p)

/-- Status of a loan's write of elements at offsets of a back half. -/
def State.writeStatus (s : State) (l : Loan) (k sh : Nat) (as : List Int) (z : Nat) : Nat :=
  if s.shut l k sh && !as.isEmpty then 3 else s.backStatus k sh as z

/-- Status of the read of a back half by an atomic or an add: 5 where the half is poisoned or its bytes hold an uncorrectable
error (spec/18_integrity_repair.md R354). -/
def State.backPoison (s : State) (k sh : Nat) (as : List Int) (z : Nat) : Nat :=
  let c := s.ctxAt k
  let d := s.seen k sh
  if !as.isEmpty && (d.poisonAt true || as.any (fun a => s.poolError k (c.halfAddr d (d.physical true) a.toNat) z)) then 5
  else 0

/-- The old bytes of an element of a back half. -/
def State.backBytes (s : State) (k sh off z : Nat) : List Byte :=
  let d := s.seen k sh
  s.poolRead (coreOf k) ((s.ctxAt k).halfAddr d (d.physical true) off) z

/-- The context that a kind 2 word names on this device, when it is part of the issuing launch (R257). -/
def State.launchMate (s : State) (launch w : Nat) : Option Nat :=
  (wordCtx w).filter (fun k =>
    let c := s.ctxAt k
    c.present && c.launch == launch)

def Loan.launch (s : State) (l : Loan) : Nat :=
  match l.ctx? with
  | some k => (s.ctxAt k).launch
  | none => 0

/-- The arrival of an arrive at a barrier of this device: status 12 when it is unconfigured (R265, R129). -/
def State.arriveAt (s : State) (w : Nat) : State × Nat :=
  let key := wordDie w * 256 + wordBarrier w
  let b := s.barrier key
  if b.expected = 0 then (s, 12) else ({ s with bars := sset {} s.bars key (b.arrive s.now) }, 0)

/-- A publish of a context's shelf as an untimed transition: status 3 when it is illegal (R265). -/
def State.publishAt (s : State) (k sh : Nat) (own : Bool) : State × Nat :=
  match s.untimedTransition k sh .pub own with
  | some s' => (s', 0)
  | none => (s, 3)

/-! ### Ownership tokens of this home (spec/15_translation_host.md R312) -/

def regionOf (dpa : Nat) : Nat := dpa / 2 ^ 21

def State.holder (s : State) (region : Nat) : Option Nat := sget none s.owners region

/-- Accesses that need the region's token at their home; what an engine reads or writes for itself is none of them. -/
def needsToken (op : Nat) : Bool := op == 1 || op == 2 || op == 3 || op == 5 || op == 6

/-- Whether the accesses of a loan need the token. -/
def Loan.needsToken (l : Loan) : Bool :=
  match l.owner with
  | .job _ => false
  | _ => Sys2Proof.Machine.needsToken (recOp l.raw)

/-- The device that asks for a loan. -/
def Loan.device (l : Loan) : Nat :=
  match l.owner with
  | .peer p => p.src
  | _ => ownDevice

/-- Whether an access of a device to a region is under way at this home (R312). -/
def State.regionBusy (s : State) (dev region : Nat) : Bool :=
  s.pcs.any (fun e => e.2.queue.any (fun r => regionOf r.dpa == region &&
    (match r.owner with
     | .loan id => s.loans.any (fun l => l.id == id && l.device == dev && l.out.any (fun x => x.1 == r.id))
     | _ => false)))

/-- Whether a release of the region by the device waits for such accesses: what arrives after it finds no token. -/
def State.releasing (s : State) (dev region : Nat) : Bool :=
  s.loans.any (fun l => l.frees == some region && l.device == dev)

/-- Whether an access of a device has the region's token (R312). -/
def State.mayTouch (s : State) (dev region : Nat) : Bool := s.holder region == some dev && !s.releasing dev region

/-- An acquire takes a free token or one its device holds; otherwise it waits. -/
def State.acquireToken (s : State) (l : Loan) (region : Nat) : State :=
  let h := s.holder region
  if h = none ∨ (h = some l.device ∧ s.releasing l.device region = false) then
    ({ s with owners := sset none s.owners region (some l.device) }.modLoan l.id (fun m => { m with wants := none })).post
      ⟨s.now, rankUntimed, .micro (.answer (.loan l.id) 0 [] [] 0)⟩
  else { s with nextId := s.nextId + 1 }.modLoan l.id (fun m => { m with wants := some (region, s.nextId) })

/-- The earliest acquire that waits for a region. -/
def State.nextWanting (s : State) (region : Nat) : Option Loan :=
  (s.loans.filter (fun l => match l.wants with
    | some w => w.1 == region
    | none => false)).foldl (fun (b : Option Loan) l =>
      match b with
      | none => some l
      | some m => if (l.wants.map (fun w => w.2)).getD 0 < (m.wants.map (fun w => w.2)).getD 0 then some l else b) none

/-- A release returns the token and the next waiting acquire gets it; status 7 when the device does not hold it. -/
def State.releaseToken (s : State) (dev region : Nat) : State × Nat :=
  if s.holder region ≠ some dev then (s, 7)
  else
    let s := { s with owners := sset none s.owners region none }
    match s.nextWanting region with
    | none => (s, 0)
    | some l => (s.acquireToken l region, 0)

/-! ### Accesses to granules -/

/-- The mapping of a VA by the loan's translations. -/
def Loan.place (l : Loan) (va : Nat) : Mapping :=
  (l.trans.find? (fun m => m.page == va / 2 ^ 16)).getD { page := va / 2 ^ 16, pa := 0, w := false, dev := none }

def Loan.dpa (l : Loan) (va : Nat) : Nat := (l.place va).pa + va % 2 ^ 16

/-- A local request of a loan; it enters its queue from u + 48 on (spec/14_dram_system.md R297). -/
def State.localAccess (s : State) (l : Loan) (dpa : Nat) (k : ReqKind) (tag : Nat) : State :=
  let r := s.enqueue (.loan l.id) l.cls dpa k (l.u + Config.dArrival)
  r.1.modLoan l.id (fun m => { m with out := m.out ++ [(r.2, tag)] })

/-- An access that is refused at its home before it reaches memory. -/
def State.refuseAccess (s : State) (id status : Nat) : State :=
  let a := s.nextId
  ({ s with nextId := a + 1 }.modLoan id (fun m => { m with out := m.out ++ [(a, 0)] })).post
    ⟨s.now, rankUntimed, .micro (.answer (.loan id) a [] [] status)⟩

/-- Outstanding 64-byte requests of an engine. -/
def State.engineOut (s : State) (core : Nat) : Nat := ((s.loans.filter (fun l => l.core == core)).map (fun l => l.out.length)).sum

/-- Whether a core's engine has its 8,192 requests outstanding (spec/01_machine_state.md Table 01-8, log 98). -/
def State.engineFull (s : State) (core : Nat) : Bool := decide (core < 288) && decide (Config.loanRequests ≤ s.engineOut core)

/-- One request goes out: a granule of this device that a span-global page names needs its region's token
(spec/15_translation_host.md R312). -/
def State.askNow (s : State) (id : Nat) (a : Ask) : State :=
  match s.loan id with
  | none => s
  | some l =>
    match a with
    | .granule global dpa k tag =>
      if global && l.needsToken && !s.mayTouch ownDevice (regionOf dpa) then s.refuseAccess id 7
      else s.localAccess l dpa k tag
    | .packet home rec data tag => s.sendRequest l home rec data tag

/-- One request of a loan, which waits while its engine has all the requests outstanding that it may have. -/
def State.ask (s : State) (id : Nat) (a : Ask) : State :=
  match s.loan id with
  | none => s
  | some l =>
    if s.engineFull l.core then s.modLoan id (fun m => { m with waits := m.waits ++ [a] }) else s.askNow id a

/-- The requests of an access to a granule at its home: one here, and as many packets as it needs elsewhere. -/
def Loan.asks (l : Loan) (dev : Option Nat) (dpa : Nat) (k : ReqKind) (tag : Nat) : List Ask :=
  match dev with
  | none => [.granule false dpa k tag]
  | some d =>
    if d = ownDevice then [.granule true dpa k tag]
    else (requestsOf l.id dpa k).map (fun data => .packet d l.raw data tag)

/-- One access of a loan. -/
def State.access (s : State) (id : Nat) (dev : Option Nat) (dpa : Nat) (k : ReqKind) (tag : Nat) : State :=
  match s.loan id with
  | none => s
  | some l => (l.asks dev dpa k tag).foldl (fun t a => t.ask id a) s

/-- Requests of an engine that wait for its bound: highest class first (spec/16_scheduling.md R333), then the oldest loan. -/
def State.waitingAsks (s : State) (core : Nat) : List (Nat × Ask) :=
  [0, 1, 2, 3].flatMap (fun c => (s.loans.filter (fun l => l.core == core && l.cls == c)).flatMap (fun l =>
    l.waits.map (fun w => (l.id, w))))

/-- Waiting requests go out as far as the bound allows. -/
def State.refill (s : State) (core : Nat) : State :=
  ((s.waitingAsks core).take (Config.loanRequests - s.engineOut core)).foldl (fun t w =>
    (t.modLoan w.1 (fun m => { m with waits := m.waits.drop 1 })).askNow w.1 w.2) s

/-- No access of a loan is outstanding or waits. -/
def Loan.still (l : Loan) : Bool := l.out.isEmpty && l.waits.isEmpty

/-- Granules picked one after another from those left; draw `n` names the pick numbered `i`. -/
def pickOrder {α : Type} (n : Nat) : Nat → Nat → List α → List α
  | _, 0, l => l
  | i, f + 1, l =>
    let k := Config.granuleOrder n i % l.length
    (l.drop k).take 1 ++ pickOrder n (i + 1) f (l.eraseIdx k)

/-- Granule accesses in an order that is free (log 6, spec/13_memory_model.md R278). -/
def freeOrder {α : Type} (n : Nat) (l : List α) : List α := pickOrder n 0 l.length l

/-! ### What a loan touches -/

/-- The element list of a loan. -/
def Loan.elems (l : Loan) : List Elem := Sys2Proof.Machine.elems l.raw l.idx

/-- Addresses that a loan reads, and that it writes. -/
def Loan.reads (l : Loan) : List Int := l.elems.filterMap (fun e => e.1)
def Loan.writes (l : Loan) : List Int := l.elems.map (fun e => e.2)

/-- The granules of virtual addresses, once each. -/
def granulesOf (as : List Int) (z : Nat) : List Nat :=
  (as.flatMap (fun a => [a.toNat / 64, (a.toNat + z - 1) / 64])).eraseDups

def pagesOf (as : List Int) (z : Nat) (w : Bool) : List (Nat × Bool) :=
  (as.flatMap (fun a => [(a.toNat / 2 ^ 16, w), ((a.toNat + z - 1) / 2 ^ 16, w)])).eraseDups

/-- Virtual addresses that a loan needs translated: those of its elements, or its base addresses when it moves no element
(R267), and a deposit's receipt. -/
def Loan.vas (l : Loan) : List Int × List Int :=
  let op := recOp l.raw
  let src := if addrKind (recSrc l.raw) = 1 && !flatOp op && op != 5 then
      (if l.reads.isEmpty then [wordBase (recSrc l.raw)] else l.reads) else []
  let dst := if addrKind (recDst l.raw) = 1 then
      (if l.writes.isEmpty then [wordBase (recDst l.raw)] else l.writes) else []
  (src, dst ++ (if op = 6 && depRva l.raw != 0 then [(depRva l.raw : Int)] else []))

/-- Pages to translate; a token move writes no memory. -/
def Loan.pagesNeeded (l : Loan) : List (Nat × Bool) :=
  let v := l.vas
  pagesOf v.1 (recSize l.raw) false ++ pagesOf v.2 (recSize l.raw) (recOp l.raw != 0x22 && recOp l.raw != 0x23)

/-- An element outside the 48 bits of a VA. -/
def Loan.outside (l : Loan) : Bool :=
  let v := l.vas
  (v.1 ++ v.2).any (fun a => decide (a < 0) || decide ((2 ^ 48 : Int) < a + recSize l.raw))

/-! ### Stage by stage: beginning -/

/-- The old value of an atomic goes to its address, with its poison (R263). -/
def State.oldValue (s : State) (l : Loan) (old : Reg) (poison : Bool) : State × Nat :=
  match l.ctx? with
  | none => (s, 0)
  | some k =>
    if recNr l.raw then (s, 0)
    else
      let sh := wordShelf (recSrc l.raw)
      let a := wordBase (recSrc l.raw)
      let st := s.writeStatus l k sh [a] (recSize l.raw)
      if st ≠ 0 then (s, st)
      else (s.backWrite k sh (cellsFrom a.toNat (leBytes (recSize l.raw) old.toNat)) poison l.afterRec, 0)

/-- The loan as its log entry completes it: the logged status, and an atomic's old value is written again (R263, R37). One whose
logged status is a fault repeats nothing, though it may have acted before it (log 119). -/
def State.endFromLog (s : State) (l : Loan) (e : LogEntry) : State :=
  let s := s.modLoan l.id (fun m => { m with old := e.old })
  if e.status = 0 && isAtomic (recOp l.raw) then
    let r := s.oldValue l e.old e.bad
    r.1.endLoan l.id r.2
  else s.endLoan l.id e.status

/-- Whether a re-issued loan repeats the read-out with release flag of its own source, which its first execution finished when
it ended well or failed at its home (R266, R37; log 119). -/
def Loan.rereads (l : Loan) (e : LogEntry) : Bool :=
  recOp l.raw == 4 && recRel l.raw && addrKind (recSrc l.raw) == 0 && (e.status == 0 || e.status == 7 || e.status == 10)

/-- The pool words of a half that a loan reads count what they correct. -/
def State.countReads (s : State) (k : Nat) (d : Shelf) (back : Bool) (as : List Int) (z : Nat) : State :=
  as.foldl (fun t a => t.countPool k ((s.ctxAt k).halfAddr d (d.physical back) a.toNat) z) s

/-- Offsets of the indices of a gather or scatter. -/
def Loan.indexAddrs (l : Loan) : List Int :=
  (List.range (extent l.raw 1)).map (fun (i : Nat) => wordBase (recOpnd l.raw) + 4 * (i : Int))

/-- The indices of a gather or scatter, or the status of their read (R262). -/
def State.readIndices (s : State) (l : Loan) : Except Nat (List Nat) :=
  let op := recOp l.raw
  if op = 2 ∨ op = 3 ∨ op = 4 then
    match l.ctx? with
    | none => .error 6
    | some k =>
      let w := recOpnd l.raw
      let f := l.front s k (wordShelf w)
      match s.frontStatus k f l.indexAddrs 4 with
      | 0 => .ok (wordsOf 4 (extent l.raw 1) (f.bytes.drop (wordOff w)))
      | st => .error st
  else .ok []

/-- Checks of the scratchpad destination that are made before any data moves (R260). -/
def State.earlyBack (s : State) (l : Loan) : Nat :=
  match l.ctx? with
  | none => 0
  | some k =>
    let op := recOp l.raw
    let d := recDst l.raw
    if isAtomic op then
      let a := if recNr l.raw then 0
        else s.writeStatus l k (wordShelf (recSrc l.raw)) [wordBase (recSrc l.raw)] (recSize l.raw)
      if a ≠ 0 then a else if addrKind d = 0 then s.writeStatus l k (wordShelf d) [wordBase d] (recSize l.raw) else 0
    else if addrKind d = 0 && !flatOp op then s.writeStatus l k (wordShelf d) l.writes (recSize l.raw)
    else 0

/-- Whether a record names the owner's own scratchpad, which a queue record cannot (spec/15_translation_host.md R317). -/
def namesOwn (r : LoanRec) : Bool :=
  let op := recOp r
  (addrKind (recSrc r) == 0 && !(srcKinds op).isEmpty && !(isAtomic op && recNr r)) || addrKind (recDst r) == 0 ||
    op == 2 || op == 3 || op == 4

/-- The loan begins: from the log, or with its indices, alignment and early checks; then its extent is translated. A loan that
only repeats a read-out goes to it at once. One that carries release and waits for earlier ones repeats its effects after them
(R268, spec/13_memory_model.md R284). -/
def State.beginLoan (s : State) (l : Loan) : State :=
  match l.fromLog.filter (fun e => !l.rereads e) with
  | some e => if s.mayWrite l then s.endFromLog l e else s.modLoan l.id (fun m => { m with stage := .read, readsDone := true })
  | none =>
    if l.mismatch then s.endLoan l.id 11
    else if l.ctx?.isNone && namesOwn l.raw then s.endLoan l.id 6
    else
      let k := (l.ctx?).getD 0
      let f := l.front s k (wordShelf (recOpnd l.raw))
      match s.readIndices l with
      | .error st => (s.markFront k f st).endLoan l.id st
      | .ok idx =>
        let l := { l with idx := idx }
        let s := if idx.isEmpty then s else s.countReads k f.d false l.indexAddrs 4
        if l.fromLog.isSome then (s.modLoan l.id (fun m => { m with stage := .reading, idx := idx })).loanLater l.id
        else if misaligned l.raw l.elems then s.endLoan l.id 9
        else if l.outside then s.endLoan l.id 1
        else
          let st := s.earlyBack l
          if st ≠ 0 then s.endLoan l.id st
          else
            (s.modLoan l.id (fun m => { m with
              stage := .walking, idx := idx, pages := l.pagesNeeded, trans := [] })).loanLater l.id

/-! ### Translating (R260, spec/15_translation_host.md R308, R309) -/

/-- Pin the pages that the engine's cache maps; the rest, or a refused write. -/
def State.takePages (s : State) (id core part : Nat) : List (Nat × Bool) → State × List (Nat × Bool) × Nat
  | [] => (s, [], 0)
  | (p, w) :: r =>
    match s.cached core part p with
    | none => (s, (p, w) :: r, 0)
    | some t =>
      let s := (s.pin core t.id).modLoan id (fun m => { m with
        pins := m.pins ++ [t.id], trans := m.trans ++ [t.mapping p] })
      if w && !t.w then (s, [], 2) else s.takePages id core part r

/-- Read one entry of a walk; a table outside memory is a translation fault. -/
def State.readEntry (s : State) (l : Loan) (va level addr : Nat) : State :=
  if !backed addr then s.endLoan l.id 1
  else
    let r := s.enqueue (.walk l.id) l.cls addr .read (l.u + Config.dArrival)
    r.1.modLoan l.id (fun m => { m with walk := some { va := va, level := level, addr := addr, req := r.2 } })

/-- A deposit goes to a peer device, and its receipt to the same home (R264, spec/18_integrity_repair.md R367). -/
def depositPlaced (l : Loan) : Bool :=
  let home := (l.place (wordVa (recDst l.raw))).dev
  let es := l.elems
  let far := fun (d : Option Nat) => d.isSome && d != some ownDevice
  (if es.isEmpty then far home else es.all (fun e => far (l.place e.2.toNat).dev)) &&
    (depRva l.raw == 0 || (l.place (depRva l.raw)).dev == home)

/-- The pages of a loan whose addresses are DPAs map to themselves; one that memory does not back has no mapping. -/
def State.ownPages (s : State) (l : Loan) : State × List (Nat × Bool) × Nat :=
  if l.pages.all (fun p => backed (p.1 * 2 ^ 16)) then
    (s.modLoan l.id (fun m => { m with
      trans := m.trans ++ l.pages.map (fun p => { page := p.1, pa := p.1 * 2 ^ 16, w := true, dev := none }) }), [], 0)
  else (s, [], 1)

/-- Translate what is left; when nothing is, the loan goes on to its reads. -/
def State.translateStep (s : State) (l : Loan) : State :=
  let t := if l.phys then s.ownPages l else s.takePages l.id l.core l.part l.pages
  if t.2.2 ≠ 0 then t.1.endLoan l.id t.2.2
  else
    match t.2.1 with
    | (p, w) :: r =>
      let s := t.1.modLoan l.id (fun m => { m with pages := (p, w) :: r })
      s.readEntry l (p * 2 ^ 16) 1 (l.root + 8 * levelIndex 1 (p * 2 ^ 16))
    | [] =>
      let s := t.1.modLoan l.id (fun m => { m with pages := [] })
      match s.loan l.id with
      | none => s
      | some m =>
        if recOp m.raw = 6 && l.span.2 = 0 && !depositPlaced m then s.endLoan m.id 6
        else (s.modLoan m.id (fun x => { x with stage := .reading })).loanLater m.id

/-- The entry that a walk read is back (R308). -/
def State.walkAnswer (s : State) (id req : Nat) (bytes : List Byte) : State :=
  match s.loan id with
  | none => s
  | some l =>
    match l.walk with
    | none => s
    | some w =>
      if w.req ≠ req then s
      else
        match walkEntry w.level w.va (leNat (bytesAt bytes (w.addr % 64) 8)) with
        | .fault => s.endLoan id 1
        | .table a => s.readEntry l w.va (w.level + 1) a
        | .leaf pa wr dev =>
          ((s.addTrans l.core l.part w.va w.level pa wr dev).modLoan id (fun m => { m with walk := none })).post
            ⟨s.now, rankUntimed, .micro (.kick id)⟩

/-! ### Reading -/

/-- Reads are done: loans behind an acquire may begin (R268). A scatter-accumulate also reads its destination, so its reads end
with its adds (R262, R263). -/
def State.readsEnd (s : State) (id : Nat) : State :=
  (s.modLoan id (fun m => { m with stage := .read, readsDone := recOp m.raw != 4 })).kickWaiting

/-- A loan reads its own-scratchpad source: at once, or with `rel` as a read-out of the half, 64 bytes a step (R261, R266). -/
def State.readOwn (s : State) (l : Loan) (k : Nat) : State :=
  let w := recSrc l.raw
  let sh := wordShelf w
  let f := l.front s k sh
  let st := s.frontStatus k f l.reads (recSize l.raw)
  if st ≠ 0 then
    (s.markFront k f st).endLoan l.id st
  else if recRel l.raw && !l.reads.isEmpty then
    (s.drawn.modLoan l.id (fun m => { m with
      half := f.half, left := some (freeOrder s.free (granulesOf l.reads (recSize l.raw))) })).loanLater l.id
  else
    ((s.countReads k f.d false l.reads (recSize l.raw)).modLoan l.id (fun m => { m with data := srun 0 0 f.bytes })).readsEnd l.id

/-- The elements of a loan's source that begin in a granule. -/
def Loan.readsIn (l : Loan) (g : Nat) : List Int := l.reads.filter (fun a => a.toNat / 64 == g)

/-- The next 64 bytes of a read-out with release flag, as the half that it named holds them in this cycle, under the descriptor
with which the cycle began, whatever its state; with the last the half is released, unless an `l.rel` has let go of it; a
release that is no legal transition, of a shelf that is not declared any more, is a fault of the loan (R190;
spec/09_instr_scratchpad.md R192, spec/01_machine_state.md R29, spec/18_integrity_repair.md R354). -/
def State.readOutStep (s : State) (l : Loan) (k : Nat) (left : List Nat) : State :=
  let sh := wordShelf (recSrc l.raw)
  let d := s.seen k sh
  match left with
  | [] =>
    if l.freed then s.readsEnd l.id
    else
      match s.untimedTransition k sh (.readOut l.half) l.afterRec with
      | some t => t.readsEnd l.id
      | none => s.endLoan l.id 3
  | g :: r =>
    let at_ := fun (n : Nat) => (s.ctxAt k).halfAddr d l.half n
    let back := d.physical false != l.half
    let z := recSize l.raw
    if d.poisonAt back || (l.readsIn g).any (fun a => s.poolError k (at_ a.toNat) z) then
      (s.markHalf k sh 5 l.half).endLoan l.id 5
    else
      ((s.countReads k d back (l.readsIn g) z).modLoan l.id (fun m => { m with
        data := swrite 0 m.data (64 * g) (s.poolRead (coreOf k) (at_ (64 * g)) 64), left := some r })).loanLater l.id

/-- The reads of a loan's source. An atomic and an acquire have read when they have performed (R268). -/
def State.readStep (s : State) (l : Loan) : State :=
  let op := recOp l.raw
  if flatOp op then (s.modLoan l.id (fun m => { m with stage := .read })).kickWaiting
  else if op == 5 then s.readsEnd l.id
  else
    match addrKind (recSrc l.raw), l.ctx? with
    | 0, some k =>
      (match l.left with
       | some r => s.readOutStep l k r
       | none => s.readOwn l k)
    | _, _ =>
      let gs := freeOrder s.free (granulesOf l.reads (recSize l.raw))
      if gs.isEmpty then s.readsEnd l.id
      else gs.foldl (fun t g => t.access l.id (l.place (64 * g)).dev (l.dpa (64 * g)) .read g) s.drawn

/-! ### Writing -/

/-- The bytes of one element, each with whether its source was uncorrectable. -/
def Loan.elemBytes (l : Loan) (e : Elem) : List (Byte × Bool) :=
  match e.1 with
  | none => (padBytes l.raw).map (fun b => (b, false))
  | some a =>
    (List.zip (sread 0 l.data a.toNat (recSize l.raw)) (List.range (recSize l.raw))).map
      (fun p => (p.1, l.bad.contains ((a.toNat + p.2) / 32)))

/-- The bytes that a loan writes, by where each address stands: of two elements on one byte the later stands (R277). -/
def Loan.cellsBy (l : Loan) (at_ : Nat → Nat) : Store (Option (Byte × Bool)) :=
  l.elems.foldl (fun m e =>
    let bs := l.elemBytes e
    (List.zip bs (List.range bs.length)).foldl (fun m p => sset none m (at_ (e.2.toNat + p.2)) (some p.1)) m) []

/-- By offset in a shelf's half. -/
def Loan.cells (l : Loan) : Store (Option (Byte × Bool)) := l.cellsBy (fun a => a)

/-- Where a VA stands in memory, whatever page names it: 2^48 times the home, 0 for this device and d + 1 for device d, plus the
DPA. -/
def Loan.spot (l : Loan) (va : Nat) : Nat :=
  (match (l.place va).dev with
    | some d => if d = ownDevice then 0 else d + 1
    | none => 0) * 2 ^ 48 + l.dpa va % 2 ^ 48

/-- By place in memory. -/
def Loan.spots (l : Loan) : Store (Option (Byte × Bool)) := l.cellsBy l.spot

/-- The DPA of a granule of such places. -/
def granuleDpa (g : Nat) : Nat := 64 * (g % 2 ^ 42)

/-- The home of a granule of such places; this device is named when a span-global page leads there. -/
def Loan.granuleHome (l : Loan) (g : Nat) : Option Nat :=
  match g / 2 ^ 42 with
  | 0 =>
    if l.writes.any (fun a => [a.toNat, a.toNat + recSize l.raw - 1].any (fun x => l.spot x / 64 == g && (l.place x).dev.isSome))
    then some ownDevice else none
  | d + 1 => some d

/-- The bytes of one granule, by offset. -/
def granuleCells (m : Store (Option (Byte × Bool))) (g : Nat) : List (Nat × Byte × Bool) :=
  m.filterMap (fun e => if e.1 / 64 = g then e.2.map (fun v => (e.1 % 64, v)) else none)

/-- The write of one granule. -/
def granuleWriteOf (m : Store (Option (Byte × Bool))) (g : Nat) : ReqKind :=
  let cs := granuleCells m g
  .write (cs.map (fun c => (c.1, c.2.1))) ([0, 1].filter (fun k => cs.any (fun c => c.1 / 32 == k && c.2.2)))

/-- The granule sum of R264. -/
def sumOf (k : ReqKind) : Nat :=
  match k with
  | .write bytes _ => wordSum (BitVec.ofNat 512 (granuleData bytes))
  | _ => 0

/-- Granules that hold places. -/
def granulesAt (places : List Nat) : List Nat := (places.map (fun a => a / 64)).eraseDups

/-- Writes into memory, one granule in one step each (spec/13_memory_model.md R278). -/
def State.writeGranules (s : State) (l : Loan) : State :=
  let m := l.spots
  (freeOrder s.free (granulesAt (m.map (fun e => e.1)))).foldl (fun t g =>
    let k := granuleWriteOf m g
    t.access l.id (l.granuleHome g) (granuleDpa g) k (sumOf k)) s.drawn

/-- The granules that a scatter-accumulate adds to. -/
def Loan.addGranules (l : Loan) : List Nat := granulesAt (l.elems.map (fun e => l.spot e.2.toNat))

/-- The adds of a scatter-accumulate by granule, in linear order (R262). -/
def Loan.adds (l : Loan) (g : Nat) : List (Nat × Nat) :=
  l.elems.filterMap (fun e =>
    if l.spot e.2.toNat / 64 = g then
      e.1.map (fun a => (l.spot e.2.toNat % 64, leNat (sread 0 l.data a.toNat (recSize l.raw))))
    else none)

/-- The columns of a granule that get a poisoned value added (R303 of spec/14_dram_system.md). -/
def Loan.addPoison (l : Loan) (g : Nat) : List Nat :=
  [0, 1].filter (fun k => l.elems.any (fun e =>
    l.spot e.2.toNat / 64 == g && l.spot e.2.toNat % 64 / 32 == k && (l.elemBytes e).any (fun b => b.2)))

/-- The adds at their homes, each granule's in one step (spec/13_memory_model.md R278). -/
def State.accumulateGranules (s : State) (l : Loan) : State :=
  (freeOrder s.free l.addGranules).foldl (fun t g =>
    t.access l.id (l.granuleHome g) (granuleDpa g)
      (.accumulate (recSize l.raw) (recAtype l.raw) (l.adds g) (l.addPoison g)) 0) s.drawn

/-- Write elements into a back half of a context of this device. -/
def State.writeBack (s : State) (l : Loan) (k sh : Nat) (own : Bool) : State × Nat :=
  let st := s.writeStatus l k sh l.writes (recSize l.raw)
  if st ≠ 0 then (s, st)
  else
    let m := l.cells
    let cs := m.filterMap (fun e => e.2.map (fun v => (e.1, v.1)))
    (s.backWrite k sh cs (m.any (fun e => (e.2.map (fun v => v.2)).getD false)) own, 0)

/-- The adds of a scatter-accumulate into the own scratchpad. -/
def State.accumulateBack (s : State) (l : Loan) (k sh : Nat) : State × Nat :=
  let st := s.writeStatus l k sh l.writes (recSize l.raw)
  let sp := s.backPoison k sh l.writes (recSize l.raw)
  if st ≠ 0 then (s, st)
  else if sp ≠ 0 then (s.markHalf k sh sp ((s.seen k sh).physical true), sp)
  else
    let z := recSize l.raw
    let s := s.countReads k (s.seen k sh) true l.writes z
    (l.elems.foldl (fun t e =>
      let off := e.2.toNat
      let old := leNat (t.backBytes k sh off z)
      let v := leNat ((l.elemBytes e).map (fun b => b.1))
      let new := (atomicNew 0x10 (recAtype l.raw) z old v 0).getD 0
      t.backWrite k sh (cellsFrom off (leBytes z new)) ((l.elemBytes e).any (fun b => b.2)) l.afterRec) s, 0)

/-- An atomic on the own scratchpad (R263). -/
def State.atomicBack (s : State) (l : Loan) (op k sh : Nat) : State × Nat :=
  let a := wordBase (recDst l.raw)
  let z := recSize l.raw
  let st := s.writeStatus l k sh [a] z
  let sp := s.backPoison k sh [a] z
  if st ≠ 0 then (s, st)
  else if sp ≠ 0 then (s.markHalf k sh sp ((s.seen k sh).physical true), sp)
  else
    let old := leNat (s.backBytes k sh a.toNat z)
    let s := (s.countReads k (s.seen k sh) true [a] z).modLoan l.id (fun m => { m with old := BitVec.ofNat 64 old })
    match atomicNew op (recAtype l.raw) z old (recOpnd l.raw) (recCmp l.raw) with
    | some x => (s.backWrite k sh (cellsFrom a.toNat (leBytes z x)) false l.afterRec, 0)
    | none => (s, 0)

/-- Writes into a remote scratchpad, a packet for each 64 bytes of the half. -/
def State.writeRemote (s : State) (l : Loan) : State :=
  let m := l.cells
  (granulesAt (m.map (fun e => e.1))).foldl (fun t g =>
    t.access l.id (some (wordDev (recDst l.raw))) (64 * g) (granuleWriteOf m g) 0) s

/-- After its writes the loan goes on at once when none is under way. -/
def State.afterWrites (s : State) (id : Nat) : State :=
  match s.loan id with
  | none => s
  | some l => if l.still then s.post ⟨s.now, rankUntimed, .micro (.kick id)⟩ else s

/-- A write that performed at once, with its status. -/
def State.wroteNow (r : State × Nat) (id : Nat) : State :=
  if r.2 ≠ 0 then r.1.endLoan id r.2 else r.1.afterWrites id

/-- Copies, fills, gathers, scatters and deposits write their elements (R261, R262, R264). -/
def State.moveData (s : State) (l : Loan) : State :=
  let w := recDst l.raw
  match addrKind w, l.ctx? with
  | 1, _ => (s.writeGranules l).afterWrites l.id
  | 0, some k => State.wroteNow (s.writeBack l k (wordShelf w) l.afterRec) l.id
  | _, _ =>
    if wordDev w = ownDevice then
      match s.launchMate (l.launch s) w with
      | some k => State.wroteNow (s.writeBack l k (wordShelf w) (l.ctx? == some k && l.afterRec)) l.id
      | none => s.endLoan l.id 6
    else (s.writeRemote l).afterWrites l.id

/-- Scatter-accumulate (R262). -/
def State.moveAdds (s : State) (l : Loan) : State :=
  let w := recDst l.raw
  match addrKind w, l.ctx? with
  | 0, some k => State.wroteNow (s.accumulateBack l k (wordShelf w)) l.id
  | _, _ => (s.accumulateGranules l).afterWrites l.id

/-- An atomic at the memory port of its destination (R263). -/
def State.moveAtomic (s : State) (l : Loan) (op : Nat) : State :=
  let w := recDst l.raw
  match addrKind w, l.ctx? with
  | 0, some k => State.wroteNow (s.atomicBack l op k (wordShelf w)) l.id
  | _, _ =>
    let a := l.dpa (wordVa w)
    s.access l.id (l.place (wordVa w)).dev (a / 64 * 64)
      (.atomic op (a % 64) (recSize l.raw) (recAtype l.raw) (recOpnd l.raw) (recCmp l.raw)) 0

/-- Remote publish, on this device or by a request (R265). -/
def State.movePublish (s : State) (l : Loan) : State :=
  let w := recDst l.raw
  if wordDev w = ownDevice then
    match s.launchMate (l.launch s) w with
    | some k => State.wroteNow (s.publishAt k (wordShelf w) (l.ctx? == some k && l.afterRec)) l.id
    | none => s.endLoan l.id 6
  else s.ask l.id (.packet (wordDev w) l.raw [] 0)

/-- Remote barrier arrive (R265). -/
def State.moveArrive (s : State) (l : Loan) : State :=
  let w := recDst l.raw
  if wordDev w = ownDevice then State.wroteNow (s.arriveAt w) l.id
  else s.ask l.id (.packet (wordDev w) l.raw [] 0)

/-- A release at its home waits for the accesses of its device that arrived before it (R312). -/
def State.ownRelease (s : State) (l : Loan) (region : Nat) : State :=
  if s.regionBusy ownDevice region then s.modLoan l.id (fun m => { m with frees := some region })
  else State.wroteNow ((s.modLoan l.id (fun m => { m with frees := none })).releaseToken ownDevice region) l.id

/-- A token move at the home of its region; a page that is not span-global has this device as its home (log 22). -/
def State.moveToken (s : State) (l : Loan) (acquire : Bool) : State :=
  let va := wordVa (recDst l.raw)
  let home := ((l.place va).dev).getD ownDevice
  let region := regionOf (l.dpa va)
  if home = ownDevice then
    if acquire then s.acquireToken l region else s.ownRelease l region
  else s.ask l.id (.packet home l.raw [({ addr := l.dpa va } : Piece).flit] 0)

/-! ### The last access and the end -/

/-- The receipt of Table 18-6. -/
def Loan.receipt (l : Loan) : BitVec 512 :=
  let k := (l.ctx?).getD 0
  recordOf [(0, l.stamp.toNat), (64, ownDevice), (75, l.part % 16), (79, dieOf (coreOf k) % 16), (83, bayOf (coreOf k) % 6),
    (86, posOf (coreOf k)), (89, indexOf k), (91, (depAnc l.raw).toNat), (96, l.status), (128, l.bytes), (192, l.sum)]

/-- What remains when every write has performed: the old value of an atomic, a deposit's receipt, the publish of a remote
shelf; then the completion (R263, R266). A receipt carries release at span scope, so it waits for every earlier loan (R268,
spec/18_integrity_repair.md R368). -/
def State.lastStep (s : State) (l : Loan) : State :=
  let op := recOp l.raw
  let w := recDst l.raw
  if isAtomic op && l.status == 0 then
    let r := s.oldValue l l.old (!l.bad.isEmpty)
    r.1.endLoan l.id r.2
  else if op == 6 && depRva l.raw != 0 && (l.status == 0 || l.status == 8) then
    if s.earlierDone l then
      (s.modLoan l.id (fun m => { m with stage := .last })).access l.id (l.place (depRva l.raw)).dev (l.dpa (depRva l.raw))
        (.write (cellsFrom 0 (leBytes 64 l.receipt.toNat)) []) 0
    else s
  else if recPub l.raw && addrKind w == 2 && wordDev w != ownDevice && l.status == 0 then
    (s.modLoan l.id (fun m => { m with stage := .last })).ask l.id (.packet (wordDev w) (publishRecord l.raw w) [] 0)
  else s.endLoan l.id 0

/-- The loan begins to write. -/
def State.toWriting (s : State) (l : Loan) (go : State → Loan → State) : State :=
  if s.mayWrite l then go (s.modLoan l.id (fun m => { m with stage := .writing })) { l with stage := .writing } else s

/-- One stage of a loan; `go` makes its writes. -/
def State.loanStage (s : State) (l : Loan) (go : State → Loan → State) : State :=
  match l.stage with
  | .waiting => if s.mayBegin l then (s.beginLoan l).kickWaiting else s
  | .walking => if l.walk.isSome then s else s.translateStep l
  | .reading => if l.still then s.readStep l else s
  | .read =>
    match l.fromLog with
    | some e => if s.mayWrite l then s.endFromLog l e else s
    | none => s.toWriting l go
  | .writing =>
    if !l.still || l.wants.isSome || l.frees.isSome then s
    else if l.status ≠ 0 && recOp l.raw ≠ 6 then s.endLoan l.id 0
    else s.lastStep l
  | .last => if l.still then s.endLoan l.id 0 else s
  | _ => s

/-- The row of the engine works on the loan that State names. -/
def State.loanRow (s : State) (go : State → Loan → State) : Out :=
  .next (match s.loan s.loanNow with
    | none => s
    | some l => s.loanStage l go)

/-- An access of a loan is answered (R260, R267): its data, its poison, its status. -/
def State.loanAnswer (s : State) (id a : Nat) (bytes : List Byte) (bad : List Nat) (status : Nat) : State :=
  match s.loan id with
  | none => s
  | some l =>
    let tag := ((l.out.find? (fun x => x.1 == a)).map (fun x => x.2)).getD 0
    let out := l.out.filter (fun x => x.1 != a)
    let isRead := l.stage == .reading && status == 0
    let m := { l with
      out := out
      status := if l.status = 0 then status else l.status
      data := if isRead then swrite 0 l.data (64 * tag) bytes else l.data
      bad := if isRead then l.bad ++ bad.map (fun k => 2 * tag + k)
        else if isAtomic (recOp l.raw) then l.bad ++ bad else l.bad
      old := if isAtomic (recOp l.raw) && l.stage == .writing then BitVec.ofNat 64 (leNat bytes % 2 ^ (8 * recSize l.raw))
        else l.old
      sum := if l.stage == .writing && status == 0 then (l.sum + tag) % 2 ^ 32 else l.sum }
    let s := (s.modLoan id (fun _ => m)).refill l.core
    if !out.isEmpty || !l.waits.isEmpty then s
    else if l.stage == .reading then (if m.status ≠ 0 then s.endLoan id 0 else s.readsEnd id)
    else s.post ⟨s.now, rankUntimed, .micro (.kick id)⟩

/-! ### The rows of the loan engine -/

/-- LOAN_COPY (R261). -/
def execLoanCopy (s : State) : Out := s.loanRow State.moveData

/-- LOAN_GATHER (R262). -/
def execLoanGather (s : State) : Out := s.loanRow State.moveData

/-- LOAN_SCATTER (R262). -/
def execLoanScatter (s : State) : Out := s.loanRow State.moveData

/-- LOAN_SCATTER_ACCUMULATE (R262). -/
def execLoanScatterAccumulate (s : State) : Out := s.loanRow State.moveAdds

/-- LOAN_FILL (R261). -/
def execLoanFill (s : State) : Out := s.loanRow State.moveData

/-- LOAN_DEPOSIT (R264). -/
def execLoanDeposit (s : State) : Out := s.loanRow State.moveData

/-- ATOMIC_ADD (R263). -/
def execAtomicAdd (s : State) : Out := s.loanRow (fun s l => s.moveAtomic l 0x10)

/-- ATOMIC_MIN (R263). -/
def execAtomicMin (s : State) : Out := s.loanRow (fun s l => s.moveAtomic l 0x11)

/-- ATOMIC_MAX (R263). -/
def execAtomicMax (s : State) : Out := s.loanRow (fun s l => s.moveAtomic l 0x12)

/-- ATOMIC_AND (R263). -/
def execAtomicAnd (s : State) : Out := s.loanRow (fun s l => s.moveAtomic l 0x13)

/-- ATOMIC_OR (R263). -/
def execAtomicOr (s : State) : Out := s.loanRow (fun s l => s.moveAtomic l 0x14)

/-- ATOMIC_XOR (R263). -/
def execAtomicXor (s : State) : Out := s.loanRow (fun s l => s.moveAtomic l 0x15)

/-- ATOMIC_SWAP (R263). -/
def execAtomicSwap (s : State) : Out := s.loanRow (fun s l => s.moveAtomic l 0x16)

/-- ATOMIC_CAS (R263). -/
def execAtomicCas (s : State) : Out := s.loanRow (fun s l => s.moveAtomic l 0x17)

/-- REMOTE_PUBLISH (R265). -/
def execRemotePublish (s : State) : Out := s.loanRow State.movePublish

/-- REMOTE_BARRIER_ARRIVE (R265). -/
def execRemoteBarrierArrive (s : State) : Out := s.loanRow State.moveArrive

/-- OWNERSHIP_TOKEN_ACQUIRE (R265, spec/15_translation_host.md R312). -/
def execOwnershipTokenAcquire (s : State) : Out := s.loanRow (fun s l => s.moveToken l true)

/-- OWNERSHIP_TOKEN_RELEASE (R265, spec/15_translation_host.md R312). -/
def execOwnershipTokenRelease (s : State) : Out := s.loanRow (fun s l => s.moveToken l false)

/-- The row that works on a loan. -/
def loanInstr (op : Nat) : Instr :=
  match op with
  | 0x01 => .loanCopy
  | 0x02 => .loanGather
  | 0x03 => .loanScatter
  | 0x04 => .loanScatterAccumulate
  | 0x05 => .loanFill
  | 0x06 => .loanDeposit
  | 0x10 => .atomicAdd
  | 0x11 => .atomicMin
  | 0x12 => .atomicMax
  | 0x13 => .atomicAnd
  | 0x14 => .atomicOr
  | 0x15 => .atomicXor
  | 0x16 => .atomicSwap
  | 0x17 => .atomicCas
  | 0x20 => .remotePublish
  | 0x21 => .remoteBarrierArrive
  | 0x22 => .ownershipTokenAcquire
  | _ => .ownershipTokenRelease

end Sys2Proof.Machine
end

