-- ==== Sys2Proof/Machine/LoanEnd.lean ====
section
/-!
DEFINITION. The ends of loans and invalidations (spec/12_instr_network.md R266, R267; spec/01_machine_state.md R37;
spec/16_scheduling.md R329; spec/15_translation_host.md R310) and the home of remote requests (spec/19_span_fabric.md R390;
spec/15_translation_host.md R312).
-/

namespace Sys2Proof.Machine

/-! ### LOAN_COMPLETION -/

/-- The publish of a loan with pub set, with its status (R266); of a loan of zero extent too, which has written nothing (log 139). -/
def State.loanPublish (s : State) (l : Loan) : State × Nat :=
  if !recPub l.raw || l.status != 0 then (s, 0)
  else
    let w := if isAtomic (recOp l.raw) then recSrc l.raw else recDst l.raw
    match addrKind w, l.ctx? with
    | 0, some k =>
      if isAtomic (recOp l.raw) && recNr l.raw then (s, 0) else s.publishAt k (wordShelf w) l.afterRec
    | 2, _ =>
      if wordDev w ≠ ownDevice then (s, 0)
      else
        match s.launchMate (l.launch s) w with
        | some k => s.publishAt k (wordShelf w) (l.ctx? == some k && l.afterRec)
        | none => (s, 6)
    | _, _ => (s, 0)

/-- The log entry of a non-idempotent loan that executed (spec/01_machine_state.md R37). -/
def Loan.logEntry (l : Loan) : Option LogEntry :=
  match l.ordinal with
  | none => none
  | some n =>
    if loggedOp (recOp l.raw) && l.fromLog.isNone && !l.mismatch then
      some { ordinal := n, op := BitVec.ofNat 8 (recOp l.raw), tk := recTk l.raw, src := BitVec.ofNat 64 (recSrc l.raw)
             dst := BitVec.ofNat 64 (recDst l.raw), opnd := BitVec.ofNat 64 (logOpnd l.raw), status := l.status
             old := l.old, round := l.round, bad := !l.bad.isEmpty }
    else none

/-- A DONE anchoring deposit's candidate becomes the anchor when its stamp is not less
(spec/18_integrity_repair.md R369). -/
def Context.takeAnchor (c : Context) (l : Loan) : Context :=
  match l.candidate with
  | none => c
  | some r =>
    if l.status ≠ 0 then c
    else
      match c.anchor with
      | none => { c with anchor := some r }
      | some a => if a.stamp.toNat ≤ r.stamp.toNat then { c with anchor := some r } else c

/-- The token of a loan ends (R267). -/
def State.endLoanToken (s : State) (k : Nat) (l : Loan) : State :=
  s.modCtx k (fun c =>
    c.endToken (recTk l.raw) l.id (if l.status = 0 then .done else .fault) l.status)

def State.dropLoan (s : State) (id : Nat) : State := { s with loans := s.loans.filter (fun l => l.id != id) }

/-- What the owner of a completed loan gets: the context its log entry, anchor and, unless its core is deterministic, its
token (R329); a queue the status; an engine's own work its bytes. -/
def State.tellOwner (s : State) (l : Loan) : State :=
  match l.owner with
  | .context k =>
    let s := s.modCtx k (fun c => { c.takeAnchor l with log := c.log ++ l.logEntry.toList })
    if (s.coreAt (coreOf k)).det then s.modLoan l.id (fun m => { m with stage := .finished, status := l.status })
    else (s.endLoanToken k l).dropLoan l.id
  | .queue q =>
    let d := sget ({} : HostQueue) s.queues q
    ({ s with queues := sset {} s.queues q { d with last := some l.status } }.dropLoan l.id).post
      ⟨s.now, rankUntimed, .micro (.queueKick q)⟩
  | .peer _ => s.dropLoan l.id
  | .job j =>
    (s.dropLoan l.id).post ⟨s.now, rankUntimed, .micro (.jobDone j l.status (sread 0 l.data l.span.1 l.span.2))⟩

/-- LOAN_COMPLETION: every write has performed; the publish applies, the pins are dropped, and the token becomes DONE or
FAULT (R266, R267). -/
def execLoanCompletion (id : Nat) (s : State) : Out :=
  .next (match s.loan id with
    | none => s
    | some l =>
      let p := s.loanPublish l
      let l := { l with status := if l.status = 0 then p.2 else l.status }
      let s := p.1.unpinAll l.core l.pins
      (s.tellOwner l).kickWaiting)

/-- LOAN_DELIVERY: at the context's turn, 256 rounds after the issue, the token shows the completion (R329). A loan issued before
the context's record is kept until its next one: a restoration delivers it again in its round (R331). -/
def execLoanDelivery (id : Nat) (s : State) : Out :=
  .next (match s.loan id with
    | none => s
    | some l =>
      match l.owner with
      | .context k =>
        let t := s.endLoanToken k l
        if l.afterRec || !(s.coreAt (coreOf k)).det then t.dropLoan id else t.modLoan id (fun m => { m with delivered := true })
      | _ => s)

/-- INVALIDATION_COMPLETE: the in-flight counters of all dropped translations are 0 (R310). -/
def execInvalidationComplete (id : Nat) (s : State) : Out :=
  .next (match s.invals.find? (fun i => i.id == id) with
    | none => s
    | some i =>
      let s := { s with invals := s.invals.filter (fun x => x.id != id) }
      let s := match i.ctx with
        | some (k, tk) => s.modCtx k (fun c => c.endToken tk id .done 0)
        | none => s
      match i.fn with
      | some fn => s.post ⟨s.now, rankUntimed, .micro (.mailEnd fn 0)⟩
      | none => s)

/-! ### HOME_REQUEST -/

/-- The newest of two sequence numbers modulo 2^32. -/
def newerSeq (a b : BitVec 32) : BitVec 32 := if (b - a).toNat < 2 ^ 31 then b else a

/-- Whether a sequence number is among the last 256 up to the newest. -/
def lastSeqs (newest q : BitVec 32) : Bool := decide ((newest - q).toNat < 256)

/-- A response leaves, and the reply cache keeps it while its sequence number is among the last 256 of its source (R390,
log 121). -/
def State.respond (s : State) (p : Packet) (writes : Bool) (status old count : Nat) (data : List (BitVec 512)) : State :=
  let q : Packet :=
    { dst := p.src, src := ownDevice, engine := p.engine, seq := p.seq, cls := p.cls, response := true
      record := responseRecord status old count, data := data }
  let mine := fun (x : Reply) => x.dev == p.src && x.engine == p.engine
  let newest := (s.replies.filter mine).foldl (fun m x => newerSeq m x.seq) p.seq
  let kept := s.replies.filter (fun x => !mine x || (x.seq != p.seq && lastSeqs newest x.seq))
  let r : Reply := { dev := p.src, engine := p.engine, seq := p.seq, writes := writes, response := q }
  ({ s with replies := kept ++ (if lastSeqs newest p.seq then [r] else []) }).post
    ⟨s.now, rankUntimed, .op (.packetRoute q)⟩

/-- Whether a request writes, which every atomic does; an acquire only reads (spec/12_instr_network.md Table 12-7). -/
def requestWrites (p : Packet) : Bool :=
  if recOp p.record < 0x20 then (pieceIn p).kind != 0 else recOp p.record != 0x22

/-- The loan that stands for a peer's request at its home. -/
def State.peerLoan (s : State) (p : Packet) : Loan :=
  { id := s.nextId, owner := .peer p, core := 2 ^ 20, part := 16, root := 0, raw := p.record, u := s.concI - Config.dArrival
    cls := p.cls, stage := .writing }

def State.addPeer (s : State) (p : Packet) : State :=
  { s with nextId := s.nextId + 1, loans := s.loans ++ [s.peerLoan p] }

/-- The context that a peer's kind 2 address names: it must be live in a launch with a DEVICES placement that covers the
peer (R257, log 23). -/
def State.peerMate (s : State) (src w : Nat) : Option Nat :=
  (wordCtx w).filter (fun k =>
    let c := s.ctxAt k
    c.present &&
      s.launches.any (fun l => l.id == c.launch && l.devices.contains src))

/-- A write of at most 64 bytes into a scratchpad of this device. -/
def State.peerBack (s : State) (p : Packet) : State × Nat × Nat :=
  let w := recDst p.record
  match s.peerMate p.src w with
  | none => (s, 6, 0)
  | some k =>
    let q := pieceIn p
    let cs := (maskedCells q.mask (p.data.getD 1 0).toNat).map (fun c => (q.addr + c.1, c.2))
    let st := s.backStatus k (wordShelf w) (cs.map (fun c => (c.1 : Int))) 1
    if st ≠ 0 then (s, st, 0) else (s.backWrite k (wordShelf w) cs (q.poison != 0) false, 0, cs.length)

/-- A part of a scatter-accumulate's adds joins those of its granule that have come; the whole, by rising number, once every
add is there (log 21). -/
def State.stageAdds (s : State) (p : Packet) (dpa : Nat) (adds : List (Nat × Nat)) (poison : List Nat) :
    State × Option (List (Nat × Nat) × List Nat) :=
  let q := pieceIn p
  let same := fun (x : Staged) => x.dev == p.src && x.engine == p.engine && x.loan == q.loan && x.dpa == dpa
  let old := (s.staged.find? same).getD { dev := p.src, engine := p.engine, loan := q.loan, dpa := dpa }
  let new : Staged := { old with
    parts := old.parts.filter (fun e => decide (e.1 < q.first)) ++ [(q.first, adds)] ++
      old.parts.filter (fun e => decide (q.first < e.1))
    poison := old.poison ++ poison }
  let all := new.parts.flatMap (fun e => e.2)
  let s := { s with staged := s.staged.filter (fun x => !same x) }
  if q.total ≤ all.length then (s, some (all, new.poison)) else ({ s with staged := s.staged ++ [new] }, none)

/-- A granule access of a peer: ownership, backing, the deposit's sum; then it goes to the open-slot issuer (R264, R312). Each part
of a granule's adds is answered with its own count of bytes: the last when all are performed, the others when they are staged
(R388, log 21). -/
def State.peerGranule (s : State) (p : Packet) : State :=
  let r := p.record
  let dpa := accessDpa p
  let wr := requestWrites p
  if needsToken (recOp r) && !s.mayTouch p.src (regionOf dpa) then s.respond p wr 7 0 0 []
  else if !backed dpa then s.respond p wr 1 0 0 []
  else if recOp r == 6 && wordSum (p.data.getD 1 0) != (pieceIn p).sum then s.respond p wr 8 0 0 []
  else
    match accessOf p with
    | .accumulate size ty adds poison =>
      let a := s.stageAdds p dpa adds poison
      (match a.2 with
       | some x => (a.1.addPeer p).localAccess (a.1.peerLoan p) dpa (.accumulate size ty x.1 x.2) 0
       | none => a.1.respond p true 0 0 (size * adds.length) [])
    | k => (s.addPeer p).localAccess (s.peerLoan p) dpa k 0

/-- A release waits for the accesses of its device to the region that arrived before it (R312). -/
def State.peerRelease (s : State) (l : Loan) (p : Packet) : State :=
  let region := regionOf (pieceIn p).addr
  if s.regionBusy p.src region then s.modLoan l.id (fun m => { m with frees := some region })
  else
    let r := (s.dropLoan l.id).releaseToken p.src region
    r.1.respond p true r.2 0 0 []

/-- A request executes at its home. -/
def State.homeExecute (s : State) (p : Packet) : State :=
  let r := p.record
  let w := recDst r
  match recOp r with
  | 0x20 =>
    match s.peerMate p.src w with
    | none => s.respond p true 6 0 0 []
    | some k =>
      let a := s.publishAt k (wordShelf w) false
      a.1.respond p true a.2 0 0 []
  | 0x21 =>
    let a := s.arriveAt w
    a.1.respond p true a.2 0 0 []
  | 0x22 => (s.addPeer p).acquireToken (s.peerLoan p) (regionOf (pieceIn p).addr)
  | 0x23 => (s.addPeer p).peerRelease (s.peerLoan p) p
  | _ =>
    if addrKind w = 2 then
      let a := s.peerBack p
      a.1.respond p true a.2.1 0 a.2.2 []
    else s.peerGranule p

/-- The same request is still executing. -/
def State.peerActive (s : State) (p : Packet) : Bool :=
  s.loans.any (fun l => match l.owner with
    | .peer q => q.src == p.src && q.engine == p.engine && q.seq == p.seq
    | _ => false)

/-- HOME_REQUEST: a request that writes and whose sequence number is in the reply cache is answered from it; any other
executes, once (R390). -/
def execHomeRequest (p : Packet) (s : State) : Out :=
  .next (match s.replies.find? (fun r => r.dev == p.src && r.engine == p.engine && r.seq == p.seq) with
    | some r =>
      if r.writes then s.post ⟨s.now, rankUntimed, .op (.packetRoute r.response)⟩ else s.homeExecute p
    | none => if s.peerActive p then s else s.homeExecute p)

/-- Releases that waited for accesses of their device. -/
def State.retryReleases (s : State) : State :=
  (s.loans.filter (fun l => l.frees.isSome)).foldl (fun t l =>
    match l.owner with
    | .peer p => t.peerRelease l p
    | _ => t.ownRelease l (l.frees.getD 0)) s

/-- The access of a peer's request has performed: the response goes back (R388, R390). -/
def State.peerAnswer (s : State) (l : Loan) (p : Packet) (bytes : List Byte) (bad : List Nat) (status : Nat) : State :=
  let s := s.dropLoan l.id
  if recOp p.record = 0x22 then s.respond p false status 0 0 []
  else
    match accessOf p with
    | .read => s.respond p false status 0 0 (responseData (some bytes) bad)
    | .write cells _ => s.respond p true status 0 cells.length []
    | .atomic _ _ size _ _ _ => s.respond p true status (leNat bytes) size (responseData none bad)
    | .accumulate size _ adds _ => s.respond p true status 0 (size * adds.length) []

/-- An access is answered: at its loan or at the peer that asked. -/
def State.answerLoan (s : State) (id a : Nat) (bytes : List Byte) (bad : List Nat) (status : Nat) : State :=
  match s.loan id with
  | none => s
  | some l =>
    match l.owner with
    | .peer p => (s.peerAnswer l p bytes bad status).retryReleases
    | _ => (s.loanAnswer id a bytes bad status).retryReleases

end Sys2Proof.Machine
end

