-- ==== Sys2Proof/Machine/Job.lean ====
section
/-!
DEFINITION. What the engines of the device read and write for themselves: untimed accesses that are translated (R308 of
spec/15_translation_host.md) and pass through the open-slot issuer as a loan's do (spec/14_dram_system.md R297, log 11).
-/

namespace Sys2Proof.Machine

/-- Numbers of the engines beside those of the 288 cores: queues, launch engines of the dies, the steward, the host port. -/
def queueEngine (q : Nat) : Nat := 1000 + q
def launchEngine (die : Nat) : Nat := 2000 + die
def stewardEngine : Nat := 3000
def portEngine (fn : Nat) : Nat := 4000 + fn

/-- Whether an engine's own work writes. -/
def Job.writes : Job → Bool
  | .queueStatus _ _ => true
  | .queueNext _ _ => true
  | .word _ _ _ _ _ => true
  | .save _ _ => true
  | .report _ => true
  | _ => false

/-- Where an engine's access goes: the engine, the partition with its page-table root, or DPAs, and the class. -/
structure Space where
  engine : Nat
  part : Nat := 16
  root : Nat := 0
  phys : Bool := false
  cls : Nat := 3
  deriving DecidableEq, Repr

/-- The loan that stands for an engine's access to `n` bytes from an address on; `bytes` are what it writes. -/
def State.jobLoan (s : State) (j : Job) (p : Space) (base n : Nat) (bytes : List Byte) : Loan :=
  { id := s.nextId, owner := .job j, core := p.engine, part := p.part, root := p.root, raw := recordOf [(0, 1), (8, p.cls % 4)]
    u := s.concI - Config.dArrival, cls := p.cls, phys := p.phys, span := (base, n), data := srun 0 base bytes }

/-- The access begins; when it goes on is free (log 6). -/
def State.startJob (s : State) (j : Job) (p : Space) (base n : Nat) (bytes : List Byte) : State :=
  let l := s.jobLoan j p base n bytes
  ({ s with nextId := s.nextId + 1, loans := s.loans ++ [l] }).loanLater l.id

/-- Pages and granules of a run of addresses. -/
def unitsIn (size base n : Nat) : List Nat :=
  if n = 0 then [] else (List.range ((base + n - 1) / size + 1 - base / size)).map (fun i => base / size + i)

/-- The write of one granule of the run. -/
def Loan.spanWrite (l : Loan) (g : Nat) : ReqKind :=
  .write (((List.range 64).filter (fun i => decide (l.span.1 ≤ 64 * g + i) && decide (64 * g + i < l.span.1 + l.span.2))).map
    (fun i => (i, sget 0 l.data (64 * g + i)))) []

/-- The granules of the run are read or written, in a free order (log 6). -/
def State.spanAccesses (s : State) (l : Loan) (kind : Nat → ReqKind) : State :=
  (freeOrder s.free (unitsIn 64 l.span.1 l.span.2)).foldl (fun t g =>
    t.access l.id (l.place (64 * g)).dev (l.dpa (64 * g)) (kind g) g) s.drawn

/-- One stage of an engine's access: translation of the run, then its granules, then its end. The walk of a BAR2 access stops
with its translations pinned. -/
def State.jobStep (s : State) (l : Loan) (j : Job) : State :=
  match l.stage with
  | .waiting =>
    if 2 ^ 48 < l.span.1 + l.span.2 then s.endLoan l.id 1
    else
      let w := match j with
        | .bar2 a => s.hostAcc.any (fun x => x.id == a && x.kind != .read)
        | _ => j.writes
      (s.modLoan l.id (fun m => { m with
        stage := .walking, pages := (unitsIn 65536 l.span.1 l.span.2).map (fun p => (p, w)), trans := [] })).post
        ⟨s.now, rankUntimed, .micro (.kick l.id)⟩
  | .walking => if l.walk.isSome then s else s.translateStep l
  | .reading =>
    if !l.still then s
    else
      (match j with
       | .bar2 _ => (s.modLoan l.id (fun m => { m with stage := .last })).post ⟨s.now, rankUntimed, .micro (.jobDone j 0 [])⟩
       | _ =>
         if l.span.2 = 0 then s.endLoan l.id 0
         else if j.writes then (s.modLoan l.id (fun m => { m with stage := .writing })).spanAccesses l l.spanWrite
         else s.spanAccesses l (fun _ => .read))
  | .read => s.endLoan l.id 0
  | .writing => if l.still then s.endLoan l.id 0 else s
  | _ => s

end Sys2Proof.Machine
end

