-- ==== Sys2Proof/Machine/Host.lean ====
section
/-!
DEFINITION. Host attachment (spec/15_translation_host.md R313 to R317): BAR2 accesses of the PCIe functions and the queues
that base-die loan engines serve.
-/

namespace Sys2Proof.Machine

/-! ### Answers to a function (R313, R314) -/

def State.reply (s : State) (fn : Nat) (r : HostReply) : State :=
  { s with hostReplies := sset none s.hostReplies fn (some r) }

/-- The size of a function's BAR2: 1 GiB to 512 GiB in powers of two (Table 15-3, log 99). -/
def State.barBytes (s : State) (fn : Nat) : Nat := 2 ^ (30 + (sget none s.barSizes fn).getD 9)

/-- The partition that a VF is bound to, unless it has ended (R313). -/
def State.boundPart (s : State) (fn : Nat) : Option Nat :=
  (sget none s.binds fn).filter (fun p =>
    (sget ({} : Partition) s.parts p).valid && !(sget ({} : Partition) s.parts p).ended)

/-- Whether a BAR2 access is taken: not in quarantine (spec/20_bringup_power.md R396), inside the BAR, at backed memory from the
PF, and from a VF with a partition (R305, R313). -/
def State.hostTakes (s : State) (a : HostAccess) : Bool :=
  s.devState != .quarantine && decide (a.off + a.size ≤ s.barBytes a.fn) &&
    (if a.fn = 0 then a.size == 0 || backed (a.off + a.size - 1) else (s.boundPart a.fn).isSome)

/-- A run cut at the granules: address and length of each piece. -/
def granuleCuts : Nat → Nat → Nat → List (Nat × Nat)
  | 0, _, _ => []
  | f + 1, dpa, n =>
    if n = 0 then []
    else
      let m := min n (64 - dpa % 64)
      (dpa, m) :: granuleCuts f (dpa + m) (n - m)

/-- The pieces of a run of bytes. -/
def piecesOf (a n : Nat) : List (Nat × Nat) := granuleCuts (n / 64 + 2) a n

/-- The class that the steward assigns to a function, 3 by default (R314). -/
def State.hostClass (s : State) (fn : Nat) : Nat := (sget none s.fnClass fn).getD 3

/-- The request that a piece of an access makes on its granule. -/
def HostKind.request (k : HostKind) (pos dpa n : Nat) : ReqKind :=
  match k with
  | .read => .read
  | .write bytes ep =>
    let cells := cellsFrom (dpa % 64) ((bytes.drop pos).take n)
    .write cells (if ep then [0, 1].filter (fun c => cells.any (fun e => e.1 / 32 == c)) else [])
  | .atomic op ty v cmp => .atomic op (dpa % 64) n ty v cmp

def State.modAccess (s : State) (id : Nat) (f : HostAccess → HostAccess) : State :=
  { s with hostAcc := s.hostAcc.map (fun (a : HostAccess) => if a.id = id then f a else a) }

/-- The pieces enter the open-slot issuer; when they enter is free (log 6). -/
def State.hostEnqueue (s : State) (a : HostAccess) : Nat → List (Nat × Nat) → State
  | _, [] => s
  | pos, (dpa, n) :: r =>
    let q := s.enqueue (.host a.id) (s.hostClass a.fn) dpa (a.kind.request pos dpa n) s.concI
    let t := q.1.modAccess a.id (fun a => { a with
      reqs := a.reqs ++ [{ req := q.2, pos := pos, off := dpa % 64, n := n }] })
    t.hostEnqueue a (pos + n) r

def HostKind.writes : HostKind → Bool
  | .read => false
  | _ => true

/-- An access is over: its translations are pinned no longer, and the function gets its completion. -/
def State.hostEnd (s : State) (a : HostAccess) (r : HostReply) : State :=
  let s := { s with hostAcc := s.hostAcc.filter (fun x => x.id != a.id) }.reply a.fn r
  match a.job.bind s.loan with
  | some l => (s.unpinAll l.core l.pins).dropLoan l.id
  | none => s

/-- The pages of a VF's access are walked under its partition's root (R308). -/
def State.hostWalk (s : State) (a : HostAccess) : State :=
  let p := (s.boundPart a.fn).getD 16
  let t := s.modAccess a.id (fun a => { a with begun := true, job := some s.nextId })
  t.startJob (.bar2 a.id)
    { engine := portEngine a.fn, part := p, root := (sget ({} : Partition) s.parts p).root, cls := s.hostClass a.fn } a.off a.size []

/-- The oldest access of a function begins when it has not; each waits for the ones before it, as posted writes keep their
order (R316). An access without bytes is answered at once. -/
def State.hostNext (s : State) (fn : Nat) : Nat → State
  | 0 => s
  | f + 1 =>
    match s.hostAcc.find? (fun a => a.fn == fn) with
    | none => s
    | some a =>
      if a.begun then s
      else if !s.hostTakes a then (s.hostEnd a { ur := true }).hostNext fn f
      else if a.size = 0 then (s.hostEnd a {}).hostNext fn f
      else if fn = 0 then
        (s.modAccess a.id (fun a => { a with begun := true })).hostEnqueue a 0 (piecesOf a.off a.size)
      else s.hostWalk a

/-- A BAR2 access's walk has ended: a fault, a page that refuses the write and a span-global page are answered with Unsupported
Request (R313); otherwise the pieces go to the granules that the pages map. -/
def State.hostWalked (s : State) (id status : Nat) : State :=
  match s.hostAcc.find? (fun a => a.id == id) with
  | none => s
  | some a =>
    let ps := piecesOf a.off a.size
    match a.job.bind s.loan with
    | some l =>
      if status ≠ 0 || ps.any (fun p => (l.place p.1).dev.isSome) then
        (s.hostEnd a { ur := true }).hostNext a.fn (s.hostAcc.length + 1)
      else s.hostEnqueue a 0 (ps.map (fun p => (l.dpa p.1, p.2)))
    | none => (s.hostEnd a { ur := true }).hostNext a.fn (s.hostAcc.length + 1)

/-- A BAR2 access arrives. -/
def State.hostArrive (s : State) (fn off size : Nat) (k : HostKind) : Out :=
  let a : HostAccess := { id := s.nextId, fn := fn, off := off, size := size, kind := k }
  let s := { s with nextId := s.nextId + 1, hostAcc := s.hostAcc ++ [a] }
  .next (s.hostNext fn (s.hostAcc.length + 1))

/-- A request of a host access is answered: its bytes join the completion, which goes back with the last (R314). -/
def State.hostAnswer (s : State) (id req : Nat) (bytes : List Byte) (bad : List Nat) : State :=
  match s.hostAcc.find? (fun a => a.id == id) with
  | none => s
  | some a =>
    match a.reqs.find? (fun p => p.req == req) with
    | none => s
    | some p =>
      let isRead := a.kind == .read
      let got := if isRead then swrite 0 a.got p.pos (bytesAt bytes p.off p.n)
        else swrite 0 a.got p.pos (bytes.take p.n)
      let a := { a with reqs := a.reqs.filter (fun x => x.req != req), got := got, ep := a.ep || !bad.isEmpty }
      if a.reqs.isEmpty then
        let data := match a.kind with
          | .write _ _ => []
          | _ => sread 0 a.got 0 a.size
        (s.hostEnd a { data := data, ep := a.ep }).hostNext a.fn (s.hostAcc.length + 1)
      else s.modAccess id (fun _ => a)

/-- HOST_MEMORY_READ: an untimed read through the open-slot issuer; a granule that ECC could not correct sets EP (R314). -/
def execHostMemoryRead (fn off len : Nat) (s : State) : Out := s.hostArrive fn off len .read

/-- HOST_MEMORY_WRITE: with EP set the bytes are stored as poisoned data (R314, R303). -/
def execHostMemoryWrite (fn off : Nat) (bytes : List Byte) (ep : Bool) (s : State) : Out :=
  s.hostArrive fn off bytes.length (.write bytes ep)

/-- An AtomicOp request on 4 or 8 aligned bytes; any other is answered with Unsupported Request (R314, log 26). -/
def State.hostAtomic (s : State) (fn off size op atype v cmp : Nat) : Out :=
  if (size = 4 ∨ size = 8) ∧ off % size = 0 then s.hostArrive fn off size (.atomic op atype v cmp)
  else .next (s.reply fn { ur := true })

/-- HOST_FETCHADD: the loan add with atype 1 (R314). -/
def execHostFetchadd (fn off size : Nat) (v : Reg) (s : State) : Out := s.hostAtomic fn off size 0x10 1 v.toNat 0

/-- HOST_SWAP: the loan swap (R314). -/
def execHostSwap (fn off size : Nat) (v : Reg) (s : State) : Out := s.hostAtomic fn off size 0x16 0 v.toNat 0

/-- HOST_CAS: the loan compare-and-swap (R314). -/
def execHostCas (fn off size : Nat) (cmp v : Reg) (s : State) : Out :=
  s.hostAtomic fn off size 0x17 0 v.toNat cmp.toNat

/-! ### Queues (R315 to R317) -/

def State.hostQueue (s : State) (q : Nat) : HostQueue := sget {} s.queues q

def State.setHostQueue (s : State) (q : Nat) (d : HostQueue) : State := { s with queues := sset {} s.queues q d }

/-- The slot of an index. -/
def HostQueue.slotOf (d : HostQueue) (h : Nat) : Nat := h % 2 ^ d.lg

/-- A queue's space: DPAs for a PF queue, VAs of the partition for any other (R315). -/
def State.queueSpace (s : State) (q : Nat) (d : HostQueue) : Space :=
  if d.pf then { engine := queueEngine q, phys := true, cls := d.cls }
  else { engine := queueEngine q, part := d.part, root := (sget ({} : Partition) s.parts d.part).root, cls := d.cls }

/-- The engine of a queue reads or writes a word for itself. -/
def State.queueJob (s : State) (q : Nat) (j : Job) (base n : Nat) (bytes : List Byte) : State :=
  s.startJob j (s.queueSpace q (s.hostQueue q)) base n bytes

/-- The engine's work on a record has ended: it polls at once, which makes up for polls that came while it was at work, and the next
record may be there already (R317). -/
def State.queueRest (s : State) (q : Nat) : State :=
  (s.setHostQueue q { s.hostQueue q with slot := none, last := none, busy := false }).post ⟨s.now, rankUntimed, .op (.queuePoll q)⟩

/-- A record of a queue is tested as Table 12-4 gives; its tk is ignored (R317). -/
def queueRecordGood (r : LoanRec) : Bool :=
  (recordDetail (BitVec.ofNat 512 (r.toNat - recTk r * 2 ^ 15)) true false true).isNone

/-- The loan of a queue's record: it runs in the queue's space (R315, R317, log 100). -/
def State.queueLoan (s : State) (q : Nat) (d : HostQueue) (r : LoanRec) : Loan :=
  let p := s.queueSpace q d
  { id := s.nextId, owner := .queue q, core := p.engine, part := p.part, root := p.root, phys := p.phys, raw := r
    u := s.concI - Config.dArrival, cls := d.cls }

/-- The status byte of a slot is written (R317). -/
def State.queueStatus (s : State) (q h status : Nat) : State :=
  let d := s.hostQueue q
  s.queueJob q (.queueStatus q h) (d.sts + d.slotOf h) 1 (leBytes 1 status)

/-- The record of index h has been read and runs. -/
def State.queueRun (s : State) (q h : Nat) (bs : List Byte) : State :=
  let d := s.hostQueue q
  let r : LoanRec := BitVec.ofNat 512 (leNat bs)
  if !queueRecordGood r then s.queueStatus q h 0xFF
  else
    let l := s.queueLoan q d r
    ({ s with nextId := s.nextId + 1, loans := s.loans ++ [l] }.setHostQueue q { d with slot := some h }).loanLater
      l.id

/-- The next poll stands within `n` cycles; when exactly is free (log 6). -/
def State.pollWithin (s : State) (q n : Nat) : State :=
  let k := 1 + Config.untimedDelay s.free % n
  let s := s.drawn
  (s.setHostQueue q { s.hostQueue q with pollAt := s.now + k }).after k rankUntimed (.op (.queuePoll q))

/-- QUEUE_POLL: the engine reads the index, unless it serves a record, after which it polls at once; it polls again within 1,024
cycles (R317). Polls may overlap, so that a doorbell's waits for none. -/
def execQueuePoll (q : Nat) (s : State) : Out :=
  let d := s.hostQueue q
  .next (
    if !d.en then s
    else
      let s := if d.pollAt ≤ s.now then s.pollWithin q 1024 else s
      if d.busy then s else s.queueJob q (.queueIndex q d.runs) d.ridx 8 [])

/-- The index has been read: the slot word is next. -/
def State.queueIndexed (s : State) (q run status : Nat) (bs : List Byte) : State :=
  let d := s.hostQueue q
  if status ≠ 0 then s
  else s.queueJob q (.queueWord q run (leNat bs)) (d.rdy + 8 * d.slotOf (leNat bs)) 8 []

/-- The slot word has been read: equal to the index plus 1, it makes the record run, once for its index: a poll that began before
another found a record finds none (R317). -/
def State.queueWorded (s : State) (q run h status : Nat) (bs : List Byte) : State :=
  let d := s.hostQueue q
  if status = 0 && leNat bs == (h + 1) % 2 ^ 64 && d.runs == run then
    (s.setHostQueue q { d with busy := true, runs := run + 1 }).queueJob q (.queueRecord q h) (d.base + 64 * d.slotOf h) 64 []
  else s

/-- The record has been read, or its read has failed and the slot is looked at again. -/
def State.queueRecorded (s : State) (q h status : Nat) (bs : List Byte) : State :=
  if status ≠ 0 then s.queueRest q else s.queueRun q h bs

/-- The status byte stands; ridx follows with everything before it performed (R317). -/
def State.queueStatused (s : State) (q h : Nat) : State := s.queueJob q (.queueNext q h) (s.hostQueue q).ridx 8 (leBytes 8 (h + 1))

/-- The index is over. -/
def State.queueNexted (s : State) (q : Nat) : State := s.queueRest q

/-- QUEUE_DOORBELL: the engine polls within 64 cycles (R317). -/
def execQueueDoorbell (q : Nat) (s : State) : Out :=
  .next (if (s.hostQueue q).en then
      s.drawn.after (1 + Config.untimedDelay s.free % 64) rankUntimed (.op (.queuePoll q))
    else s)

/-- A queue's loan has completed (R317). -/
def State.queueKick (s : State) (q : Nat) : State :=
  match (s.hostQueue q).slot, (s.hostQueue q).last with
  | some h, some st => s.queueStatus q h st
  | _, _ => s

end Sys2Proof.Machine
end

