-- ==== Sys2Proof/Machine/Matrix.lean ====
section
/-!
DEFINITION. The M slots (spec/10_instr_matrix.md): formats and tolerances, the stationary operand, the multiply,
accumulators with their margins, and chaining. Drains and `m.chk` stand in Drain.lean.
-/

namespace Sys2Proof.Machine

/-- Unit class of M. -/
def unitM : Nat := 5

/-- Every M form but `m.nop` needs the M grant and is guarded (R196, R215). -/
def arraySlot (s : State) (g : Guard) (f : State → State) : Out := whenGrant s s.me.gM (fun s => whenGuard s g f)

/-- The array input must be free (R58). -/
def withInput (s : State) (f : State → State) : State :=
  let free := (s.coreAt (coreOf s.cur.ctx)).inFree
  if s.now < free then s.issueTrap 0x04 (infoTiming 2 s.slotNo (s.concAt free)) else f s

/-- A poisoned l register traps, otherwise the slot goes on (R30). -/
def orPoison (s : State) (unit l : Nat) (f : State → State) : State :=
  if s.me.poisonL l then s.poisoned unit l else f s

/-- `m.nop` (R53). -/
def execMNop (s : State) : Out := .next s

/-! ### Formats, tolerances and chaining (R198, R199, R207) -/

/-- A format register takes a new value under the shadow of R65. -/
def State.shadowed (s : State) (num : Nat) (v : Reg) : State :=
  s.emit 0 rankSample (.micro (.shadowWrite s.cur.ctx { num := num, v := v, left := Config.delayBundles }))

/-- `m.fmt` (R198); the decoder has refused an invalid word. -/
def execMFmt (g : Guard) (sel : BitVec 2) (word : BitVec 17) (s : State) : Out :=
  arraySlot s g (fun s => s.shadowed (0xB + sel.toNat) (word.setWidth 64))

/-- `m.tol` (R199): poison first, then the test of Table 10-3. -/
def execMTol (g : Guard) (e : BitVec 4) (l : BitVec 5) (s : State) : Out :=
  arraySlot s g (fun s => orPoison s unitM l.toNat (fun s =>
    if tolValid (s.me.regL l.toNat) then s.shadowed (0x20 + e.toNat) (s.me.regL l.toNat) else s.refuse7 6))

/-- Whether the next chain position of the bay belongs to the context's partition (R207). -/
def State.nextInPart (s : State) (k : Nat) : Bool :=
  posOf (coreOf k) != 5 && (sget ({} : Partition) s.parts (s.ctxAt k).part).cores.contains (coreOf k + 1)

/-- `m.chain`: in force for an `m.mul` issued from t+1 (R207). -/
def execMChain (g : Guard) (af pf : Bool) (s : State) : Out :=
  arraySlot s g (fun s =>
    if (af || pf) && !s.nextInPart s.cur.ctx then s.refuse7 5
    else s.emit 1 rankLand (.micro (.setChain (s.here unitM) af pf)))

def putBit (v : Reg) (i : Nat) (b : Bool) : Reg :=
  if b then v ||| BitVec.ofNat 64 (2 ^ i) else v &&& ~~~(BitVec.ofNat 64 (2 ^ i))

def State.setChain (s : State) (o : Origin) (af pf : Bool) : State :=
  s.modCtx o.ctx (fun c => { c with stat := putBit (putBit c.stat 53 af) 52 pf })

/-! ### The stationary descriptor (Table 10-4) -/

def descAddr (d : Reg) : Nat := d.toNat % 2 ^ 32
def descFb (d : Reg) : Nat := d.toNat / 2 ^ 32 % 2 ^ 17
def descTr (d : Reg) : Bool := d.getLsbD 49
def descGen (d : Reg) : Bool := d.getLsbD 50
def descValid (d : Reg) : Bool := d.getLsbD 51
def descPf (d : Reg) : Bool := d.getLsbD 52
def descAf (d : Reg) : Bool := d.getLsbD 53

/-- What a load writes: the forwarding bits stay (R202, R207). -/
def descOf (old : Reg) (acc : Access) (fb : Word) (tr gen : Bool) : Reg :=
  BitVec.ofNat 64 (acc.sh * 2 ^ 26 + acc.off.toNat % 2 ^ 26 + fb.toNat % 2 ^ 17 * 2 ^ 32 + tr.toNat * 2 ^ 49 +
    gen.toNat * 2 ^ 50 + 2 ^ 51 + (descPf old).toNat * 2 ^ 52 + (descAf old).toNat * 2 ^ 53)

/-! ### The row map (spec/18_integrity_repair.md R357) -/

/-- The errata entry of a physical row; a core without recorded faults carries row p in place (R357). -/
def State.errEntry (s : State) (core p : Nat) : ErrEntry :=
  (sget none s.errata (s.physical core * 133 + p)).getD
    (if p < 129 then { w0 := 0, n := 0, st := 0, lr := p } else { w0 := 0, n := 0, st := 1, lr := 0 })

def State.setErrEntry (s : State) (core p : Nat) (e : ErrEntry) : State :=
  { s with errata := sset none s.errata (s.physical core * 133 + p) (some e) }

/-- The physical row that carries logical row `j`. -/
def State.rowOf (s : State) (core j : Nat) : Nat :=
  ((List.range 133).find? (fun p => (s.errEntry core p).st == 0 && (s.errEntry core p).lr == j)).getD j

def State.rowMap (s : State) (core : Nat) : List Nat := (List.range 129).map (s.rowOf core)

/-! ### The stationary operand (R200 to R202) -/

/-- The operand that a load's lines, scale block and margins make: PE row j with its scales, the margin row, and whether
it was computed (R201). -/
def LoadOp.operand (l : LoadOp) (owner : Nat) : Operand × Bool :=
  let fb := l.fb.toNat
  let rows := (List.range 128).map (fun r => sget [] l.lines r)
  let pe := if l.tr then rows else transposed 0 128 rows
  let kv := if l.tr then l.cv else l.rv
  let jv := if l.tr then l.rv else l.cv
  let codes := (List.zip pe (List.range 128)).map (fun e =>
    if e.2 < jv then e.1.take kv ++ List.replicate (128 - kv) 0 else List.replicate 128 0)
  let sb := wordsOf 1 512 l.scales
  let scales := (List.range 128).map (fun j =>
    if isBlock fb then (sb.drop (4 * j)).take 4 else [0x7F, 0x7F, 0x7F, 0x7F])
  let present := if l.tr then l.mc else l.mr
  let gen := !present && l.gen
  let stored := (l.words.drop (if l.tr then 128 else 0)).take 128
  let vals := (List.zip codes scales).take jv |>.map (fun e => lineVals fb e.1 e.2)
  let made := ((transposed Num.zero kv vals).map (marginOf (isInt fb))) ++ List.replicate (128 - kv) 0
  ({ valid := true, owner := owner, codes := codes, scales := scales
     margin := if gen then made else if present then stored else List.replicate 128 0
     marginOk := present || gen, kv := kv, jv := jv, rows := l.rows }, gen)

/-- Read folio row `r` of a load; 128 stands for the scale block and the margins. -/
def LoadOp.readLine (s : State) (l : LoadOp) (r : Nat) : LoadOp :=
  let core := coreOf l.o.ctx
  let fb := l.fb.toNat
  if r < 128 then { l with lines := sset [] l.lines r (s.folioRow core l.addr fb r) }
  else { l with
    scales := if isBlock fb then s.poolRead core (l.addr + scaleOff fb 0) 512 else []
    words := s.folioMargins core l.addr fb 0 257 }

/-- `m.ldb` and `m.ldbt`: the load starts at t and completes at t+133 (R200). -/
def loadStation (s : State) (g : Guard) (l : BitVec 5) (gen tr : Bool) (off : BitVec 13) : Out :=
  arraySlot s g (fun s => withInput s (fun s => orPoison s unitM l.toNat (fun s =>
    let a := s.me.regL l.toNat
    s.emit 0 rankSample (.micro (.loadStart
      { o := s.here unitM, tr := tr, gen := gen, fb := s.me.fb, rows := s.rowMap (coreOf s.cur.ctx)
        acc := { sh := addrShelf a, off := (addrOffset a : Int) + 64 * off.toInt
                 size := folioSize s.me.fb.toNat } })))))

def execMLdb (g : Guard) (l : BitVec 5) (gen : Bool) (off : BitVec 13) (s : State) : Out :=
  loadStation s g l gen false off

def execMLdbt (g : Guard) (l : BitVec 5) (gen : Bool) (off : BitVec 13) (s : State) : Out :=
  loadStation s g l gen true off

/-- The load takes the array input and is on its way. -/
def State.loadStart (s : State) (l : LoadOp) : State :=
  ((s.modCore (coreOf l.o.ctx) (fun c => { c with inFree := s.now + 133, load := some l })).after 1 rankSample
    (.micro (.folioHeader l.o true))).after 133 rankLand (.op (.stationaryLoadComplete l.o))

/-- The load under way for an origin. -/
def State.loadOf (s : State) (o : Origin) : Option LoadOp :=
  match (s.coreAt (coreOf o.ctx)).load with
  | some l => if l.o = o then some l else none
  | none => none

/-- The reads of one cycle of a load; which cycle reads which line is open (R200, log 8). -/
def State.loadCycle (s : State) (l : LoadOp) (i : Nat) : State :=
  let l' := ((List.range 129).filter (fun r => Config.readCycle r % 128 == i)).foldl (LoadOp.readLine s) l
  let s := s.modCore (coreOf l.o.ctx) (fun c => { c with load := some l' })
  if i < 127 then s.after 1 rankSample (.micro (.streamRow l.o (i + 1))) else s

/-- STATIONARY_LOAD_COMPLETE: operand and descriptor from t+133 (R59, R202). -/
def execStationaryLoadComplete (o : Origin) (s : State) : Out :=
  .next (match s.loadOf o with
    | none => s
    | some l =>
      let r := l.operand (s.ctxAt o.ctx).uid
      let d := descOf (s.ctxAt o.ctx).stat l.acc l.fb l.tr r.2
      (s.modCore (coreOf o.ctx) (fun c => { c with array := { r.1 with desc := d }, load := none })).modCtx o.ctx
        (fun c => { c with stat := d }))

/-! ### Accumulators (R203, R204) -/

/-- The 129 words of accumulator row `i`, margin element last; row 128 is the column-margin row with the corner. -/
def State.zLow (s : State) (k z i : Nat) : List Nat :=
  let side := (s.ctxAt k).side z
  if i < 128 then
    wordsOf 4 128 (s.poolRead (coreOf k) ((s.ctxAt k).zBase z + 512 * i) 512) ++ [(sget 0 side.strip i).toNat]
  else (List.range 129).map (fun j => (sget 0 side.strip (128 + j)).toNat)

/-- The row as the pair zn, zn+1 holds it with `.wide`: high half in the second register. -/
def State.zRow (s : State) (k z i : Nat) (wide : Bool) : List Nat :=
  if wide then List.zipWith (fun a b => a + 2 ^ 32 * b) (s.zLow k z i) (s.zLow k (z + 1) i) else s.zLow k z i

/-- The pool counts the corrected errors of an accumulator row that is read; its margins stand beside the pool
(spec/18_integrity_repair.md R354). -/
def State.countRow (s : State) (k z i : Nat) (wide : Bool) : State :=
  if i < 128 then
    (if wide then [z, z + 1] else [z]).foldl (fun t r => t.countPool k ((t.ctxAt k).zBase r + 512 * i) 512) s
  else s

def setStrip (strip : Store Word) (base : Nat) (ws : List Nat) : Store Word :=
  swrite 0 strip base (ws.map (fun w => BitVec.ofNat 32 w))

def State.setZLow (s : State) (k z i : Nat) (ws : List Nat) : State :=
  let put := fun (t : State) (base : Nat) (ws : List Nat) =>
    t.modCtx k (fun c => c.setSide z { c.side z with strip := setStrip (c.side z).strip base ws })
  if i < 128 then
    put (s.poolWrite (coreOf k) ((s.ctxAt k).zBase z + 512 * i) ((ws.take 128).flatMap (leBytes 4))) i (ws.drop 128)
  else put s 128 ws

def State.setZRow (s : State) (k z i : Nat) (wide : Bool) (ws : List Nat) : State :=
  let s := s.setZLow k z i (ws.map (fun w => w % 2 ^ 32))
  if wide then s.setZLow k (z + 1) i (ws.map (fun w => w / 2 ^ 32)) else s

/-- One element of an accumulator, the low words of a pair or its high ones: in the pool, or beside it where it is a margin. A write of
its four bytes leaves the other words of the row, with their check bits, as they are (spec/18_integrity_repair.md R354). -/
def State.setZElem (s : State) (k z i j w : Nat) : State :=
  if i < 128 && j < 128 then s.poolWrite (coreOf k) ((s.ctxAt k).zBase z + 512 * i + 4 * j) (leBytes 4 w)
  else s.modCtx k (fun c => c.setSide z { c.side z with
    strip := setStrip (c.side z).strip (if i < 128 then i else 128 + j) [w] })

/-- The element as the accumulator, or the pair with `.wide`, holds it. -/
def State.setZValue (s : State) (k z i j : Nat) (wide : Bool) (v : Nat) : State :=
  let s := s.setZElem k z i j (v % 2 ^ 32)
  if wide then s.setZElem k (z + 1) i j (v / 2 ^ 32) else s

/-- `m.zero`: performs at t+1, after that cycle's row updates (R204). -/
def execMZero (g : Guard) (z : BitVec 4) (s : State) : Out :=
  arraySlot s g (fun s => s.emit 1 (rankPerform unitM + 1) (.micro (.zeroZ (s.here unitM) z.toNat)))

def State.zeroZ (s : State) (k z : Nat) : State :=
  (s.poolWrite (coreOf k) ((s.ctxAt k).zBase z) (List.replicate 65536 0)).modCtx k (fun c => c.setSide z {})

/-! ### The multiply (R205, R206) -/

/-- Whether the queue a view entry receives from is the context's (R206, spec/12_instr_network.md R240). -/
def State.ownsRx (s : State) (k e : Nat) : Bool := s.viewMine k && viewRxv (s.viewEntry (coreOf k) e)

/-- The reason-7 detail of an `m.mul` at issue (R197, Table 10-2). The accumulator's tag counts for detail 2 where the multiply adds to
it; one that sets it gives it a new tag (log 135). -/
def State.mulDetail (s : State) (k z pin : Nat) (wide : Bool) (asrc a pq : Nat) : Option Nat :=
  let c := s.ctxAt k
  let fa := c.fa.toNat
  let fb := descFb c.stat
  let v := s.viewEntry (coreOf k) pq
  let fk := (s.queue (viewRxl v) (viewRxq v)).fk.toNat
  if !descValid c.stat then some 7
  else if isInt fa != isInt fb || (asrc == 2 && !s.ownsRx k a) || (pin == 3 && !s.ownsRx k pq) then some 1
  else if wide && (!isInt fa || decide (2 ≤ pin) || (pin == 1 && !(c.side z).grpI)) then some 2
  else if (asrc == 2 && 512 % elemBits fa != 0) || (pin == 3 && (isInt fa || decide (3 ≤ fwCode fk))) then some 4
  else if (s.coreAt (coreOf k)).det && (asrc != 0 || decide (2 ≤ pin)) then some 9
  else none

/-- The source and sink words of the queue that a view entry receives from. -/
def State.queueWords (s : State) (k e : Nat) : BitVec 17 × BitVec 17 :=
  let v := s.viewEntry (coreOf k) e
  let q := s.queue (viewRxl v) (viewRxq v)
  (q.fs, q.fk)

/-- An `m.mul` starts: its checks at issue, its operand captured (R58, R205). -/
def multiply (s : State) (g : Guard) (z : BitVec 4) (pin : Nat) (asrc : BitVec 2) (wide : Bool) (a : BitVec 5)
    (pq : BitVec 4) : Out :=
  arraySlot s g (fun s => withInput s (fun s =>
    let c := s.me
    match s.mulDetail s.cur.ctx z.toNat pin wide asrc.toNat a.toNat pq.toNat with
    | some d => s.refuse7 d
    | none =>
      let m : MulOp :=
        { o := s.here unitM, z := z.toNat, pin := pin, wide := wide, fa := c.fa
          a := match asrc.toNat with
            | 0 => .shelf { sh := addrShelf (c.regL a.toNat), off := (addrOffset (c.regL a.toNat) : Int)
                            size := folioSize c.fa.toNat }
            | 1 => .chain
            | _ => .queue a.toNat
          p := match pin with
            | 2 => .chain
            | 3 => .queue pq.toNat
            | _ => .none
          op := (s.coreAt (coreOf s.cur.ctx)).array, af := descAf c.stat, pf := descPf c.stat
          wa := s.queueWords s.cur.ctx a.toNat, wp := s.queueWords s.cur.ctx pq.toNat
          kv := if asrc.toNat = 2 then flitWidth c.fa.toNat else 0 }
      let go := fun (s : State) => s.emit 0 rankSample (.micro (.mulStart m))
      if asrc = 0 then orPoison s unitM a.toNat go else go s))

def execMMulSet (g : Guard) (z : BitVec 4) (asrc : BitVec 2) (wide : Bool) (a : BitVec 5) (s : State) : Out :=
  multiply s g z 0 asrc wide a 0

def execMMulAcc (g : Guard) (z : BitVec 4) (asrc : BitVec 2) (wide : Bool) (a : BitVec 5) (s : State) : Out :=
  multiply s g z 1 asrc wide a 0

def execMMulPch (g : Guard) (z : BitVec 4) (asrc : BitVec 2) (wide : Bool) (a : BitVec 5) (s : State) : Out :=
  multiply s g z 2 asrc wide a 0

def execMMulPq (g : Guard) (z : BitVec 4) (asrc : BitVec 2) (wide : Bool) (a : BitVec 5) (pq : BitVec 4)
    (s : State) : Out :=
  multiply s g z 3 asrc wide a pq

/-- The multiply is on its way: its streams and its first update are due. Multiplies that nothing reads any more are
forgotten. -/
def State.mulStart (s : State) (m : MulOp) : State :=
  let s := s.modCore (coreOf m.o.ctx) (fun c => { c with inFree := s.now + 129 })
  let s := { s with muls := s.muls.filter (fun (x : MulOp) => decide (s.now ≤ x.o.t + 300)) ++ [m] }
  let s := match m.a with
    | .shelf _ => s.after 1 rankSample (.micro (.folioHeader m.o false))
    | .queue _ => s.after 1 rankPop (.micro (.popRow m.o 0 false))
    | _ => s.after 1 rankSample (.micro (.streamRow m.o 0))
  let s := match m.p with
    | .queue _ => s.after 134 rankPop (.micro (.popRow m.o 0 true))
    | _ => s
  (s.after 136 (rankPerform unitM) (.op (.arrayRowUpdate m.o 0))).after 264 rankUntimed (.micro (.mark m.o))

def State.mulOf (s : State) (o : Origin) : Option MulOp := s.muls.find? (fun m => m.o == o)

def State.setMul (s : State) (m : MulOp) : State := { s with muls := s.muls.map (fun x => if x.o = m.o then m else x) }

/-- The `m.mul` of the previous chain position that issued two cycles before (R206, R207). -/
def State.partner (s : State) (o : Origin) : Option MulOp :=
  if posOf (coreOf o.ctx) = 0 then none
  else s.muls.find? (fun m => coreOf m.o.ctx + 1 == coreOf o.ctx && m.o.t + 2 == o.t)

/-- The timing trap of a missing chain partner (R206, spec/12_instr_network.md Table 12-3, kind 6). -/
def State.noPartner (s : State) (o : Origin) (i : Nat) : State := s.fault o i 0x08 (infoNet 6 0 0 0 s.concI)

/-- Row `i` of a shelf A operand; codes at i ≥ iv read as 0 (R205). -/
def State.aRow (s : State) (m : MulOp) (i : Nat) : MRow :=
  let core := coreOf m.o.ctx
  let fa := m.fa.toNat
  { codes := if i < m.iv then s.folioRow core m.addr fa i else List.replicate 128 0
    scales := s.folioScales core m.addr fa i }

/-- Row `i` of A enters at t+1+i (R205, R206). -/
def State.streamMul (s : State) (m : MulOp) (i : Nat) : State :=
  let next := fun (s : State) => if i < 128 then s.after 1 rankSample (.micro (.streamRow m.o (i + 1))) else s
  match m.a with
  | .shelf _ =>
    next (s.setMul (if i < 128 then { m with arows := sset none m.arows i (some (s.aRow m i)) }
      else { m with amargin := s.folioMargins (coreOf m.o.ctx) m.addr m.fa.toNat 128 128 }))
  | _ =>
    match s.partner m.o with
    | none => s.noPartner m.o i
    | some p =>
      if !p.af || (i < 128 && (sget none p.arows i).isNone) then s.noPartner m.o i
      else
        next (s.setMul (if i < 128 then
          { m with arows := sset none m.arows i (sget none p.arows i), kv := p.kv, iv := p.iv }
          else { m with amargin := p.amargin, amc := p.amc }))

/-- One row of a stationary load or of a streamed A. -/
def State.streamRow (s : State) (o : Origin) (i : Nat) : State :=
  match s.loadOf o with
  | some l => s.loadCycle l i
  | none =>
    match s.mulOf o with
    | some m => s.streamMul m i
    | none => s

/-- The header read at t+1 with the four steps of R200; the first row is read in the same cycle. -/
def State.folioHeader (s : State) (o : Origin) (load : Bool) : State :=
  if load then
    match s.loadOf o with
    | none => s
    | some l =>
      let r := s.openFolio o l.acc l.fb.toNat
      match r.2 with
      | .error (cause, info) => r.1.fault o 0 cause info
      | .ok (addr, h) =>
        let l' := { l with addr := addr, rv := h.rows, cv := h.cols, mr := h.mr, mc := h.mc }
        (r.1.modCore (coreOf o.ctx) (fun c => { c with load := some l' })).loadCycle l' 0
  else
    match s.mulOf o with
    | none => s
    | some m =>
      match m.a with
      | .shelf acc =>
        let r := s.openFolio o acc m.fa.toNat
        match r.2 with
        | .error (cause, info) => r.1.fault o 0 cause info
        | .ok (addr, h) =>
          let m' := { m with addr := addr, kv := h.cols, iv := h.rows, amc := h.mc }
          (r.1.setMul m').streamMul m' 0
      | _ => s

/-- Words of a margin flit put at column 16 × index of a margin row. -/
def putMargins (row : List Nat) (index : Nat) (data : Nat) : List Nat :=
  let r := row ++ List.replicate (129 - row.length) 0
  r.take (16 * index) ++ codesOf 32 16 data ++ r.drop (16 * index + 16)

/-- Flit `f` of a queue operand, of A or of P, is popped (Table 10-5, spec/12_instr_network.md R246). -/
def State.popRow (s : State) (o : Origin) (f : Nat) (p : Bool) : State :=
  match s.mulOf o with
  | none => s
  | some m =>
    match (if p then m.p else m.a) with
    | .queue e =>
      let want := if f < 128 then (1, some f) else (2, some (f - 128))
      let r := s.pop o.ctx e (some want) false (some (if p then m.wp else m.wa))
      match r.2 with
      | .error (cause, info) => r.1.fault o f cause info
      | .ok x =>
        let fw := if p then m.wp.2.toNat else m.fa.toNat
        let w := flitWidth fw
        let codes := flitCodes fw x ++ List.replicate (128 - w) 0
        let last := f + 1 == 128 + w / 16
        let m' := match p, decide (f < 128) with
          | false, true => { m with arows := sset none m.arows f (some ⟨codes, flitScales x⟩) }
          | false, false => { m with amargin := (putMargins m.amargin (f - 128) x.data.toNat).take 128 }
          | true, true => { m with
              prows := sset [] m.prows f
                ((flitCodes fw x).map (fun c => rne32 (valOf fw c)) ++ List.replicate (128 - w) 0 ++ [flitMargin x]) }
          | true, false => { m with
              pmargin :=
                let r := (putMargins m.pmargin (f - 128) x.data.toNat).take 128
                r ++ [if last then flitMargin x else 0] }
        let s := r.1.setMul m'
        if last then s else s.after 1 rankPop (.micro (.popRow o (f + 1) p))
    | _ => s

/-- Scale codes with blocks past kv at 0x7F (R205). -/
def scalesUpTo (kv : Nat) (ss : List Nat) : List Nat :=
  (List.zip ss (List.range ss.length)).map (fun e => if kv ≤ 32 * e.2 then 0x7F else e.1)

/-- Output row `i` before accumulation: the 128 columns and the margin column (R103 to R105, R205). Codes of the F group
are binary32; the I group gives numbers modulo 2^32, or 2^64 with `.wide`. -/
def MulOp.products (m : MulOp) (i : Nat) : List Nat :=
  let fa := m.fa.toNat
  let fb := descFb m.op.desc
  let int := isInt fa
  let w := if m.wide then 64 else 32
  let kv := min m.kv m.op.kv
  let bm := if m.op.marginOk then m.op.margin else List.replicate 128 0
  let pe := List.zip m.op.codes m.op.scales
  if i < 128 then
    let a := (sget none m.arows i).getD ⟨List.replicate 128 0, [0x7F, 0x7F, 0x7F, 0x7F]⟩
    let sa := scalesUpTo kv a.scales
    if int then
      pe.map (fun b => intBits w (arrayDotI fa a.codes fb b.1 kv)) ++ [intBits w (marginDotI bm fa a.codes kv)]
    else
      pe.map (fun b => arrayDotF fa a.codes sa fb b.1 (scalesUpTo kv b.2) kv) ++ [marginDotF bm fa a.codes sa kv]
  else
    let am := if m.amc then m.amargin else List.replicate 128 0
    if int then
      pe.map (fun b => intBits w (marginDotI am fb b.1 kv)) ++ [intBits w (cornerDotI am bm kv)]
    else
      pe.map (fun b => marginDotF am fb b.1 (scalesUpTo kv b.2) kv) ++ [cornerDotF am bm kv]

/-- `add` of R205: rne32 in the F group, modulo 2^w in the I group. -/
def accAdd (int : Bool) (w x y : Nat) : Nat :=
  if int then (x + y) % 2 ^ w else rne32 ((val32 x).add (val32 y))

/-- The side storage after an `m.mul` with `jv` columns whose P flags are given (R205). -/
def sideAfter (z : ZSide) (m : MulOp) (entry : HistEntry) : ZSide :=
  let mr := m.op.marginOk
  let mc := m.amc
  let shelf := match m.a with
    | .shelf _ => true
    | _ => false
  if m.pin = 1 then
    { z with
      mr := z.mr && mr
      mc := z.mc && mc
      iv := max z.iv m.iv
      jv := max z.jv m.op.jv
      hist := match z.hist with
        | some h => if shelf && decide (h.length < 8) then some (h ++ [entry]) else none
        | none => none }
  else
    { z with
      mr := mr && (m.pin = 0 || m.pmr)
      mc := mc && (m.pin = 0 || m.pmc)
      iv := m.iv
      jv := m.op.jv
      grpI := isInt m.fa.toNat
      wide := m.wide
      hist := if m.pin = 0 && shelf then some [entry] else none }

/-- The history entry of an `m.mul` with a shelf source (R205, R210). -/
def MulOp.entry (m : MulOp) : HistEntry :=
  let acc := match m.a with
    | .shelf a => a
    | _ => { sh := 0, off := 0, size := 0 }
  { set := m.pin == 0, sh := acc.sh, off := acc.off.toNat, fa := m.fa, kv := min m.kv m.op.kv, desc := m.op.desc }

/-- Row `i` of P (Table 10-5): none while a chain partner is missing. -/
def State.pRow (s : State) (m : MulOp) (i : Nat) : Option (List Nat) :=
  match m.p with
  | .chain =>
    match s.partner m.o with
    | none => none
    | some p => if p.pf then p.outs.lookup i else none
  | .queue _ => some (if i < 128 then sget [] m.prows i else m.pmargin)
  | _ => some []

/-- Drains of the context that have read row `i` of an accumulator note its later update (R210). -/
def State.noteUpdate (s : State) (k z i : Nat) (wide : Bool) : State :=
  let hit := fun (d : DrainOp) => d.o.ctx == k && (d.z == z || (d.wide && d.z + 1 == z) || (wide && d.z == z + 1)) &&
    (d.rows.lookup i).isSome
  { s with drains := s.drains.map (fun d => if hit d then { d with late := i :: d.late } else d) }

/-- The column margins of a forwarded A as they stand when the last row needs them: a partner whose A is a queue may have popped
some of them after its own row 128 (Table 10-5, R207). -/
def State.chainMargin (s : State) (m : MulOp) : MulOp :=
  match m.a, s.partner m.o with
  | .chain, some p => { m with amargin := p.amargin }
  | _, _ => m

/-- ARRAY_ROW_UPDATE: accumulator row `i` at t+136+i; flags, tag and history with row 0 (R205). -/
def execArrayRowUpdate (o : Origin) (i : Nat) (s : State) : Out :=
  .next (match s.mulOf o with
    | none => s
    | some m =>
      let m := if i = 128 then s.chainMargin m else m
      let s := s.setMul m
      match s.pRow m i with
      | none => s.noPartner o i
      | some p =>
        let m := match m.p, s.partner o with
          | .chain, some q => { m with pmr := q.omr, pmc := q.omc }
          | _, _ => m
        let int := isInt m.fa.toNat
        let w := if m.wide then 64 else 32
        let ps := m.products i
        let prior := if m.pin = 1 then s.zRow o.ctx m.z i m.wide else p
        let s := if m.pin = 1 then s.countRow o.ctx m.z i m.wide else s
        let out := if m.pin = 0 then ps else List.zipWith (accAdd int w) prior ps
        let s := if m.pf then
            let m0 := sideAfter ((s.ctxAt o.ctx).side m.z) m m.entry
            s.setMul { m with outs := sput m.outs i out, omr := m0.mr, omc := m0.mc }
          else
            let s := if i = 0 then
                s.modCtx o.ctx (fun c => c.setSide m.z (sideAfter (c.side m.z) m m.entry))
              else s
            (s.setZRow o.ctx m.z i m.wide out).noteUpdate o.ctx m.z i m.wide
        if i < 128 then s.after 1 (rankPerform unitM) (.op (.arrayRowUpdate o (i + 1))) else s)

end Sys2Proof.Machine
end

