-- ==== Sys2Proof/Machine/Drain.lean ====
section
/-!
DEFINITION. `m.drain` and `m.chk` (spec/10_instr_matrix.md R208 to R214): row reads, the verdict, the recompute, the
conversion and its destinations; errata events, deaccession and core events (spec/18_integrity_repair.md R356 to R363).
-/

namespace Sys2Proof.Machine

/-! ### Issue -/

/-- The drain path must be free (R58). -/
def withDrainPath (s : State) (f : State → State) : State :=
  let free := (s.coreAt (coreOf s.cur.ctx)).drFree
  if s.now < free then s.issueTrap 0x04 (infoTiming 3 s.slotNo (s.concAt free)) else f s

/-- The operation as it starts: `$fc` and the tolerance entry are read at t (Table 10-6). -/
def State.newDrain (s : State) (z e : BitVec 4) (wide : Bool) : DrainOp :=
  { o := s.here unitM, chk := false, z := z.toNat, wide := wide, pub := false, lq := none
    acc := { sh := 0, off := 0, size := 0 }, fc := s.me.fc, tol := sget 0 s.me.tol e.toNat }

def State.emitDrain (s : State) (d : DrainOp) : State := s.emit 0 rankSample (.micro (.drainStart d))

/-- `.wide` with an F-group tag: detail 2 (R209). -/
def withTag (s : State) (z : BitVec 4) (wide : Bool) (f : State → State) : State :=
  if wide && !(s.me.side z.toNat).grpI then s.refuse7 2 else f s

/-- `m.drain` to a shelf (R208, R211). -/
def execMDrain (g : Guard) (z : BitVec 4) (l : BitVec 5) (e : BitVec 4) (wide pub : Bool) (s : State) : Out :=
  arraySlot s g (fun s => withDrainPath s (fun s => withTag s z wide (fun s => orPoison s unitM l.toNat (fun s =>
    let a := s.me.regL l.toNat
    s.emitDrain { s.newDrain z e wide with
      pub := pub
      acc := { sh := addrShelf a, off := (addrOffset a : Int), size := folioSize s.me.fc.toNat } }))))

/-- `m.drain` to a queue: the entry (detail 1), the tag (2), the format (4) (Table 10-2, Table 10-5). -/
def execMDrainQueue (g : Guard) (z : BitVec 4) (lq : BitVec 4) (e : BitVec 4) (wide : Bool) (s : State) : Out :=
  arraySlot s g (fun s => withDrainPath s (fun s =>
    if !(s.viewMine s.cur.ctx && viewTxv (s.viewEntry (coreOf s.cur.ctx) lq.toNat)) then s.refuse7 1
    else withTag s z wide (fun s =>
      if 512 % elemBits s.me.fc.toNat ≠ 0 then s.refuse7 4
      else s.emitDrain { s.newDrain z e wide with lq := some lq.toNat })))

/-- `m.chk` (R212). -/
def execMChk (g : Guard) (z : BitVec 4) (e : BitVec 4) (wide : Bool) (s : State) : Out :=
  arraySlot s g (fun s => withDrainPath s (fun s => withTag s z wide (fun s =>
    s.emitDrain { s.newDrain z e wide with chk := true })))

/-- The detail that a `.wide` slot reports which its encoding already refuses, with detail 2 for P-in 2 or 3 or with detail 3
for an odd pair: with a guard that holds, 7 without a stationary operand and otherwise the lowest that applies (R197); with
one that fails, only the encoding counts (R49). -/
def State.pairDetail (s : State) (k : Nat) (w : Word) : Nat :=
  let c := s.ctxAt k
  let z := (fld w 15 4).toNat
  let pin := (fld w 11 2).toNat
  let least := fun (d : Option Nat) (n : Nat) =>
    match (if c.passes (guardOf w) then d else none) with
    | some 7 => 7
    | some m => min m n
    | none => n
  let tag := if (c.side z).grpI then none else some 2
  match (fld w 23 5).toNat / 2 with
  | 4 =>
    least (s.mulDetail k z pin true (fld w 13 2).toNat (fld w 5 5).toNat (fld w 1 4).toNat) (if 2 ≤ pin then 2 else 3)
  | 5 =>
    least (if fbit w 14 && !(s.viewMine k && viewTxv (s.viewEntry (coreOf k) (fld w 9 4).toNat)) then some 1 else tag) 3
  | _ => least tag 3

/-- The operation takes the drain path for 129 cycles; rows from t+1, the verdict at t+136, complete at t+400. -/
def State.drainStart (s : State) (d : DrainOp) : State :=
  let s := s.modCore (coreOf d.o.ctx) (fun c => { c with drFree := s.now + 129 })
  let s := { s with drains := s.drains ++ [d] }
  ((s.after 1 rankSample (.op (.drainRowRead d.o 0))).after 136 rankSample (.op (.drainVerdict d.o))).after 400
    (rankPerform unitM) (.op (.drainComplete d.o))

def State.drainOf (s : State) (o : Origin) : Option DrainOp := s.drains.find? (fun d => d.o == o)

def State.setDrain (s : State) (d : DrainOp) : State :=
  { s with drains := s.drains.map (fun x => if x.o = d.o then d else x) }

/-- DRAIN_ROW_READ: accumulator row `i` at t+1+i; tag, flags and history with row 0 (R208, R209). -/
def execDrainRowRead (o : Origin) (i : Nat) (s : State) : Out :=
  .next (match s.drainOf o with
    | none => s
    | some d =>
      let d := if i = 0 then { d with side := (s.ctxAt o.ctx).side d.z } else d
      let s := s.countRow o.ctx d.z i d.wide
      let s := s.setDrain { d with rows := sput d.rows i (s.zRow o.ctx d.z i d.wide) }
      if i < 128 then s.after 1 rankSample (.op (.drainRowRead o (i + 1))) else s)

/-! ### Errata events (spec/18_integrity_repair.md R358, R359, R362) -/

/-- Count an event at cycle `c` in a window: the opening cycle and the count (R358). -/
def countEvent (w0 : BitVec 40) (n : Nat) (c : BitVec 40) (window : Nat) : BitVec 40 × Nat :=
  if n = 0 ∨ max window 1 ≤ (c - w0).toNat then (c, 1) else (w0, min (n + 1) 255)

/-- The state of a physical core: one of each bay's seven is in reserve (spec/16_scheduling.md R318, R361). -/
def State.physState (s : State) (p : Nat) : UnitState :=
  (sget none s.coreStates p).getD (if p % 7 = 6 || 336 ≤ p then .reserve else .active)

def State.setPhys (s : State) (p : Nat) (st : UnitState) : State :=
  { s with coreStates := sset none s.coreStates p (some st) }

/-- The state of the core at a logical position. -/
def State.coreState (s : State) (core : Nat) : UnitState := s.physState (s.physical core)

/-- A write to board flash begins; how long it takes is free (R360, log 6). -/
def State.writeFlash (s : State) (w : FlashWrite) : State :=
  { s.drawn with flashQueue := s.flashQueue ++ [w] }.after (1 + Config.untimedDelay s.free) rankUntimed
    (.micro .flashDone)

/-- The retirement of the core at a position, as it stands now, is to be decided or gone on with (R363, R364). -/
def State.postTakeover (s : State) (core : Nat) : State :=
  s.post ⟨s.now, rankUntimed, .micro (.takeover core (s.physical core))⟩

/-- A core event, which a core that is retiring or retired does not count (R358); at the threshold the core is retired (R362,
R363). -/
def State.coreEvent (s : State) (core : Nat) : State :=
  let c := s.coreAt core
  if s.coreState core = .retired ∨ s.coreState core = .retiring then s
  else
    let w := countEvent c.events.w0 c.events.n (BitVec.ofNat 40 s.conc) s.coreWin.1.toNat
    let s := s.modCore core (fun c => { c with events := { w0 := w.1, n := w.2 } })
    if s.coreWin.2 ≤ w.2 ∧ s.coreState core = .active then s.postTakeover core else s

/-- One errata event against a physical row; the answer says whether the row is to be deaccessioned (R358). -/
def State.errataEvent (s : State) (core p : Nat) : State × Bool :=
  let c := s.coreAt core
  let e := s.errEntry core p
  if s.coreState core = .retiring ∨ s.coreState core = .retired ∨ e.st ≠ 0 then (s, false)
  else
    let w := countEvent e.w0 e.n (BitVec.ofNat 40 s.conc) c.errw.toNat
    (s.setErrEntry core p { e with w0 := w.1, n := w.2 }, decide (max c.errt.toNat 1 ≤ w.2))

/-- Events of one verdict, in order, with the rows to deaccession. -/
def State.errataEvents (s : State) (core : Nat) : List Nat → State × List Nat
  | [] => (s, [])
  | p :: r =>
    let a := s.errataEvent core p
    let b := a.1.errataEvents core r
    (b.1, if a.2 then p :: b.2 else b.2)

/-- Ascending order of row numbers. -/
def sortRows (ps : List Nat) : List Nat := (List.range 133).filter (fun p => ps.contains p)

/-- Deaccession of one row: the lowest free reserve row takes its logical row, and the steward writes both entries to
flash in one write; with none free the core is retired (R359, R360, R363). -/
def State.deaccessRow (s : State) (core p : Nat) : State :=
  match (List.range 133).find? (fun q => (s.errEntry core q).st == 1) with
  | none =>
    if s.coreState core = .active then s.postTakeover core else s
  | some q =>
    let e := s.errEntry core p
    let f := s.errEntry core q
    let s := (s.setErrEntry core q { f with st := 0, lr := e.lr }).setErrEntry core p { e with st := 2, lr := 0 }
    let key := fun (r : Nat) => s.physical core * 133 + r
    (s.writeFlash (.rows [(key q, { w0 := 0, n := 0, st := 0, lr := e.lr }),
      (key p, { w0 := 0, n := 0, st := 2, lr := 0 })])).coreEvent core

/-- The deaccessions of one verdict, in ascending physical row, at the end of its cycle (R359). -/
def State.deaccess (s : State) (core : Nat) (ps : List Nat) : State := (sortRows ps).foldl (fun t p => t.deaccessRow core p) s

/-! ### The verdict (R209) -/

/-- A word of the drain as a value, under the tag that it read. -/
def DrainOp.value (d : DrainOp) (x : Nat) : Num :=
  if d.side.grpI then Num.ofInt (intCode (if d.wide then 64 else 32) false x) else val32 (x % 2 ^ 32)

def DrainOp.row (d : DrainOp) (i : Nat) : List Num := ((d.rows.lookup i).getD []).map d.value

/-- Whether elements disagree with their margin. -/
def DrainOp.test (d : DrainOp) (xs : List Num) (m : Num) : Bool :=
  disagrees d.side.grpI (if d.wide then 64 else 32) d.tol (sumNum xs) (sumMag xs) m

/-- The matrix as read: 129 rows of 129 values. -/
def DrainOp.matrix (d : DrainOp) : List (List Num) := (List.range 129).map d.row

/-- Rows that disagree, columns that disagree, and whether the corner does (R209). -/
def DrainOp.verdict (d : DrainOp) : List Nat × List Nat × Bool :=
  let m := d.matrix
  let tr := transposed Num.zero 129 m
  let bad := fun (l : List (List Num)) (i : Nat) =>
    let r := l.getD i []
    d.test (r.take 128) (r.getD 128 Num.zero)
  let rows := if d.side.mr then (List.range 128).filter (bad m) else []
  let cols := if d.side.mc then (List.range 128).filter (bad tr) else []
  (rows, cols, rows.isEmpty && cols.isEmpty && d.side.mr && d.side.mc && bad tr 128)

/-- Table 10-7. -/
def infoChecksum (row col nr nc z kind : Nat) (chk : Bool) : Reg :=
  BitVec.ofNat 64 (row + col * 2 ^ 8 + min nr 255 * 2 ^ 16 + min nc 255 * 2 ^ 24 + z * 2 ^ 32 + kind * 2 ^ 36 +
    chk.toNat * 2 ^ 39)

/-- A checksum trap of the M unit is also a core event (R356, R362). -/
def State.checksum (s : State) (d : DrainOp) (sub row col nr nc kind : Nat) : State :=
  (s.fault d.o sub 0x0F (infoChecksum row col nr nc d.z kind d.chk)).coreEvent (coreOf d.o.ctx)

/-- The physical rows that a verdict's events are logged against (R209, R356). -/
def State.eventRows (s : State) (core : Nat) (v : List Nat × List Nat × Bool) : List Nat :=
  let a := (s.coreAt core).array
  let phys := fun (j : Nat) => if a.valid then a.rows.getD j j else s.rowOf core j
  v.2.1.map phys ++ (if (!v.1.isEmpty && v.2.1.isEmpty) || v.2.2 then [phys 128] else [])

/-- After a passed verdict the destination is written from t+264 (Table 10-6). -/
def State.drainWrites (s : State) (d : DrainOp) (n : Nat) : State :=
  if d.chk then s else s.after n (rankPerform unitM) (.op (.drainRowWrite d.o 0))

/-- DRAIN_VERDICT at t+136. -/
def execDrainVerdict (o : Origin) (s : State) : Out :=
  .next (match s.drainOf o with
    | none => s
    | some d =>
      let core := coreOf o.ctx
      let v := d.verdict
      let e := s.errataEvents core (s.eventRows core v)
      let s := if e.2.isEmpty then e.1 else e.1.post ⟨s.now, rankUntimed, .micro (.deaccess core e.2)⟩
      match v.1, v.2.1 with
      | [], [] => s.drainWrites d 128
      | rs, cs =>
        if rs.length = 1 && cs.length = 1 && d.side.mr && d.side.mc then
          (s.setDrain { d with fix := some (rs.headD 0, cs.headD 0) }).after 127
            (rankPerform unitM + 1) (.op (.elementRecompute o))
        else s.checksum d 0 (rs.headD 0) (cs.headD 0) rs.length cs.length 1)

/-! ### The recompute (R210) -/

/-- A line of a folio as its reader sees it: 128 codes and the scales; codes past the valid counts read as 0. -/
def State.folioLine (s : State) (core addr fw : Nat) (h : Header) (byRow : Bool) (k : Nat) : List Nat × List Nat :=
  let n := if byRow then h.cols else h.rows
  let valid := decide (k < (if byRow then h.rows else h.cols))
  let codes := if byRow then s.folioRow core addr fw k
    else (List.range 128).map (fun r => (s.folioRow core addr fw r).getD k 0)
  ((List.zip codes (List.range 128)).map (fun e => if valid && decide (e.2 < n) then e.1 else 0),
    s.folioScales core addr fw k)

/-- The bytes of a folio that a recompute reads: the header, the codes of one line, which for a column lie in every row, and the
line's scales (R210, log 116). -/
def lineParts (fw : Nat) (byRow : Bool) (k : Nat) : List (Nat × Nat) :=
  let b := elemBits fw
  (0, 64) :: (if byRow then [(rowOff fw k, 16 * b)]
    else (List.range 128).map (fun r => (rowOff fw r + k * b / 8, (k * b % 8 + b + 7) / 8))) ++
    (if isBlock fw then [(scaleOff fw k, 4)] else [])

/-- The pool address of a folio of which a recompute reads a line: its half is FULL or DRAINING and not poisoned, whatever bytes
stand there now (R206, R210). What is read counts and finds errors by the bytes read (spec/18_integrity_repair.md R354). -/
def State.sourceFolio (s : State) (k : Nat) (acc : Access) (parts : List (Nat × Nat)) : State × Option Nat :=
  if readable (((s.ctxAt k).shelf acc.sh).stateAt false) then
    let r := parts.foldl (fun (t : State × Bool) e =>
      let x := t.1.readPoison k { acc with off := acc.off + (e.1 : Int), size := e.2 } false
      (x.1, t.2 || x.2)) (s, false)
    (r.1, if r.2 then none else some ((s.ctxAt k).accessAddr acc false))
  else (s, none)

/-- One entry of the history evaluated for element (i, j): a source that cannot be read gives none (R210). -/
def State.entryDot (s : State) (o : Origin) (h : HistEntry) (wide : Bool) (i j : Nat) : State × Option Nat :=
  let core := coreOf o.ctx
  let fa := h.fa.toNat
  let fb := descFb h.desc
  let ra := s.sourceFolio o.ctx { sh := h.sh, off := (h.off : Int), size := folioSize fa } (lineParts fa true i)
  let rb := ra.1.sourceFolio o.ctx
    { sh := descAddr h.desc / 2 ^ 26, off := (descAddr h.desc % 2 ^ 26 : Nat), size := folioSize fb }
    (lineParts fb (descTr h.desc) j)
  match ra.2, rb.2 with
  | some aAddr, some bAddr =>
    let a := rb.1.folioLine core aAddr fa (headerOf (s.poolRead core aAddr 64)) true i
    let b := rb.1.folioLine core bAddr fb (headerOf (s.poolRead core bAddr 64)) (descTr h.desc) j
    let w := if wide then 64 else 32
    (rb.1, some (if isInt fa then intBits w (arrayDotI fa a.1 fb b.1 h.kv)
      else arrayDotF fa a.1 (scalesUpTo h.kv a.2) fb b.1 (scalesUpTo h.kv b.2) h.kv))
  | _, _ => (rb.1, none)

/-- The element's value from its history, oldest entry first. -/
def State.recompute (s : State) (o : Origin) (wide : Bool) (i j : Nat) : List HistEntry → Nat → State × Option Nat
  | [], v => (s, some v)
  | h :: r, v =>
    let e := s.entryDot o h wide i j
    match e.2 with
    | none => (e.1, none)
    | some x =>
      e.1.recompute o wide i j r
        (if h.set then x else accAdd (isInt h.fa.toNat) (if wide then 64 else 32) v x)

/-- ELEMENT_RECOMPUTE at t+263, after that cycle's row updates: the value is written unless an update prevails, and its row and
column are tested again on the matrix as read, with the value in its place. -/
def execElementRecompute (o : Origin) (s : State) : Out :=
  .next (match s.drainOf o with
    | none => s
    | some d =>
      match d.fix with
      | none => s
      | some (i, j) =>
        match d.side.hist with
        | none => s.checksum d 0 i j 1 1 2
        | some hs =>
          let r := s.recompute o d.wide i j hs 0
          match r.2 with
          | none => r.1.checksum d 0 i j 1 1 2
          | some v =>
            let s := if d.late.contains i then r.1 else r.1.setZValue o.ctx d.z i j d.wide v
            let d := { d with rows := sput d.rows i (((d.rows.lookup i).getD []).set j v) }
            let s := s.setDrain d
            let col := (List.range 129).map (fun k => (d.row k).getD j Num.zero)
            if d.test ((d.row i).take 128) ((d.row i).getD 128 Num.zero) ||
                d.test (col.take 128) (col.getD 128 Num.zero) then s.checksum d 0 i j 1 1 3
            else s.drainWrites d 1)

/-! ### Conversion and destinations (R211) -/

/-- Values of a converted row that lie in the valid rows and columns (spec/18_integrity_repair.md R352). -/
def DrainOp.valid (d : DrainOp) (i : Nat) (vals : List Num) : List Num :=
  (List.zip vals (List.range vals.length)).map (fun e =>
    if i < d.side.iv && e.2 < d.side.jv then e.1 else Num.zero)

/-- The margins of the output, 257 words. -/
def DrainOp.margins (d : DrainOp) : List Nat :=
  marginBlock (isInt d.fc.toNat) ((List.range 128).map (fun i => (d.out.lookup i).getD []))

/-- A flit of a drain enters and departs in this cycle, or the drain stops (R242). -/
def State.drainFlit (s : State) (d : DrainOp) (sub e : Nat) (f : Nat → Flit) (go : State → State) : State :=
  let v := s.viewEntry (coreOf d.o.ctx) e
  match s.departFault (s.ctxAt d.o.ctx).part (viewTxl v) s.concI with
  | some kind => s.fault d.o sub 0x08 (infoNet kind e (viewTxl v) (viewTxq v) s.concI)
  | none => go ((s.commitDepart (viewTxl v) s.concI).sendFlit (viewTxl v) (f (viewTxq v)))

/-- Margin flit `m` of a drain to a queue (Table 10-5). -/
def State.drainMarginFlit (s : State) (d : DrainOp) (e m : Nat) : State :=
  let w := flitWidth d.fc.toNat
  let ms := d.margins
  let last := m + 1 == w / 16
  s.drainFlit d (128 + m) e
    (fun txq => makeFlit (packRun 32 (((ms.drop (128 + 16 * m)).take 16))) (if last then ms.getD 256 0 else 0) [] txq 2 m
      d.side.jv s.concI)
    (fun s => if last then s else s.after 1 (rankPerform unitM) (.op (.drainRowWrite d.o (128 + m + 1))))

/-- What follows row `i`: the next row, or the first margin flit. -/
def State.drainNext (s : State) (d : DrainOp) (i : Nat) : State :=
  if i < 127 || d.lq.isSome then s.after 1 (rankPerform unitM) (.op (.drainRowWrite d.o (i + 1))) else s

/-- A converted row goes to its shelf: state and range in each write cycle, the header with row 0 (R211). -/
def State.drainShelfRow (s : State) (d : DrainOp) (i : Nat) (c : Converted) : State :=
  let fc := d.fc.toNat
  let put := fun (t : State) (off : Nat) (bs : List Byte) =>
    t.shelfStore d.o.ctx { d.acc with off := d.acc.off + (off : Int), size := bs.length } bs
  let s := put s (rowOff fc i) (leBytes (16 * elemBits fc) (packRun (elemBits fc) c.codes))
  if isBlock fc then put s (scaleOff fc i) (leBytes 4 (packRun 8 c.scales)) else s

/-- DRAIN_ROW_WRITE: row `i` at t+264+i, or margin flit i − 128 of a drain to a queue (Table 10-6). -/
def execDrainRowWrite (o : Origin) (i : Nat) (s : State) : Out :=
  .next (match s.drainOf o with
    | none => s
    | some d =>
      let fc := d.fc.toNat
      match d.lq, decide (i < 128) with
      | some e, false => s.drainMarginFlit d e (i - 128)
      | lq, _ =>
        let chk := match lq with
          | none => s.writeCheck o.ctx d.acc 64
          | some _ => none
        match chk with
        | some f => s.fault o i f.cause (f.info d.acc.sh 1 unitM 0 i d.acc.off)
        | none =>
          let s := if lq.isNone && i == 0 then
              s.shelfStore o.ctx { d.acc with size := 64 } (headerBytes fc d.side.iv d.side.jv)
            else s
          let c := convertRow fc ((d.row i).take 128) d.side.grpI
          if !c.ok then s.checksum d i i 0 0 0 4
          else
            let vs := d.valid i c.vals
            let d := { d with out := sput d.out i vs }
            let s := s.setDrain d
            match lq with
            | none => (s.drainShelfRow d i c).drainNext d i
            | some e =>
              let w := flitWidth fc
              s.drainFlit d i e
                (fun txq => makeFlit (packRun (elemBits fc) (c.codes.take w)) (marginOf (isInt fc) vs)
                  (c.scales.take (w / 32)) txq 1 i d.side.jv s.concI)
                (fun s => s.drainNext d i))

/-- DRAIN_COMPLETE at t+400: the margin block, and with `.pub` the publish (Table 10-6). -/
def execDrainComplete (o : Origin) (s : State) : Out :=
  .next (match s.drainOf o with
    | none => s
    | some d =>
      let fc := d.fc.toNat
      let s := { s with drains := s.drains.filter (fun x => x.o != o) }
      if d.chk || d.lq.isSome then s.touch o.ctx
      else
        match s.writeCheck o.ctx d.acc 64 with
        | some f => s.fault o 128 f.cause (f.info d.acc.sh 1 unitM 0 0 d.acc.off)
        | none =>
          let bs := (d.margins.flatMap (leBytes 4)) ++ List.replicate 60 0
          let s := (s.shelfStore o.ctx { d.acc with off := d.acc.off + (marginOff fc 0 : Nat), size := bs.length } bs).touch o.ctx
          if d.pub then s.post ⟨s.now, rankShelf unitM, .op (.shelfTransitionApply o d.acc.sh .pub)⟩ else s)

end Sys2Proof.Machine
end

