-- ==== Sys2Proof/Machine/Issue.lean ====
section
/-!
DEFINITION. Issue: the selector (spec/16_scheduling.md R326 to R329), the presentation of bundles (spec/06_instr_control.md
R126), the opening of a bundle with its checks and its commit (spec/02_bundles_and_encoding.md R63, R65;
spec/06_instr_control.md R122).
-/

namespace Sys2Proof.Machine

/-- Put events at the front of this cycle's work. -/
def State.next (s : State) (es : List Event) : State :=
  { s with todo := es.map (fun e => ⟨s.now, rankIssue, e⟩) ++ s.todo }

/-! ### Opening a bundle -/

/-- The initial record takes its stamp at the issue of the context's first bundle, of whatever code that is
(spec/01_machine_state.md R33). -/
def State.stampFirst (s : State) (k : Nat) : State :=
  if (s.ctxAt k).fresh then
    s.modCtx k (fun c => { c with
      fresh := false, qrec := s.special k 0, record := { c.record with stamp := s.special k 0, round := s.issueRound k } })
  else s

/-- `$tinfo` of a decoding trap: the details of an M slot's `.wide` pair are several, of which one is reported
(spec/10_instr_matrix.md R197). -/
def State.decodingInfo (s : State) (k cause : Nat) (info : Reg) : Reg :=
  if cause = 1 && info.toNat / 2 ^ 36 % 8 = 7 && info.toNat / 2 ^ 28 % 8 = 5 then
    BitVec.ofNat 64 (info.toNat % 2 ^ 48 + s.pairDetail k (info.setWidth 32) * 2 ^ 48)
  else info

/-- The bundle of context `k` issues: format writes that it is the first to see take effect (R65); then its decoding
conditions (R111), then its slots. -/
def State.openBundle (s : State) (k : Nat) : State :=
  let s := (s.stampFirst k).endShadow k
  let c := s.ctxAt k
  match c.bundleFault with
  | some (cause, info) => s.raiseTrap k cause false c.pc (s.decodingInfo k cause info) false
  | none => { s with cur := { open_ := true, ctx := k, pc := c.pc, words := c.frame.1, idx := 0 } }

/-! ### Commit -/

/-- Rotation at a step of a rotating loop: the lap counts, and the predicate then named p8 takes the stage value 1
(R20, R124). -/
def Context.rotate (c : Context) (vrot : Bool) : Context :=
  let v := if vrot then (c.vlap + 1) % 32 else c.vlap
  let p := (c.plap + 1) % 8
  let c := { c with rrb := BitVec.ofNat 8 (v + 32 * p) }
  c.setPred (c.physP 8) true

/-- The end-bundle rule (R122): the context afterwards, and the start of the loop when it continues. -/
def Context.endBundle (c : Context) (pc : Word) (brk : Bool) : Context × Option Word :=
  match c.loops with
  | [] => (c, none)
  | l :: r =>
    if brk || l.stop != pc then (c, none)
    else if l.count.toNat ≤ 1 then ({ c with loops := r }, none)
    else
      let c1 := { c with loops := { l with count := l.count - 1, index := l.index + 1 } :: r }
      (if l.rot then c1.rotate l.vrot else c1, some l.start)

/-- What a `k.rot` with a nonzero count writes (R124). -/
def Context.startRotation (c : Context) (vrot : Bool) : Context :=
  { c with
    rrb := BitVec.ofNat 8 (if vrot then 0 else c.vlap)
    preds := (c.preds &&& 0x00FF) ||| 0x0100 }

/-- The loop stack after the bundle's own `k.brk`, `k.loop` or `k.rot`. -/
def Context.stackChange (c : Context) (cu : Cursor) : Context :=
  let c := if cu.brk then { c with loops := c.loops.drop 1 } else c
  let c := match cu.push with
    | some l => { c with loops := l :: c.loops }
    | none => c
  match cu.rot with
  | some v => c.startRotation v
  | none => c

/-- The next PC by R63 and whether the context resumes from its record (R135). -/
def Context.successor (c : Context) (loopStart : Option Word) (seq : Word) : Word × Bool :=
  match c.xfers.headD .no with
  | .to pc => (pc, false)
  | .rti => (seq, true)
  | .no => (loopStart.getD seq, false)

/-- The quiet bundle's own effects at its issue (R34, R125, R342). -/
def State.commitQuiet (s : State) (k : Nat) (pc : Word) : State :=
  let c := s.ctxAt k
  let s := s.releaseReserved k
  if c.sup then s.modCtx k (fun c => { c with qcount := 0 })
  else if c.reissue then s.modCtx k (fun c => { c with reissue := false, qcount := 0 })
  else s.record k pc

/-- The context after its bundle: loops, successor, tokens, counts. -/
def Context.commit (c : Context) (cu : Cursor) (seq : Word) : Context :=
  let e := c.endBundle cu.pc cu.brk
  let c1 := e.1.stackChange cu
  let n := c.successor e.2 seq
  let c2 := (List.range 8).foldl (fun c i => if cu.freed.getLsbD i then c.setToken i {} else c) c1
  { c2 with
    pc := n.1
    stage := if cu.halt then .ending else if n.2 then .resume else c2.stage
    halted := c2.halted || cu.halt
    sup := if n.2 then false else c2.sup
    xfers := c.xfers.drop 1 ++ [cu.xfer]
    il := cu.il.getD c2.il
    retired := cu.holdR.getD c2.retired + 1
    issued := c2.issued + 1
    qcount := c2.qcount + 1
    reissue := false
    held := none }

/-- A bundle whose slots have all run takes effect. -/
def State.commitBundle (s : State) : State :=
  let cu := s.cur
  let k := cu.ctx
  let seq := s.nextPc
  let s := if cu.quiet then s.commitQuiet k cu.pc else s
  let s := (s.tickShadow k).modCtx k (fun c => c.commit cu seq)
  { s with cur := {} }.postAll cu.buf

/-! ### Presentation (R126, R346, R347) -/

def State.missHold (s : State) (k : Nat) (i : Instr) : State :=
  s.raiseTrap k 0x08 false (s.ctxAt k).pc (BitVec.ofNat 64 ((s.ctxAt k).holdOf i)) false

/-- A re-timing bundle is presented for the first time: a missed hold traps; where the condition is not met a pending event
is taken (R126 to R133, R345). -/
def State.presentRetiming (s : State) (k : Nat) (i : Instr) : State :=
  let c := s.ctxAt k
  if s.missedHold k i then s.missHold k i
  else
    let others := if i = .kYield && !(s.coreAt (coreOf k)).det then s.readyOthers k else []
    let hold := fun (waits : Bool) => s.modCtx k (fun c => { c with
      held := some { t0 := s.conc, h := BitVec.ofNat 64 (c.holdOf i), others := others, waits := waits } })
    if (hold false).retimed k i then hold false
    else if c.sup then hold true
    else ((hold true).takeEvent k c.pc).getD (hold true)

/-- A context at whose bundle a breakpoint stands traps when the bundle is presented (R347). -/
def State.breakTrap (s : State) (k i : Nat) : State :=
  s.raiseTrap k 0x14 false (s.ctxAt k).pc (BitVec.ofNat 64 i) false

/-- A context that has issued, become held or ended since a `k.yield` was presented is waited for no more (R133). -/
def State.dropYielded (s : State) (k : Nat) : State :=
  s.modCtx k (fun c => { c with
    held := c.held.map (fun h => { h with others := h.others.filter (fun o => !s.yieldedTo o) }) })

/-- A bundle held since an earlier cycle is presented: a breakpoint set since then (R347), the traps of R346, a missed hold, then
a pending event (R126, R345). -/
def State.presentHeld (s : State) (k : Nat) : State :=
  let c := s.ctxAt k
  let i := c.bundle.headD .kNop
  match c.breakpoint with
  | some b => s.breakTrap k b
  | none =>
    match s.raisePending k with
    | some t => t
    | none =>
      if s.missedHold k i then s.missHold k i
      else if c.sup then s.dropYielded k
      else (s.takeEvent k c.pc).getD (s.dropYielded k)

/-- One context presents its next bundle in this cycle. A re-timing bundle of interlocked mode is presented once what its slots
read is no longer in flight, so its t0 is the cycle after that wait (R41, R126; log 122). -/
def State.presentCtx (s : State) (k : Nat) : State :=
  let c := s.ctxAt k
  if !c.due s.now then s
  else if c.held.isSome then s.presentHeld k
  else
    match c.breakpoint with
    | some i => s.breakTrap k i
    | none =>
      if c.bundleFault.isSome then s
      else
        match s.raisePending k with
        | some s' => s'
        | none =>
          let is := c.bundle
          let i := is.headD .kNop
          if !retiming i || c.inDelay || (c.il && s.interlocked k is) then s else s.presentRetiming k i

/-! ### Housekeeping before the selection -/

/-- Whether every loan and invalidation of the context has completed; with `after`, only those issued after its record
(R35, R138, R348). -/
def State.loansDone (s : State) (k : Nat) (after : Bool) : Bool :=
  s.loans.all (fun l => l.owner != .context k || (l.stage == .finished && !(after && (s.coreAt (coreOf k)).det)) ||
      (after && !l.afterRec)) &&
    s.invals.all (fun i => match i.ctx with
      | some (c, _) => c != k
      | none => true)

/-- The row a context waits for, once its condition holds: the handler's first bundle, resumption, the end, the save. -/
def State.houseRow (s : State) (k : Nat) : Option Instr :=
  let c := s.ctxAt k
  match c.stage with
  | .trap =>
    match c.trap with
    | some t => if t.at_ + 4 ≤ s.now && c.reloaded s.now && !s.pending k then some (.trapEntry k) else none
    | none => none
  | .resume => if !s.pending k && s.loansDone k true then some (.resumptionFromRecord k) else none
  | .ending => if !s.pending k && s.loansDone k false then some (.contextEnd k) else none
  | .stopped => if !s.pending k && s.loansDone k false then some (.contextEnd k) else none
  | .saving =>
    if !s.pending k && s.loansDone k false && (c.saveJob.isNone || c.saveStatus.isSome) then some (.contextSave k) else none
  | _ => none

/-! ### Selection -/

/-- Whether a context presents a `k.hold` whose H is this cycle. -/
def State.atHold (s : State) (k : Nat) : Bool :=
  let c := s.ctxAt k
  match c.bundle.headD .kNop with
  | .kHold r => c.bundleFault.isNone && !c.inDelay && c.holdTarget r == s.conc
  | _ => false

/-- Rule 4 of R326: a hold at its H first, then the larger credit, then the lower index. -/
def State.better (s : State) (a b : Nat) : Bool :=
  if s.atHold a != s.atHold b then s.atHold a else decide ((s.ctxAt b).credit ≤ (s.ctxAt a).credit)

def State.best (s : State) : Nat → List Nat → Nat
  | a, [] => a
  | a, b :: r => s.best (if s.better a b then a else b) r

/-- The ready contexts of the lowest class number present. -/
def State.lowestClass (s : State) (ks : List Nat) : List Nat :=
  let m := ks.foldl (fun m k => min m (s.ctxAt k).cls.toNat) 3
  ks.filter (fun k => (s.ctxAt k).cls.toNat == m)

/-- The picked context's credit falls by 1; when every ready context of its class has none left, every context of that
class takes its weight (R326). -/
def State.spendCredit (s : State) (core k : Nat) (same : List Nat) : State :=
  let s1 := s.modCtx k (fun c => { c with credit := c.credit - 1 })
  if same.all (fun j => decide ((s1.ctxAt j).credit ≤ 0)) then
    (coreCtxs core).foldl (fun t j =>
      if (t.ctxAt j).stage != .idle && (t.ctxAt j).cls == (s.ctxAt k).cls then
        t.modCtx j (fun c => { c with credit := (c.wt : Int) })
      else t) s1
  else s1

/-- The picked context issues, by the row that its bundle calls for. Before a context's first quiet bundle the bound of R34 is counted
from its start (log 134). -/
def State.issue (s : State) (k : Nat) : State :=
  let c := s.ctxAt k
  if c.bundleFault.isSome then s.openBundle k
  else if !c.il && c.qmax ≤ c.qcount then s.next [.op (.quietBoundExpiry k)]
  else if retiming (c.bundle.headD .kNop) && !c.inDelay then s.next [.op (.retimingRelease k)]
  else s.openBundle k

/-- A running context that is neither held nor ready in a cycle that could be its own counts it toward the quiet bound, in either
mode: the bound is tested in exposed mode, and a change of mode starts no new count (R34, R126). -/
def State.countWaiting (s : State) (ks ready : List Nat) : State :=
  ks.foldl (fun t k =>
    let c := t.ctxAt k
    if c.due t.now && c.held.isNone && !ready.contains k then
      t.modCtx k (fun c => { c with qcount := c.qcount + 1 })
    else t) s

/-- The selector of a core that is not deterministic (R326). A `k.hold` whose cycle goes to another context traps, ready or
not (R127). -/
def State.select (s : State) (core : Nat) : State :=
  let s := (coreCtxs core).foldl State.presentCtx s
  let ready := (coreCtxs core).filter s.ready
  let s := s.countWaiting (coreCtxs core) ready
  match s.lowestClass ready with
  | [] => s
  | a :: r =>
    let k := s.best a r
    let s := (coreCtxs core).foldl (fun t j =>
      if j ≠ k && (t.ctxAt j).due t.now && (t.ctxAt j).held.isSome && t.atHold j then
        t.raiseTrap j 0x08 false (t.ctxAt j).pc (BitVec.ofNat 64 t.conc) false
      else t) s
    (s.spendCredit core k (a :: r)).issue k

/-- Deliver the loans of a deterministic context whose round has come, or none if one is not complete (R329). -/
def State.deliverTurn (s : State) (core k : Nat) : Option State :=
  let n := (s.coreAt core).round
  let due := s.loans.filter (fun l => l.owner == .context k && !l.delivered && decide (l.round + Config.deliveryRounds ≤ n))
  if due.all (fun l => l.stage == .finished) then
    some (due.foldl (fun t l => { t with
      loans := t.loans.map (fun m => if m.id = l.id then { m with delivered := true } else m)
      todo := ⟨t.now, rankIssue, .op (.loanDelivery l.id)⟩ :: t.todo }) s)
  else none

/-- A wait for a cycle of the core's turns, put off by a frozen cycle. -/
def putOff (now t : Nat) : Nat := if now < t then t + 1 else t

/-- A frozen cycle is no turn: what a context of the core waits for in turns comes a cycle later (R330, log 130). -/
def Context.freeze (c : Context) (now : Nat) : Context :=
  { c with
    resumeAt := putOff now c.resumeAt
    deferred := c.deferred.map (fun d => { d with due := putOff now d.due })
    trap := c.trap.map (fun t => { t with at_ := putOff now (t.at_ + 4) - 4 }) }

/-- The core is frozen in this cycle: the occupancies, the waits and the pending work of its contexts are counted in turns, which
do not go on (R329, R330). -/
def State.freeze (s : State) (core : Nat) : State :=
  let s := s.modCore core (fun c =>
    { c with
      seen := if c.frozen then c.seen else s.changedPhases, seenTo := s.now + 1, frozen := true, lag := c.lag + 1,
      vFree := putOff s.now c.vFree, inFree := putOff s.now c.inFree,
      drFree := putOff s.now c.drFree })
  let s := { s with late := s.late.map (fun x =>
    if coreOf x.ctx = core then { x with until_ := putOff s.now x.until_ } else x) }
  (coreCtxs core).foldl (fun t k => t.modCtx k (fun c => c.freeze s.now)) s

/-- A held bundle counts as presented in every cycle, also outside its context's turn (R126, R346). -/
def State.presentAllHeld (s : State) (core : Nat) : State :=
  (coreCtxs core).foldl (fun t j =>
    if (t.ctxAt j).due t.now && (t.ctxAt j).held.isSome then t.presentHeld j else t) s

/-- Whether the turns of a deterministic core are given: its first contexts have started (R322, R330), and where contexts are being
restored none saved from their core is still missing and each may issue (R331, log 95). -/
def State.turning (s : State) (core : Nat) : Bool :=
  let c := s.coreAt core
  decide (c.startAt ≤ s.now) && (match c.awaits with
    | some n => s.saved.all (fun v => coreOf v.key != n) &&
        (coreCtxs core).all (fun j => (s.ctxAt j).stage == .idle || (s.ctxAt j).reloaded s.now)
    | none => true)

/-- The turn passes; four turns make a round (R329). -/
def Core.passTurn (c : Core) : Core :=
  { c with turn := (c.turn + 1) % 4, round := if c.turn = 3 then c.round + 1 else c.round, frozen := false, awaits := none }

/-- One turn of a deterministic core: deliveries first (the row LOAN_DELIVERY runs before the turn), a freeze while a due
loan is not complete, then the bundle of the turn's context (R329). The turns before the round of a restored record are empty and
count toward nothing (R331). -/
def State.takeTurn (s : State) (core : Nat) : State :=
  let c := s.coreAt core
  let k := 4 * core + c.turn % 4
  match s.deliverTurn core k with
  | none => s.freeze core
  | some s1 =>
    if s1.todo.length ≠ s.todo.length then
      { s1 with
        todo := s1.todo.take (s1.todo.length - s.todo.length) ++
          ⟨s.now, rankIssue, .op (.issueSelection core)⟩ :: s1.todo.drop (s1.todo.length - s.todo.length) }
    else
      let s2 := s1.presentCtx k
      let ready := s2.ready k && decide ((s2.ctxAt k).turnRound ≤ c.round)
      let s3 := s2.modCore core Core.passTurn
      if ready then s3.issue k
      else if (s3.ctxAt k).turnRound ≤ c.round then s3.countWaiting [k] [] else s3

/-! ### The rows ISSUE_SELECTION, QUIET_BOUND_EXPIRY, RETIMING_RELEASE -/

/-- ISSUE_SELECTION: the rows that contexts of the core wait for come first, each followed by the selection again; then the
selector picks, or the turn is given (R326, R329). -/
def execIssueSelection (core : Nat) (s : State) : Out :=
  .next (match (coreCtxs core).findSome? s.houseRow with
    | some row => s.next [.op row, .op (.issueSelection core)]
    | none =>
      if !(s.coreAt core).det then s.select core
      else if s.turning core then (s.presentAllHeld core).takeTurn core
      else s)

/-- QUIET_BOUND_EXPIRY (R34): the bundle traps instead of issuing. -/
def execQuietBoundExpiry (k : Nat) (s : State) : Out :=
  let c := s.ctxAt k
  .next (s.raiseTrap k 0x10 false c.pc (BitVec.ofNat 64 (c.qcount % 2 ^ 32 * 2 ^ 32)) false)

/-- RETIMING_RELEASE (R126): the held bundle issues. Its condition is tested again by its K slot. -/
def execRetimingRelease (k : Nat) (s : State) : Out := .next (s.openBundle k)

end Sys2Proof.Machine
end

