-- ==== Sys2Proof/Machine/Trap.lean ====
section
/-!
DEFINITION. Trap entry (spec/17_traps_preemption.md R339), resumption from the quiet record
(spec/01_machine_state.md R35, R38; spec/14_dram_system.md R304) and the end of a context
(spec/06_instr_control.md R139).
-/

namespace Sys2Proof.Machine

/-- TRAP_ENTRY: the registers take their values and the handler's first bundle stands at its vector (R339). -/
def execTrapEntry (k : Nat) (s : State) : Out := .next (s.enterHandler k)

/-! ### The reload of the stationary operand (R38, R202) -/

/-- The load that a stationary descriptor records. -/
def reloadOp (k : Nat) (d : Reg) (rows : List Nat) : LoadOp where
  o := { ctx := k, t := 0, pc := 0, slot := 0, unit := unitM, word := 0 }
  tr := descTr d
  gen := descGen d
  acc := { sh := wordShelf (descAddr d), off := (wordOff (descAddr d) : Int), size := folioSize (descFb d) }
  fb := BitVec.ofNat 32 (descFb d)
  rows := rows

/-- A descriptor without its forwarding bits, which no load changes (spec/10_instr_matrix.md R207). -/
def descLoad (d : Reg) : Reg := putBit (putBit d 53 false) 52 false

/-- Whether the array no longer holds the operand that the context's descriptor names. -/
def State.needsReload (s : State) (k : Nat) : Bool :=
  let c := s.ctxAt k
  let a := (s.coreAt (coreOf k)).array
  descValid c.stat && !(a.valid && a.owner == c.uid && descLoad a.desc == descLoad c.stat)

/-- The operand is loaded again from its folio under the row map now in force. The read counts corrected errors, and an error that
is not corrected sets the half's flag; there is no bundle that it could trap, and the operand is what is stored
(spec/18_integrity_repair.md R354, log 28). -/
def State.reloadOperand (s : State) (k : Nat) : State :=
  let s := (s.readPoison k (reloadOp k (s.ctxAt k).stat []).acc false).1
  let c := s.ctxAt k
  let l := reloadOp k c.stat (s.rowMap (coreOf k))
  let addr := c.accessAddr l.acc false
  let h := headerOf (s.poolRead (coreOf k) addr 64)
  let l := { l with addr := addr, rv := h.rows, cv := h.cols, mr := h.mr, mc := h.mc }
  let l := (List.range 129).foldl (LoadOp.readLine s) l
  s.modCore (coreOf k) (fun x => { x with array := { (l.operand c.uid).1 with desc := c.stat } })

/-! ### Resumption -/

/-- A context whose record has just been restored: its banks are closed (R304), its operand is loaded again, as `m.ldb`
takes 133 cycles (R200, log 24), and its quiet bundle issues no earlier. -/
def State.readyToIssue (s : State) (k : Nat) : State :=
  let s := if s.needsReload k then (s.reloadOperand k).modCtx k (fun c => { c with resumeAt := s.now + 133, closes := [] })
    else s.modCtx k (fun c => { c with resumeAt := s.now, closes := [] })
  if (s.ctxAt k).gD then s.closeBanks k else s

/-- RESUMPTION_FROM_RECORD: the record is restored, entries reserved after it are cancelled, and its quiet bundle is to
issue again (R35, R132). -/
def execResumptionFromRecord (k : Nat) (s : State) : Out := .next (((s.returnToRecord k).cancelReserved k).readyToIssue k)

/-! ### The end of a context (R139) -/

/-- The launch loses a context; with its last one it ends (spec/16_scheduling.md R323). -/
def State.leaveLaunch (s : State) (launch k : Nat) (trapped : Bool) : State :=
  let s := { s with launches := s.launches.map (fun (l : Launch) =>
    if l.id = launch then { l with ctxs := l.ctxs.filter (fun j => j != k), trapped := l.trapped + trapped.toNat } else l) }
  if s.launches.any (fun l => l.id == launch && l.ctxs.isEmpty && l.stage == .live) then
    s.post ⟨s.now, rankUntimed, .op (.launchEnd launch)⟩
  else s

/-- A core without a live context is no longer deterministic (spec/16_scheduling.md R328). -/
def State.settleCore (s : State) (core : Nat) : State :=
  if (coreCtxs core).all (fun j => (s.ctxAt j).stage == .idle) then
    s.modCore core (fun c => { c with det := false, turn := 0, round := 0, frozen := false, startAt := 0, awaits := none })
  else s

/-- The context leaves its slot: its work, its reserved entries and its loans are gone, and its run and grants are free. -/
def State.vacate (s : State) (k : Nat) : State :=
  let s := s.cancelReserved k
  { s with loans := s.loans.filter (fun (l : Loan) => l.owner != LoanOwner.context k)
           invals := s.invals.filter (fun (i : Inval) => match i.ctx with
             | some (j, _) => j != k
             | none => true)
    }.setCtx k {}

/-- The steward ends a launch: its contexts stop, saved ones are dropped, and it ends with status 2 once the rest have ended
(spec/16_scheduling.md R323). -/
def State.forceEnd (s : State) (id : Nat) : State :=
  match s.launches.find? (fun l => l.id == id) with
  | none => s
  | some l =>
    let held := (s.saved.filter (fun v => v.ctx.launch == id)).map (fun v => v.key)
    let s := { s with
      launches := s.launches.map (fun (m : Launch) =>
        if m.id = id then { m with forced := true, ctxs := m.ctxs.filter (fun k => !held.contains k) } else m)
      saved := s.saved.filter (fun v => v.ctx.launch != id) }
    let live := l.ctxs.filter (fun k => !held.contains k)
    let s := live.foldl (fun t k => t.modCtx k (fun c =>
      { c with stage := .stopped, trap := if c.bySup then c.trap else none, deferred := [], held := none
               xfers := [.no, .no, .no] })) s
    if live.isEmpty && l.stage == .live then s.post ⟨s.now, rankUntimed, .op (.launchEnd id)⟩ else s

/-- The logical cores whose physical core is in a state. -/
def State.coresIn (s : State) (st : UnitState) : List Nat := (List.range 288).filter (fun c => s.coreState c == st)

/-- The repair sequences look whether the contexts they wait for have saved or ended
(spec/18_integrity_repair.md R364, R366). -/
def State.pokeRepair (s : State) : State :=
  let cores := if s.coreStates.any (fun e => e.2 == some .retiring) then s.coresIn .retiring else []
  let dies := s.dies.filter (fun e => e.2 == some .retiring)
  (cores.foldl State.postTakeover s).postAll (
    dies.map (fun e => ⟨s.now, rankUntimed, .op (.spareDieTakeover e.1)⟩))

/-- The steward receives a context that a trap in supervisor mode stopped, with what the trap would have written
(spec/17_traps_preemption.md R344). -/
def State.reportStop (s : State) (k : Nat) : State :=
  match (s.ctxAt k).bySup, (s.ctxAt k).trap with
  | true, some t => { s with stops := s.stops ++ [(k, t.pc, t.word, t.info)] }
  | _, _ => s

/-- A context became free: every die of its partition looks at its launch pool again (spec/16_scheduling.md R324). -/
def State.offerDies (s : State) (part : Nat) : State :=
  let dies := ((sget ({} : Partition) s.parts part).cores.map dieOf).eraseDups
  let pools := dies.foldl (fun m d => sset [] m d ((s.poolOf d).map (fun (e : PoolEntry) => { e with tried := false }))) s.lpool
  { s with lpool := pools }.postAll (dies.map (fun d => ⟨s.now, rankUntimed, .op (.childPlacement d)⟩))

/-- CONTEXT_END: nothing of the context is left in flight; it leaves its launch (R139). -/
def execContextEnd (k : Nat) (s : State) : Out :=
  let c := s.ctxAt k
  let s := (((s.reportStop k).vacate k).leaveLaunch c.launch k c.bySup).settleCore (coreOf k)
  .next ((s.offerDies c.part).pokeRepair)

end Sys2Proof.Machine
end

