-- ==== Sys2Proof/Machine/Save.lean ====
section
/-!
DEFINITION. Pre-emption (spec/17_traps_preemption.md R348 to R350): the save area of a context, the save, and the restore of
a saved context onto a core (spec/16_scheduling.md R331).
-/

namespace Sys2Proof.Machine

/-! ### The save area (R349, Table 17-5) -/

/-- Byte runs at rising offsets, with zeros between, from `pos` on. -/
def laid : Nat → List (Nat × List Byte) → List Byte
  | _, [] => []
  | pos, (o, bs) :: r => List.replicate (o - pos) 0 ++ bs ++ laid (o + bs.length) r

def le (n v : Nat) : List Byte := leBytes n v

/-- `n` registers of a file. -/
def regBytes (m : Store Reg) (n : Nat) : List Byte := (List.range n).flatMap (fun i => le 8 (sget 0 m i).toNat)

def TokenState.code : TokenState → Nat
  | .free => 0
  | .busy => 1
  | .done => 2
  | .fault => 3

def tokenStateOf (n : Nat) : TokenState :=
  match n with
  | 0 => .free
  | 1 => .busy
  | 2 => .done
  | _ => .fault

def loopBytes (l : LoopEntry) : List Byte :=
  le 4 l.count.toNat ++ le 4 l.index.toNat ++ le 4 l.start.toNat ++ le 4 l.stop.toNat ++
    le 16 (l.rot.toNat + 2 * l.vrot.toNat)

def loopOf (bs : List Byte) : LoopEntry where
  count := BitVec.ofNat 32 (leNat (bytesAt bs 0 4))
  index := BitVec.ofNat 32 (leNat (bytesAt bs 4 4))
  start := BitVec.ofNat 32 (leNat (bytesAt bs 8 4))
  stop := BitVec.ofNat 32 (leNat (bytesAt bs 12 4))
  rot := (leNat (bytesAt bs 16 1)).testBit 0
  vrot := (leNat (bytesAt bs 16 1)).testBit 1

/-- A log entry in 32 bytes (log 25): op, token, status, 1 for present and 2 for a poisoned old value; the operand's address
word; source, destination, old value. -/
def logBytes (e : LogEntry) : List Byte :=
  le 1 e.op.toNat ++ le 1 e.tk ++ le 1 e.status ++ le 1 (1 + 2 * e.bad.toNat) ++ le 4 e.opnd.toNat ++ le 8 e.src.toNat ++
    le 8 e.dst.toNat ++
    le 8 e.old.toNat

def logOf (n : Nat) (bs : List Byte) : Option LogEntry :=
  if (leNat (bytesAt bs 3 1)).testBit 0 then
    some { ordinal := n, op := BitVec.ofNat 8 (leNat (bytesAt bs 0 1)), tk := leNat (bytesAt bs 1 1)
           status := leNat (bytesAt bs 2 1), opnd := BitVec.ofNat 64 (leNat (bytesAt bs 4 4))
           src := BitVec.ofNat 64 (leNat (bytesAt bs 8 8)), dst := BitVec.ofNat 64 (leNat (bytesAt bs 16 8))
           old := BitVec.ofNat 64 (leNat (bytesAt bs 24 8)), round := 0
           bad := (leNat (bytesAt bs 3 1)).testBit 1 }
  else none

/-- Side storage of an accumulator in 2 KiB (log 25): the strip, then mr and mc, then the tag. -/
def sideBytes (z : ZSide) : List Byte :=
  (List.range 257).flatMap (fun i => le 4 (sget 0 z.strip i).toNat) ++ le 4 (z.mr.toNat + 2 * z.mc.toNat) ++ le 1 z.iv ++
    le 1 z.jv ++ le 1 z.grpI.toNat ++ le 1 z.wide.toNat

def sideOf (bs : List Byte) : ZSide where
  strip := (List.range 257).foldl (fun m i => sset 0 m i (BitVec.ofNat 32 (leNat (bytesAt bs (4 * i) 4)))) []
  mr := (leNat (bytesAt bs 1028 1)).testBit 0
  mc := (leNat (bytesAt bs 1028 1)).testBit 1
  iv := leNat (bytesAt bs 1032 1)
  jv := leNat (bytesAt bs 1033 1)
  grpI := (leNat (bytesAt bs 1034 1)).testBit 0
  wide := (leNat (bytesAt bs 1035 1)).testBit 0
  hist := none

def maskBytes (m : BitVec 8192) : List Byte := leBytes 1024 m.toNat

/-- The parts of Table 17-5 below the pool run. -/
def saveParts (c : Context) (det : Bool) : List (Nat × List Byte) :=
  let r := c.record
  let toks := (List.range 8).map (fun i => (sget ({} : Token) r.toks i))
  [(0x0000, le 8 (1 + c.saveCause * 2 ^ 8 + det.toNat * 2 ^ 16 + c.il.toNat * 2 ^ 17)),
   (0x0008, le 8 c.qrec.toNat),
   (0x0010, le 4 r.pc.toNat ++ le 4 r.lk.toNat),
   (0x0018, le 2 r.vl ++ le 1 r.rrb.toNat ++ le 1 r.loops.length ++ le 2 r.preds.toNat ++
     le 2 (packRun 2 (toks.map (fun t => t.st.code)))),
   (0x0020, (r.loops.take 6).flatMap loopBytes),
   (0x00E0, (List.range 4).flatMap (fun i => le 4 (sget 0 r.bts i).toNat)),
   (0x00F0, le 4 r.fa.toNat ++ le 4 r.fb.toNat ++ le 4 r.fc.toNat ++ le 2 r.qmax),
   (0x0100, regBytes r.tol 16),
   (0x0180, le 8 r.stat.toNat ++ le 4 r.lp.toNat),
   (0x0190, if det then le 8 r.retired ++ le 8 r.round ++ toks.flatMap (fun t => le 8 t.round) else []),
   (0x0200, regBytes r.ra 32 ++ regBytes r.rb 32 ++ regBytes r.rl 32 ++ regBytes r.rn 16 ++ regBytes r.rd 16),
   (0x0600, (List.range 64).flatMap (fun i => le 8 (packShelf (sget {} r.shelves i)).toNat)),
   (0x0800, (List.range 64).flatMap (fun i => le 8 (packShelf (c.shelf i)).toNat)),
   (0x0A00, le 8 c.changed.toNat),
   (0x1000, [1, 2, 3].flatMap (fun q => maskBytes (c.mask q))),
   (0x2000, (List.range 256).flatMap (fun n => match c.logged n with
     | some e => logBytes e
     | none => List.replicate 32 0)),
   (0x4000, (List.range 16).flatMap (fun j => (sideBytes (c.side j) ++ List.replicate 2048 0).take 2048))]

/-- Bytes of a context's pool run. -/
def Context.runBytes (c : Context) : Nat := 65536 * (c.vg + c.zg + c.sg)

/-- A record in which the tokens of some loans are BUSY, as they were when it was taken (spec/16_scheduling.md R331). -/
def Record.withBusy (r : Record) (ls : List Loan) : Record :=
  { r with toks := ls.foldl (fun m l =>
      let t := sget ({} : Token) m (recTk l.raw)
      if t.loan = l.id then sset {} m (recTk l.raw) { t with st := .busy, status := 0 } else m) r.toks }

/-- The whole area. Its record holds the tokens of loans that have been delivered since as it took them, BUSY
(spec/16_scheduling.md R331). -/
def State.saveArea (s : State) (k : Nat) : List Byte :=
  let c := s.ctxAt k
  let c := { c with record := c.record.withBusy (s.loans.filter (fun l => l.owner == .context k && l.delivered)) }
  laid 0 (saveParts c (s.coreAt (coreOf k)).det ++ [(0x10000, s.poolRead (coreOf k) (65536 * c.gbase) c.runBytes)])

/-! ### The save (R348) -/

/-- Where a context's save area lies: at its class, under its launch's root (R348, R350). -/
def areaSpace (c : Context) (root : Nat) : Space :=
  { engine := stewardEngine, part := c.part, root := root, cls := c.cls.toNat }

/-- Step 2: the area is written; format writes still in their shadow are in force first
(spec/02_bundles_and_encoding.md R65). The read of the pool run counts its corrected errors, and what is not corrected is saved
as stored (spec/18_integrity_repair.md R354, log 28). -/
def State.startSave (s : State) (k : Nat) : State :=
  let s := s.flushShadow k
  let c := s.ctxAt k
  let s := s.countPool k (65536 * c.gbase) c.runBytes
  let a := s.saveArea k
  (s.modCtx k (fun c => { c with saveJob := some s.nextId })).startJob (.save k c.uid) (areaSpace c (s.rootOf k)) c.saveVA
    a.length a

/-- The write of an area has ended. -/
def State.saveWritten (s : State) (k uid status : Nat) : State :=
  s.modCtx k (fun c => if c.uid == uid && c.stage == .saving then { c with saveStatus := some status } else c)

/-- The context as the steward keeps it, with the loans issued before its record that wait for their delivery round, or will wait
for it again (R331). -/
def State.savedEntry (s : State) (k : Nat) : Saved :=
  let c := s.ctxAt k
  { id := s.nextId, key := k, repair := c.saveCause == 0x23
    ctx := { c with stage := .saved, reserved := [], saveJob := none, saveStatus := none }
    loans := (s.loans.filter (fun l => l.owner == .context k && !l.afterRec)).map (fun (l : Loan) =>
      { l with delivered := false }) }

/-- Step 3: the reserved entries made after the record are cancelled, and run and grants are free. -/
def State.leaveSaved (s : State) (k : Nat) : State :=
  let c := s.ctxAt k
  let v := s.savedEntry k
  let s := s.cancelReserved k
  let s := { s with
    nextId := s.nextId + 1, saved := s.saved ++ [v], loans := s.loans.filter (fun (l : Loan) => l.owner != LoanOwner.context k) }
  (((s.setCtx k {}).settleCore (coreOf k)).offerDies c.part).pokeRepair

/-- CONTEXT_SAVE: the save area is written; when that is done the context leaves its slot, and a page that refused ends the
launch (R348). -/
def execContextSave (k : Nat) (s : State) : Out :=
  .next (match (s.ctxAt k).saveStatus with
    | some 0 => s.leaveSaved k
    | some _ => s.forceEnd (s.ctxAt k).launch
    | none => if (s.ctxAt k).saveJob.isSome then s else s.startSave k)

/-! ### The restore (R350, R331) -/

def areaReg (a : List Byte) (off : Nat) : Reg := BitVec.ofNat 64 (leNat (bytesAt a off 8))

def areaWord (a : List Byte) (off : Nat) : Word := BitVec.ofNat 32 (leNat (bytesAt a off 4))

def areaNat (a : List Byte) (off n : Nat) : Nat := leNat (bytesAt a off n)

/-- `n` registers of a file in the area. -/
def areaFile (a : List Byte) (off n : Nat) : Store Reg :=
  (List.range n).foldl (fun m i => sset 0 m i (areaReg a (off + 8 * i))) []

def areaShelves (a : List Byte) (off : Nat) : Store Shelf :=
  (List.range 64).foldl (fun m i => sset {} m i (unpackShelf (areaReg a (off + 8 * i)))) []

/-- The quiet record in a save area; of a token the area holds the state, and on a deterministic core the delivery round. -/
def areaRecord (a : List Byte) (old : Record) : Record where
  pc := alignPc (areaWord a 0x10)
  lk := areaWord a 0x14
  vl := areaNat a 0x18 2
  rrb := BitVec.ofNat 8 (areaNat a 0x1A 1)
  preds := BitVec.ofNat 16 (areaNat a 0x1C 2)
  loops := (List.range (min 6 (areaNat a 0x1B 1))).map (fun i => loopOf (bytesAt a (0x20 + 32 * i) 32))
  bts := (List.range 4).foldl (fun m i => sset 0 m i (BitVec.ofNat 17 (areaNat a (0xE0 + 4 * i) 4))) []
  fa := areaWord a 0xF0
  fb := areaWord a 0xF4
  fc := areaWord a 0xF8
  qmax := areaNat a 0xFC 2
  tol := areaFile a 0x100 16
  stat := areaReg a 0x180
  lp := areaWord a 0x188
  retired := if (areaNat a 2 1).testBit 0 then areaNat a 0x190 8 else old.retired
  round := if (areaNat a 2 1).testBit 0 then areaNat a 0x198 8 else old.round
  ra := areaFile a 0x200 32
  rb := areaFile a 0x300 32
  rl := areaFile a 0x400 32
  rn := areaFile a 0x500 16
  rd := areaFile a 0x580 16
  shelves := areaShelves a 0x600
  stamp := areaReg a 0x8
  toks := (List.range 8).foldl (fun m i =>
    sset {} m i { (sget ({} : Token) old.toks i) with
      st := tokenStateOf (areaNat a 0x1E 2 / 4 ^ i % 4)
      round := if (areaNat a 2 1).testBit 0 then areaNat a (0x1A0 + 8 * i) 8 else (sget ({} : Token) old.toks i).round }) []

/-- A saved context with what its area holds. -/
def areaContext (a : List Byte) (c : Context) : Context :=
  { c with
    record := areaRecord a c.record
    qrec := areaReg a 0x8
    il := (areaNat a 2 1).testBit 1
    shelves := areaShelves a 0x800
    changed := areaReg a 0xA00
    masks := [1, 2, 3].foldl (fun m q => sset 0 m q (BitVec.ofNat 8192 (leNat (bytesAt a (0x1000 + 1024 * (q - 1)) 1024)))) []
    log := (List.range 256).filterMap (fun n => logOf n (bytesAt a (0x2000 + 32 * n) 32))
    sides := (List.range 16).foldl (fun m j => sset {} m j (sideOf (bytesAt a (0x4000 + 2048 * j) 2048))) [] }

/-- The first context restored onto a core sets a deterministic core's round, and its turns stand until the others saved
from the same core are back, each of which may rewind the round to its own (R331, log 95). -/
def State.rewind (s : State) (core : Nat) (det first : Bool) (src round : Nat) : State :=
  if !det then s
  else if first then
    s.modCore core (fun c => { c with det := true, turn := 0, round := round, frozen := false, awaits := some src })
  else s.modCore core (fun c => if c.awaits.isSome then { c with round := min c.round round } else c)

/-- Whether a slot is kept for a context that a repair saved there and restores there (spec/18_integrity_repair.md R364,
log 120). -/
def State.keptFor (s : State) (key : Nat) : Bool := s.saved.any (fun v => v.repair && v.key == key)

/-- The contexts that stand on a core, with those that a repair restores there. -/
def State.standing (s : State) (core : Nat) : List Context :=
  ((coreCtxs core).map s.ctxAt).filter (fun c => c.stage != .idle) ++
    (s.saved.filter (fun v => v.repair && coreOf v.key == core)).map (fun v => v.ctx)

/-- Whether a saved context fits a slot: same index, a core of its partition, and free. -/
def State.slotFits (s : State) (v : Saved) (key : Nat) : Bool :=
  indexOf key == indexOf v.key && (s.ctxAt key).stage == .idle && (!s.keptFor key || (v.repair && v.key == key)) &&
    (sget ({} : Partition) s.parts v.ctx.part).cores.contains (coreOf key)

/-- A restored context enters its handler with cause 0x23: the PC of the bundle at which it left (R339, log 131), the level and the
record's stamp (R351, Table 17-4). -/
def State.repairTrap (s : State) (key : Nat) (pc : Word) (lvl : Nat) (more : Bool) : State :=
  let r := (s.ctxAt key).record
  s.raiseTrap key 0x23 false pc (BitVec.ofNat 64 (lvl + r.stamp.toNat % 2 ^ 32 * 2 ^ 32)) more

/-- A context with the N grant needs the queue view of its launch on the core that it comes to (log 27). -/
def State.restoreView (s : State) (core : Nat) (c : Context) : State :=
  match s.launches.find? (fun l => l.id == c.launch) with
  | some l =>
    if c.gN then
      s.modCore core (fun x => { x with
        qviewPart := c.part
        qview := (List.zip (List.range 16) l.img.views).foldl (fun m e => sset 0 m e.1 e.2) [] })
    else s
  | none => s

/-- The launch of a saved context. -/
def State.savedLaunch (s : State) (v : Saved) : Option Launch := s.launches.find? (fun l => l.id == v.ctx.launch)

/-- Whether no context stands on a core. -/
def State.coreEmpty (s : State) (core : Nat) : Bool := (coreCtxs core).all (fun j => !(s.ctxAt j).present)

/-- The steward restores a saved context onto a slot, which is kept while the area is read (R350, R351). -/
def State.startRestore (s : State) (v : Saved) (key : Nat) (lvl fn : Option Nat) : State :=
  let root := match s.savedLaunch v with
    | some l => recBits l.raw 64 46
    | none => 0
  (s.setCtx key { v.ctx with stage := .wait, index := indexOf key }).startJob (.restore v.id key lvl fn) (areaSpace v.ctx root)
    v.ctx.saveVA (0x10000 + v.ctx.runBytes) []

/-- Whether the area of a saved context is being read. -/
def State.restoring (s : State) (v : Saved) : Bool :=
  s.loans.any (fun l => match l.owner with
    | .job (.restore id _ _ _) => id == v.id
    | _ => false)

/-- What a saved context leaves behind moves to its new slot: its place in the launch, and its loans. -/
def State.takeBack (s : State) (v : Saved) (key : Nat) : State :=
  { s with
    saved := s.saved.filter (fun x => x.id != v.id)
    loans := s.loans ++ v.loans.map (fun (l : Loan) => { l with owner := .context key, core := coreOf key })
    launches := s.launches.map (fun (l : Launch) =>
      if l.id = v.ctx.launch then { l with ctxs := l.ctxs.map (fun j => if j = v.key then key else j) } else l) }

/-- The level that the handler is told: that of the last event merged (spec/17_traps_preemption.md R418). -/
def Context.repairLevel (c : Context) (lvl : Nat) : Nat × Bool :=
  match c.afterRepair with
  | some e => (e.1.toNat, e.2)
  | none => (lvl, false)

/-- The area is read: the context stands on its slot and its operand is loaded again; `lvl` is set for a repair, whose
handler runs first (R350, R351). -/
def State.restoreSaved (s : State) (v : Saved) (key : Nat) (lvl : Option Nat) (a : List Byte) : State :=
  let det := (s.savedLaunch v).any (fun l => l.raw.getLsbD 57)
  let c := { areaContext a v.ctx with afterRepair := none }
  let core := coreOf key
  let first := s.coreEmpty core
  let s := ((s.takeBack v key).restoreView core c).poolWrite core (65536 * c.gbase) (a.drop 0x10000)
  let s := (s.setCtx key { c with turnRound := c.record.round, index := indexOf key }).rewind core det first (coreOf v.key)
    c.record.round
  let s := (s.returnToRecord key).readyToIssue key
  match lvl with
  | none => s
  | some n => s.repairTrap key v.ctx.pc (v.ctx.repairLevel n).1 (v.ctx.repairLevel n).2

/-- A slot that was kept for a context that does not come is free again. -/
def State.freeSlot (s : State) (key : Nat) : State :=
  if (s.ctxAt key).stage == .wait then
    ((s.setCtx key {}).settleCore (coreOf key)).offerDies (s.ctxAt key).part
  else s

/-- The read of a save area has ended; a page that refused it ends the launch. A command that asked is told; what it is told
of a restore that failed is not stated: it is free (log 6). -/
def State.restoreRead (s : State) (id key : Nat) (lvl fn : Option Nat) (status : Nat) (a : List Byte) : State :=
  let good := status == 0 && s.saved.any (fun v => v.id == id)
  let s := match s.saved.find? (fun v => v.id == id) with
    | none => s.freeSlot key
    | some v => if status = 0 then s.restoreSaved v key lvl a else (s.freeSlot key).forceEnd v.ctx.launch
  let s := s.pokeRepair
  match fn with
  | some f =>
    s.drawn.post ⟨s.now, rankUntimed, .micro (.mailEnd f (if good then 0 else (Config.freeWord s.free).toNat % 2 ^ 16))⟩
  | none => s

end Sys2Proof.Machine
end

