-- ==== Sys2Proof/Machine/Launch.lean ====
section
/-!
DEFINITION. Launches (spec/16_scheduling.md R318 to R325, R328, R417): the record and the kernel image
(spec/03_assembly_language.md Table 03-3), the checks of Table 16-2, placement, start, end, and children.
-/

namespace Sys2Proof.Machine

/-! ### The launch record (Table 16-1) -/

def lrImg (r : BitVec 512) : Nat := recBits r 0 48
def lrPart (r : BitVec 512) : Nat := recBits r 48 4
def lrClass (r : BitVec 512) : Nat := recBits r 52 2
def lrGrant (r : BitVec 512) : Nat := recBits r 54 3
def lrDet (r : BitVec 512) : Bool := r.getLsbD 57
def lrRsv (r : BitVec 512) : Nat := recBits r 58 4
def lrRoot (r : BitVec 512) : Nat := recBits r 64 46
def lrWt (r : BitVec 512) : Nat := recBits r 112 8
def lrTvec (r : BitVec 512) : Word := BitVec.ofNat 32 (recBits r 128 32)
def lrSave (r : BitVec 512) : Nat := recBits r 160 48
def lrBbase (r : BitVec 512) : Nat := recBits r 208 8
def lrBcnt (r : BitVec 512) : Nat := recBits r 216 8
def lrBexp (r : BitVec 512) : Nat := recBits r 224 16
def lrDev0 (r : BitVec 512) : Nat := recBits r 240 11
def lrQvt (r : BitVec 512) : Nat := recBits r 256 48
def lrLat (r : BitVec 512) : Nat := recBits r 304 8
def lrDone (r : BitVec 512) : Nat := recBits r 320 48
def lrEbar (r : BitVec 512) : Nat := recBits r 368 8
def lrEbv (r : BitVec 512) : Bool := r.getLsbD 376

/-- A nonzero reserved bit of the record. -/
def lrReserved (r : BitVec 512) : Bool :=
  recBits r 62 2 != 0 || recBits r 110 2 != 0 || recBits r 120 8 != 0 || recBits r 251 5 != 0 || recBits r 312 8 != 0 ||
    recBits r 377 135 != 0

/-! ### Launches by number, and their reads (R320) -/

def State.modLaunch (s : State) (id : Nat) (f : Launch → Launch) : State :=
  { s with launches := s.launches.map (fun l => if l.id = id then f l else l) }

def State.launchOf (s : State) (id : Nat) : Option Launch := s.launches.find? (fun l => l.id == id)

/-- The space of a launch: its home die's engine, its partition under its root, at the record's class. -/
def Launch.space (l : Launch) : Space :=
  { engine := launchEngine l.home, part := l.part, root := lrRoot l.raw, cls := lrClass l.raw }

/-! ### The image (Table 03-3) -/

/-- A field of the header's bytes. -/
def hdrField (h : List Byte) (lo n : Nat) : Nat := leNat h / 2 ^ lo % 2 ^ n

/-- Whether a header keeps to Table 03-3 and its format words are valid (R82, spec/04_number_formats.md R85). The name may hold
any bytes (log 101). -/
def headerGood (h : List Byte) : Bool :=
  let f := hdrField h
  f 0 32 == 0x39424C47 && f 32 16 == 1 && f 50 14 == 0 && f 162 6 == 0 && f 171 5 == 0 && f 672 352 == 0 &&
    f 96 32 % 4 == 0 && decide (f 176 4 ≤ 8) && decide (1 ≤ f 180 4) && decide (f 180 4 ≤ 4) && decide (f 184 8 ≤ 64) &&
    [64, 192, 224, 256, 288, 352, 416].all (fun lo => f lo 32 % 64 == 0) &&
    !formatInvalid (f 448 32) && !formatInvalid (f 480 32) && !formatInvalid (f 512 32)

/-- Data records of a data section (Table 03-3); padding and zero bytes are not looked at, a record that runs past the section
holds the bytes that are there, and less than a record's head is none (log 101). -/
def dataRecords : Nat → List Byte → List (Nat × Nat × List Byte)
  | 0, _ => []
  | n + 1, bs =>
    if bs.length < 16 then []
    else
      let len := leNat (bytesAt bs 8 4)
      (leNat (bytesAt bs 4 1), leNat (bytesAt bs 0 4), bytesAt bs 16 len) ::
        dataRecords n (bs.drop (16 + (len + 15) / 16 * 16))

/-- Entries of `n` bytes each; bits that Table 03-3 does not name are ignored (log 101). -/
def entriesOf (n : Nat) (count : Nat) (bs : List Byte) : List Nat := wordsOf n count bs

/-- A timetable request. -/
def ttRequest (e : Nat) : Nat × Nat × Nat × TTEntry :=
  (e % 32, e / 32 % 2, e / 2 ^ 8 % 256, { kind := e / 2 ^ 16 % 4, fl := e / 2 ^ 18 % 32, fq := e / 2 ^ 23 % 16 })

/-- What a launch has read, by its number: header, queue views, then the sections in the order of Table 03-3. -/
def Launch.got (l : Launch) (n : Nat) : List Byte := (l.reads.getD n none).getD []

/-- Address and length of each section that a header names. -/
def sectionsOf (img : Nat) (h : List Byte) : List (Nat × Nat) :=
  let f := hdrField h
  [(img + f 64 32, f 96 32), (img + f 192 32, 8 * f 176 4), (img + f 224 32, 8 * f 180 4), (img + f 256 32, 16 * f 184 8),
    (img + f 288 32, f 320 32), (img + f 352 32, 8 * f 384 16), (img + f 416 32, 4 * f 400 16)]

/-- What a launch reads (R320): every section that the header names, whether or not the header passes its own check, which
comes after the reads. -/
def Launch.toRead (l : Launch) : List (Nat × Nat) :=
  [(lrImg l.raw, 128), (lrQvt l.raw, if lrQvt l.raw = 0 then 0 else 128)] ++ sectionsOf (lrImg l.raw) (l.got 0)

/-- The image whose header is good, as it has been read. A shelf number is taken modulo 64, the words and flags of an entry
as they stand (log 101). -/
def Launch.image (l : Launch) : Image :=
  let h := l.got 0
  let f := hdrField h
  { il := f 48 1 == 1
    donate := f 49 1 == 1
    code := (wordsOf 4 ((l.got 2).length / 4) (l.got 2)).map (BitVec.ofNat 32)
    entry := BitVec.ofNat 32 (f 128 32)
    cls := f 160 2
    grant := f 168 3
    loops := (entriesOf 8 (f 176 4) (l.got 3)).map (fun e => (e % 8, e / 16 % 4, e / 2 ^ 32))
    parts := (entriesOf 8 (f 180 4) (l.got 4)).map (fun e => (e % 4, BitVec.ofNat 32 (e / 2 ^ 32)))
    shelves := (entriesOf 16 (f 184 8) (l.got 5)).map (fun e => (e / 2 ^ 64 % 64, unpackShelf (BitVec.ofNat 64 e)))
    data := dataRecords ((l.got 6).length / 16) (l.got 6)
    tts := (entriesOf 8 (f 384 16) (l.got 7)).map ttRequest
    circs := (entriesOf 4 (f 400 16) (l.got 8)).map (fun e => (e % 8 * 64 + e / 8 % 64, e / 2 ^ 9 % 64, e.testBit 15))
    fa := BitVec.ofNat 32 (f 448 32)
    fb := BitVec.ofNat 32 (f 480 32)
    fc := BitVec.ofNat 32 (f 512 32)
    bytes := h ++ [2, 3, 4, 5, 6, 7, 8].flatMap l.got
    views := (wordsOf 8 16 (l.got 1)).map (BitVec.ofNat 32) }

/-! ### Placement (R321) -/

/-- Loop kinds: 1 CORES, 2 DIES, 3 DEVICES. -/
def countsOf (i : Image) (kind : Nat) : List Nat := (i.loops.filter (fun l => l.2.1 == kind)).map (fun l => l.2.2)

def product (l : List Nat) : Nat := l.foldl (fun a b => a * b) 1

/-- Insertion into rising numbers. -/
def insertNat (x : Nat) : List Nat → List Nat
  | [] => [x]
  | y :: r => if x ≤ y then x :: y :: r else y :: insertNat x r

def rising (l : List Nat) : List Nat := l.foldl (fun acc x => insertNat x acc) []

def State.partition (s : State) (p : Nat) : Partition := sget {} s.parts p

/-- Dies of a partition and its cores on one, ascending (R318). -/
def Partition.dies (p : Partition) : List Nat := rising ((p.cores.map dieOf).eraseDups)

def Partition.coresOn (p : Partition) (die : Nat) : List Nat := rising (p.cores.filter (fun c => dieOf c == die))

/-- The cores that a launch uses, in the order of the save area (R321, R349). -/
def placedCores (p : Partition) (i : Image) : List Nat :=
  (p.dies.take (product (countsOf i 2))).flatMap (fun d => (p.coresOn d).take (product (countsOf i 1)))

/-- Whether the partition has the dies and cores that the spatial counts ask for. -/
def placementFits (p : Partition) (i : Image) (dev0 : Nat) : Bool :=
  decide (product (countsOf i 2) ≤ p.dies.length) &&
    (p.dies.take (product (countsOf i 2))).all (fun d => decide (product (countsOf i 1) ≤ (p.coresOn d).length)) &&
    ((countsOf i 3).isEmpty || (decide (dev0 ≤ ownDevice) && decide (ownDevice < dev0 + product (countsOf i 3))))

/-- A digit of an ordinal: the levels after it are less significant. -/
def digit (ordinal : Nat) (own : Nat) (after : List Nat) : Nat := ordinal / product after % max own 1

/-- The spatial indices of a core: level by level, the digit of its core, die or device ordinal (R321). -/
def spatialIndices (p : Partition) (dev0 core : Nat) : List (Nat × Nat × Nat) → List Nat
  | [] => []
  | (_, kind, n) :: r =>
    let after := (r.filter (fun l => l.2.1 == kind)).map (fun l => l.2.2)
    let ord := if kind = 1 then (p.coresOn (dieOf core)).idxOf core
      else if kind = 2 then p.dies.idxOf (dieOf core) else ownDevice - dev0
    (if kind = 0 then [] else [digit ord n after]) ++ spatialIndices p dev0 core r

/-! ### The checks (Table 16-2) -/

/-- Fields of a partition word (spec/01_machine_state.md R12, R13). -/
def partRun (w : Word) : Nat × Nat × Nat × Nat :=
  (w.toNat % 16, w.toNat / 16 % 32, w.toNat / 512 % 64, w.toNat / 32768 % 64)

def runGranules (w : Word) : Nat := (partRun w).1 + (partRun w).2.1 + (partRun w).2.2.1

def partWordGood (w : Word) : Bool :=
  let p := partRun w
  decide (p.1 ≤ 8) && decide (p.2.1 ≤ 16) && decide (p.2.2.1 ≤ 48) && decide (p.2.2.2 + runGranules w ≤ 48) &&
    w.toNat / 2 ^ 21 == 0

/-- Whether the runs of two partition words meet. -/
def runsMeet (a b : Word) : Bool :=
  decide (0 < runGranules a) && decide (0 < runGranules b) &&
    decide ((partRun a).2.2.2 < (partRun b).2.2.2 + runGranules b) &&
    decide ((partRun b).2.2.2 < (partRun a).2.2.2 + runGranules a)

/-- No two of a list clash. -/
def pairwiseFree {α : Type} (clash : α → α → Bool) : List α → Bool
  | [] => true
  | a :: r => r.all (fun b => !clash a b) && pairwiseFree clash r

/-- Declared shelves of an image as a file: an entry of length 0 declares none (Table 01-6,
spec/09_instr_scratchpad.md R193). The flags fh, fp and bp are taken as they stand (log 101). -/
def imageShelves (i : Image) : Store Shelf := i.shelves.foldl (fun m e => sset {} m e.1 (if e.2.len = 0 then {} else e.2)) []

/-- Shelves and preloaded data inside a region of `sg` granules (spec/01_machine_state.md R27). Two entries of one shelf are
refused too, which the spec leaves open (log 101). -/
def shelvesGood (i : Image) (sg : Nat) : Bool :=
  let m := imageShelves i
  i.shelves.all (fun e => e.2.len == 0 || shelfFits m sg e.1 e.2) && pairwiseFree (fun (a b : Nat × Shelf) => a.1 == b.1) i.shelves &&
    i.data.all (fun d => decide (d.2.1 + d.2.2.length ≤ (sget ({} : Shelf) m d.1).len.toNat * 64))

/-- A context slot that a launch occupies, one of whose contexts may be saved for a repair (log 120), or that a launch reserves
for its children, other than for this one (R324). -/
def State.slotTaken (s : State) (key : Nat) (parent : Option (Nat × Nat)) : Bool :=
  (s.ctxAt key).stage != .idle || s.keptFor key ||
    s.launches.any (fun l => l.stage == .live && l.cores.contains (coreOf key) && (lrRsv l.raw).testBit (indexOf key) &&
      parent.map (fun p => p.1) != some l.id)

/-- Occupancy of the placed cores: the named contexts, and their granules, which no other context that stands on the core may
hold (spec/01_machine_state.md R9; log 32). -/
def State.contextsFree (s : State) (i : Image) (cores : List Nat) (parent : Option (Nat × Nat)) : Bool :=
  cores.all (fun core => i.parts.all (fun p =>
    !s.slotTaken (4 * core + p.1) parent && (s.standing core).all (fun c => !runsMeet p.2 c.partWord)))

def State.enginesFree (s : State) (i : Image) (cores : List Nat) : Bool :=
  cores.all (fun core => (s.standing core).all (fun c =>
    !(c.gM && i.grant.testBit 0) && !(c.gD && i.grant.testBit 1) && !(c.gN && i.grant.testBit 2)))

/-- The loop table: levels rising, at most four spatial, no count of 0. -/
def loopsGood (i : Image) : Bool :=
  pairwiseFree (fun (a b : Nat × Nat × Nat) => decide (b.1 ≤ a.1)) i.loops && i.loops.all (fun l => l.2.2 != 0) &&
    decide ((i.loops.filter (fun l => l.2.1 != 0)).length ≤ 4)

/-- Barriers that a launch configures. -/
def barrierKeys (r : BitVec 512) (dies : List Nat) : List Nat :=
  dies.flatMap (fun d => (List.range (lrBcnt r)).map (fun b => 256 * d + lrBbase r + b))

/-- A link that may carry timed flits (spec/19_span_fabric.md R376). -/
def Link.timedCapable (l : Link) : Bool := l.st == 2 && !l.open_ && decide (l.f ≤ 8)

/-- The entry that a request makes, kept in its allocation. -/
def TTEntry.request (old new : TTEntry) : TTEntry := { old with kind := new.kind, fl := new.fl, fq := new.fq }

/-- A timetable entry is written. Arrivals up to the cycle of the write keep the in entry that they had
(spec/19_span_fabric.md R381). -/
def Link.putEntry (l : Link) (at_ : Int) (dir slot : Nat) (e : TTEntry) : Link :=
  if dir = 1 then { l with inT := sset {} l.inT slot e, inOld := l.inOld ++ [(at_, slot, sget {} l.inT slot)] }
  else { l with outT := sset {} l.outT slot e }

def Link.entryAt (l : Link) (dir slot : Nat) : TTEntry := if dir = 1 then sget {} l.inT slot else sget {} l.outT slot

/-- The links with an image's timetable requests made; of two for one slot the later stands (log 101). -/
def State.withTimetable (s : State) (i : Image) : State :=
  i.tts.foldl (fun t q =>
    t.modLink q.1 (fun l => l.putEntry s.concI q.2.1 q.2.2.1 ((l.entryAt q.2.1 q.2.2.1).request q.2.2.2))) s

/-- Whether every pass-through entry of a link's timetable is matched on the other link eight cycles on
(spec/19_span_fabric.md R379). -/
def State.passesMatched (s : State) (link dir : Nat) (m : Store TTEntry) : Bool :=
  m.all (fun e => e.2.kind != 1 ||
    (let o := (s.link e.2.fl).entryAt (1 - dir) ((if dir = 1 then e.1 + 8 else e.1 + 248) % 256)
     o.kind == 1 && o.fl == link && o.fq == e.2.fq))

/-- Timetable requests: in entries allocated to the partition, on timed-capable links, of a kind that is not reserved
(log 101), and each pass-through of the device matched once they are made (spec/19_span_fabric.md R376, R377, R379). -/
def State.timetableGood (s : State) (part : Nat) (i : Image) : Bool :=
  let t := s.withTimetable i
  i.tts.all (fun q =>
    let l := s.link q.1
    let e := l.entryAt q.2.1 q.2.2.1
    let k := q.2.2.2.kind
    e.al && e.part == part && k != 3 && decide (q.1 < 24) && (k == 2 || l.timedCapable)) &&
    t.links.all (fun e => t.passesMatched e.1 1 e.2.inT && t.passesMatched e.1 0 e.2.outT)

/-- The lowest refusal code that applies once the image is read, occupancy aside (codes 4 and 5 for what occupies the
cores): none when all checks pass. -/
def State.staticCode (s : State) (r : BitVec 512) (i : Image) : Option Nat :=
  let p := s.partition (lrPart r)
  let cores := placedCores p i
  let dies := (cores.map dieOf).eraseDups
  if !(i.parts.all (fun w => partWordGood w.2)) || !pairwiseFree (fun (a b : Nat × Word) => a.1 == b.1 || runsMeet a.2 b.2) i.parts ||
      !(i.parts.all (fun w => shelvesGood i (partRun w.2).2.2.1)) then some 4
  else if Nat.land i.grant (lrGrant r) != i.grant then some 5
  else if !loopsGood i || !placementFits p i (lrDev0 r) then some 6
  else if 256 < lrBbase r + lrBcnt r ||
      (barrierKeys r dies).any (fun b => s.launches.any (fun l => l.stage == .live && l.barriers.contains b)) then some 7
  else if !s.timetableGood (lrPart r) i || i.circs.any (fun c => !p.circ.contains (64 * c.1 + c.2.1)) then some 8
  else if (lrDet r && (lrGrant r).testBit 1) || (lrDet r && (lrGrant r).testBit 2) ||
      cores.any (fun c => (coreCtxs c).any (fun j => (s.ctxAt j).stage != .idle) && (s.coreAt c).det != lrDet r) then some 9
  else none

/-- What the checks say of a record: an image to start, or a refusal code; `wait` when only the contexts or engines it needs
are taken. -/
inductive Verdict where
  | start (i : Image)
  | refuse (code : Nat)
  | wait (code : Nat)
  deriving DecidableEq, Repr

/-- Code 2: what is wrong with the record itself. -/
def State.recordBad (s : State) (r : BitVec 512) (parent : Option (Nat × Nat)) : Bool :=
  lrReserved r || lrWt r == 0 || lrRoot r % 2 ^ 21 != 0 || lrSave r % 64 != 0 || lrImg r % 64 != 0 ||
    parent.any (fun p => p.2 != lrPart r) || !(s.partition (lrPart r)).valid

/-- The code of what occupies the cores: contexts, or engines. -/
def State.occupied (s : State) (i : Image) (cores : List Nat) (parent : Option (Nat × Nat)) : Option Nat :=
  if !s.contextsFree i cores parent then some 4 else if !s.enginesFree i cores then some 5 else none

/-- The checks of Table 16-2 in ascending code (R320), on what the launch has read. -/
def State.judge (s : State) (l : Launch) : Verdict :=
  if l.reads.any (fun x => x.isNone) then .refuse 1
  else if s.recordBad l.raw l.parent then .refuse 2
  else if !headerGood (l.got 0) then .refuse 3
  else
    match s.staticCode l.raw l.image, s.occupied l.image (placedCores (s.partition (lrPart l.raw)) l.image) l.parent with
    | some a, some b => .refuse (min a b)
    | some a, none => .refuse a
    | none, some b => .wait b
    | none, none => .start l.image

/-! ### Start (R322, spec/01_machine_state.md R14, R33) -/

/-- The context that holds an image's grants: the lowest index (R322). -/
def firstSlot (i : Image) : Nat := (rising (i.parts.map (fun p => p.1))).headD 0

/-- The start state of one context (R14, R322). A PC's bits [1:0] are 0 (Table 01-1), so those of the entry are dropped
(log 101). -/
def startContext (p : Partition) (l : Launch) (i : Image) (core q : Nat) (w : Nat × Word) (at_ : Nat) : Context :=
  let ix := (List.zip (spatialIndices p (lrDev0 l.raw) core i.loops) [0, 1, 2, 3]).foldl
    (fun (m : Store Word) e => sset 0 m e.2 (BitVec.ofNat 32 e.1)) []
  let own := fun b => w.1 == firstSlot i && i.grant.testBit b
  let c : Context :=
    { uid := 2048 * l.id + 4 * core + w.1, stage := .run, launch := l.id, index := w.1, part := l.part, pc := alignPc i.entry, shelves := imageShelves i,
      fa := i.fa
      fb := i.fb, fc := i.fc, il := i.il, cls := BitVec.ofNat 2 (max (lrClass l.raw) i.cls), partWord := w.2, ix := ix
      tvec := lrTvec l.raw &&& 0xFFFFFFC0, code := i.code, resumeAt := at_, gM := own 0, gD := own 1, gN := own 2
      wt := lrWt l.raw, credit := (lrWt l.raw : Int), saveVA := lrSave l.raw + 2 ^ 22 * (4 * q + w.1) }
  { c with record := c.takeRecord (alignPc i.entry) 0 0, fresh := true }

/-- The pool run of a starting context: zeros, then the preloaded data (R14), record after record: of two on one byte the later
stands (log 101). -/
def State.preload (s : State) (core : Nat) (c : Context) (i : Image) : State :=
  let s := s.poolWrite core (65536 * c.gbase) (List.replicate c.runBytes 0)
  i.data.foldl (fun t d => t.poolWrite core (c.halfAddr (c.shelf d.1) ((c.shelf d.1).physical false) d.2.1) d.2.2) s

/-- One core of a launch: mode, queue view, latches, then its contexts. The turns of a deterministic core begin in the cycle of
the first bundles (R330). -/
def State.startCore (s : State) (l : Launch) (i : Image) (core q at_ : Nat) : State :=
  let p := s.partition l.part
  let idle := (coreCtxs core).all (fun j => (s.ctxAt j).stage == .idle)
  let s := if idle then
      s.modCore core (fun c => { c with
        det := lrDet l.raw, turn := 0, round := 0, frozen := false, startAt := at_, awaits := none }) else s
  let s := if i.grant.testBit 2 then
      s.modCore core (fun c => { c with
        qviewPart := l.part
        qview := (List.zip (List.range 16) i.views).foldl (fun m e => sset 0 m e.1 e.2) [] }) else s
  let bay := bayOf core
  let s := (List.range 8).foldl (fun t c =>
    if (lrLat l.raw).testBit c then
      { t with latches := sset {} t.latches (8 * bay + c) { v := 0, assigned := true, part := l.part } }
    else t) s
  i.parts.foldl (fun t w =>
    let c := startContext p l i core q w at_
    (t.preload core c i).setCtx (4 * core + w.1) c) s

/-- Circulation entries, of two requests for one slot the later (log 101), and the donate bit (spec/14_dram_system.md R294). -/
def State.startCirculation (s : State) (part : Nat) (i : Image) : State :=
  let s := i.circs.foldl (fun t q =>
    t.modPseudo q.1 (fun p => { p with circ := sset {} p.circ q.2.1 { owner := part, open_ := !q.2.2 } })) s
  ((((s.partition part).circ).map (fun e => e / 64)).eraseDups).foldl (fun t pc =>
    t.modPseudo pc (fun p => { p with donate := sset false p.donate part i.donate })) s

/-- A launch's barriers: expected count, no arrivals, phase 0 (R322). -/
def State.startBarriers (s : State) (l : Launch) (keys : List Nat) : State :=
  keys.foldl (fun t b => { t with bars := sset {} t.bars b { expected := lrBexp l.raw, owner := l.id } }) s

/-- The receive queues that a launch's view names get slack 0 and no overflow mark (spec/12_instr_network.md R252). -/
def State.startQueues (s : State) (views : List Word) : State :=
  ((views.map (fun (v : Word) => v.toNat)).filter viewRxv).foldl (fun t v =>
    t.setQueue (viewRxl v) (viewRxq v) { t.queue (viewRxl v) (viewRxq v) with slack := 0, ovf := false }) s

/-- LAUNCH_START: the checked launch starts; its contexts issue their first bundles in one cycle, which is free (R322). -/
def execLaunchStart (id : Nat) (s : State) : Out :=
  .next (match s.launchOf id with
    | none => s
    | some l =>
      if l.stage != .starting then s
      else
        let p := s.partition l.part
        let cores := placedCores p l.img
        let keys := barrierKeys l.raw ((cores.map dieOf).eraseDups)
        let devices := if (countsOf l.img 3).isEmpty then []
          else (List.range (product (countsOf l.img 3))).map (fun n => lrDev0 l.raw + n)
        let at_ := s.now + 1 + Config.untimedDelay s.free
        let s := ({ s.drawn with parts := sset {} s.parts l.part { p with ended := false } } : State).modLaunch id (fun l => { l with
          stage := .live, cores := cores, barriers := keys, devices := devices
          ctxs := cores.flatMap (fun c => l.img.parts.map (fun w => 4 * c + w.1)) })
        let s := (((s.startBarriers l keys).withTimetable l.img).startCirculation l.part l.img).startQueues l.img.views
        (List.zip cores (List.range cores.length)).foldl (fun t e => t.startCore l l.img e.1 e.2 at_) s)

/-! ### Completion (R320, R323, R417) -/

/-- The arrival at ebar of a launch that has ended or was refused; the argument names the barrier (R265 of
spec/12_instr_network.md). -/
def State.endArrival (s : State) (bar : Option Nat) : State :=
  match bar with
  | some w => (s.arriveAt w).1
  | none => s

/-- The barrier of a launch's last arrival. -/
def Launch.lastBarrier (l : Launch) : Option Nat := if lrEbv l.raw then some (l.home * 2 ^ 40 + lrEbar l.raw) else none

/-- The completion word is written, then the arrival is made (R320, R323). -/
def State.completeLaunch (s : State) (l : Launch) (status code : Nat) : State :=
  if lrDone l.raw = 0 then s.endArrival l.lastBarrier
  else
    s.startJob (.word l.part status code l.trapped l.lastBarrier) l.space (lrDone l.raw) 8
      (leBytes 8 (status + code * 2 ^ 8 + l.trapped % 2 ^ 48 * 2 ^ 16))

/-- The write of a completion word has ended; one that did not translate goes to the steward (R417). -/
def State.wordWritten (s : State) (part status code trapped : Nat) (bar : Option Nat) (fault : Nat) : State :=
  (if fault = 0 then s else { s with reports := s.reports ++ [(part, status, code, trapped)] }).endArrival bar

/-- The partition ends with its last launch: its entries return to OPEN and keep their allocation
(spec/14_dram_system.md R294, spec/19_span_fabric.md R377, log 83). -/
def State.openEntries (s : State) (part : Nat) : State :=
  if s.launches.any (fun l => l.part == part && l.stage != .checking) then s
  else
    let s := (s.pcs.map (fun e => e.1)).foldl (fun t pc => t.modPseudo pc (fun p =>
      { p with circ := p.circ.filter (fun x => x.2.open_ || x.2.owner != part) })) s
    let s := { s with parts := sset {} s.parts part { s.partition part with ended := true } }
    let mine := fun (m : Store TTEntry) => m.filter (fun e => e.2.al && e.2.part == part && e.2.kind != 2)
    let free := fun (e : TTEntry) => { e with kind := 2, fl := 0, fq := 0 }
    (s.links.map (fun e => e.1)).foldl (fun t i =>
      t.modLink i (fun l =>
        let l := (mine l.inT).foldl (fun (l : Link) e => l.putEntry s.concI 1 e.1 (free e.2)) l
        (mine l.outT).foldl (fun (l : Link) e => l.putEntry s.concI 0 e.1 (free e.2)) l)) s

/-- LAUNCH_END: barriers and reserved contexts are released, the word is written, then the arrival (R323). -/
def execLaunchEnd (id : Nat) (s : State) : Out :=
  .next (match s.launchOf id with
    | none => s
    | some l =>
      let s := { s with
        launches := s.launches.filter (fun x => x.id != id)
        bars := l.barriers.foldl (fun m b => sset {} m b {}) s.bars }
      (((s.completeLaunch l (if l.forced then 2 else 0) 0).openEntries l.part).offerDies l.part))

/-! ### The reads and the checks (R319, R320) -/

/-- The next read of a launch, or its checks when there is none left or one has faulted. -/
def State.readNext (s : State) (l : Launch) : State :=
  match (if l.reads.any (fun x => x.isNone) then none else l.toRead[l.reads.length]?) with
  | some a => s.startJob (.imgRead l.id) l.space a.1 a.2 []
  | none => s.post ⟨s.now, rankUntimed, .op (.launchCheck l.id)⟩

/-- A section has been read: none where the read faulted. -/
def State.sectionRead (s : State) (id status : Nat) (bs : List Byte) : State :=
  match s.launchOf id with
  | none => s
  | some l =>
    let m := { l with reads := l.reads ++ [if status = 0 then some bs else none] }
    if l.stage == .checking then (s.modLaunch id (fun _ => m)).readNext m else s

/-- A launch's entry leaves the pool that it came from. -/
def State.dropEntry (s : State) (l : Launch) : State :=
  match l.entry with
  | none => s
  | some e => { s with lpool := sset [] s.lpool l.home ((s.poolOf l.home).filter (fun x => x.id != e.id)) }

/-- A launch that has not started is gone, with the pool entry it came from. -/
def State.dropLaunch (s : State) (l : Launch) : State :=
  { s with launches := s.launches.filter (fun x => x.id != l.id) }.dropEntry l

/-- The die's engine looks at its pool (R324). -/
def State.offerDie (s : State) (die : Nat) : State := s.post ⟨s.now, rankUntimed, .op (.childPlacement die)⟩

/-- A refused launch. -/
def State.refuseLaunch (s : State) (l : Launch) (code : Nat) : State :=
  ((s.dropLaunch l).completeLaunch l 1 code).offerDie l.home

/-- A child that does not fit yet: its entry waits in the pool for the next context that becomes free (R324). -/
def State.childWaits (s : State) (l : Launch) (e : PoolEntry) : State :=
  { s with
    launches := s.launches.filter (fun x => x.id != l.id)
    lpool := sset [] s.lpool l.home ((s.poolOf l.home).map (fun (x : PoolEntry) => if x.id = e.id then { x with tried := true } else x))
    }.offerDie l.home

/-- Whether an older released entry of the pool is to be tried before one (R324). -/
def State.olderFirst (s : State) (die : Nat) (e : PoolEntry) : Bool :=
  ((s.poolOf die).takeWhile (fun x => x.id != e.id)).any (fun x => x.released && !x.tried)

/-- A child goes back to the pool as it was: a context became free while its image was read, and the oldest entry that fits
takes it (R324). -/
def State.childAgain (s : State) (l : Launch) : State :=
  { s with launches := s.launches.filter (fun x => x.id != l.id) }.offerDie l.home

/-- LAUNCH_CHECK: a launch is refused with its code, or goes on to its start (R320). -/
def execLaunchCheck (id : Nat) (s : State) : Out :=
  .next (match s.launchOf id with
    | none => s
    | some l =>
      if l.stage != .checking then s
      else
        if l.entry.any (s.olderFirst l.home) then s.childAgain l
        else match s.judge l, l.entry with
        | .start i, _ =>
          (((s.modLaunch id (fun l => { l with stage := .starting, img := i })).dropEntry l).offerDie l.home).next
            [.op (.launchStart id)]
        | .wait _, some e => s.childWaits l e
        | .wait code, none => s.refuseLaunch l code
        | .refuse code, _ => s.refuseLaunch l code)

/-- A launch enters its checks. -/
def State.startLaunch (s : State) (l : Launch) : State :=
  { s with nextId := s.nextId + 1, launches := s.launches ++ [l] }.readNext l

/-- A launch record submitted by the steward (R319); its home die is the partition's die of ordinal 0 (R417). -/
def State.submit (s : State) (r : BitVec 512) : State × Nat :=
  (s.startLaunch { id := s.nextId, raw := r, part := lrPart r, home := (s.partition (lrPart r)).dies.headD 0 }, s.nextId)

/-! ### Children (R324) -/

/-- Whether the engine of a die is busy with an entry of its pool. -/
def State.placing (s : State) (die : Nat) : Bool :=
  s.launches.any (fun l => l.stage == .checking && l.entry.isSome && l.home == die)

/-- CHILD_PLACEMENT: the die's engine takes the oldest released entry that it has not tried since a context became free; the
entry stays in the pool until it is placed or refused (R324). -/
def execChildPlacement (die : Nat) (s : State) : Out :=
  .next (
    if s.placing die then s
    else
      match (s.poolOf die).find? (fun e => e.released && !e.tried) with
      | none => s
      | some e =>
        s.startLaunch
          { id := s.nextId, raw := e.raw, part := lrPart e.raw, home := die, parent := some (e.launch, e.part), entry := some e })

end Sys2Proof.Machine
end

