-- ==== Sys2Proof/Machine/Repair.lean ====
section
/-!
DEFINITION. Repair (spec/18_integrity_repair.md R361 to R370): the takeover by a bay's reserve core and by the spare die,
restores from anchors; soft errors (R354); the steward's partition table (spec/16_scheduling.md R318).
-/

namespace Sys2Proof.Machine

/-! ### States of dies (R361) -/

/-- The state of a physical die; die8 is the spare. -/
def State.dieState (s : State) (p : Nat) : UnitState :=
  (sget none s.dies p).getD (if p = 8 then .reserve else .active)

/-- A die changes its state, in flash too (R360). -/
def State.setDie (s : State) (p : Nat) (st : UnitState) : State :=
  { s with dies := sset none s.dies p (some st) }.writeFlash (.die p st)

/-- A core changes its state, in flash too (R360, R361). -/
def State.setCoreState (s : State) (p : Nat) (st : UnitState) : State := (s.setPhys p st).writeFlash (.core p st)

def State.retirePhys (s : State) (p : Nat) : State := s.setCoreState p .retired

/-- The physical die that carries a logical number. -/
def State.physDie (s : State) (d : Nat) : Nat := if s.spareFor = some d then 8 else d

/-! ### Repair pending (R364, R418) -/

/-- Live contexts of a partition, with those that are on their way back. -/
def State.partLive (s : State) (part : Nat) : List Nat :=
  (s.ctxs.filter (fun e => (e.2.present || e.2.stage == .wait) && e.2.part == part)).map (fun e => e.1)

/-- A context that has taken a repair event and is still to be told it is told the later one (R418, R366 step 4). -/
def Context.mergeRepair (c : Context) (lvl : Nat) : Context := { c with afterRepair := some (BitVec.ofNat 64 lvl, true) }

/-- Repair pending is raised in the live contexts of a partition that do not save already; with `merge`, at a decision, one that
is pending or that a context has saved for is merged (R418). -/
def State.raiseRepair (s : State) (part lvl : Nat) (merge : Bool) : State :=
  let t := (s.partLive part).foldl (fun t k => t.modCtx k (fun c =>
    if c.stage == .saving then (if merge && c.saveCause == 0x23 then c.mergeRepair lvl else c)
    else if c.stage == .wait || (c.ev.repair.isSome && !merge) then c
    else { c with ev := { c.ev with
      repair := some (BitVec.ofNat 64 lvl), repairMore := c.ev.repairMore || c.ev.repair.isSome } })) s
  if merge then { t with saved := t.saved.map (fun (v : Saved) =>
    if v.repair && v.ctx.part == part then { v with ctx := v.ctx.mergeRepair lvl } else v) }
  else t

/-- The partition that owns a core. -/
def State.ownerOf (s : State) (core : Nat) : Option Nat :=
  (s.parts.find? (fun e => e.2.valid && e.2.cores.contains core)).map (fun e => e.1)

/-- Contexts of a partition saved for a repair. -/
def State.movers (s : State) (part : Nat) : List Saved := s.saved.filter (fun v => v.repair && v.ctx.part == part)

/-- Every context of a partition saved for a repair is restored to its position, which is kept for it, and enters its handler
(R351, R350). -/
def State.restoreMovers (s : State) (part lvl : Nat) : State :=
  (s.movers part).foldl (fun t v => if t.slotFits v v.key then t.startRestore v v.key (some lvl) none else t) s

/-- Partitions that hold a core of a die. -/
def State.partsOn (s : State) (d : Nat) : List Nat :=
  (s.parts.filter (fun e => e.2.valid && e.2.cores.any (fun c => dieOf c == d))).map (fun e => e.1)

/-- Whether a retirement of a core or a die of the partition is still under way: events merged by R418 are answered by one
restore, after the last of them. -/
def State.repairing (s : State) (part : Nat) : Bool :=
  (s.coresIn .retiring).any (fun c => s.ownerOf c == some part) ||
    s.dies.any (fun e => e.2 == some .retiring && (s.partsOn e.1).contains part)

/-- The contexts of a partition come back, unless another retirement is under way, which then looks again. -/
def State.returnMovers (s : State) (part lvl : Nat) : State :=
  if s.repairing part then s.pokeRepair else s.restoreMovers part lvl

/-! ### Die retirement (R362, R365) -/

/-- Whether a launch has a context, live or saved, on some cores. -/
def Launch.standsOn (l : Launch) (on : Nat → Bool) : Bool := l.ctxs.any (fun k => on (coreOf k))

/-- The live launches of a kind are ended with status 2. -/
def State.endLive (s : State) (which : Launch → Bool) : State :=
  ((s.launches.filter (fun l => l.stage == .live && which l)).map (fun l => l.id)).foldl State.forceEnd s

/-- die8 is spare until a takeover is decided (R365, R366). -/
def State.spareFree (s : State) : Bool := s.dieState 8 == .reserve && s.dies.all (fun e => e.2 != some .retiring)

/-- A die without a spare: the launches with a context on it are ended with status 2, and it is retired (R365). -/
def State.retireDieNow (s : State) (d : Nat) : State :=
  (s.endLive (fun l => l.standsOn (fun c => dieOf c == d))).setDie (s.physDie d) .retired

/-- A logical die is retired: by takeover while die8 is spare, else at once with its launches ended (R365). -/
def State.retireDie (s : State) (d : Nat) : State :=
  if s.dieState (s.physDie d) ≠ .active then s
  else if s.spareFree then s.next [.op (.spareDieTakeover d)]
  else s.retireDieNow d

/-- A core retirement is a die event, which a die that is retiring or retired does not count (R358, R362). -/
def State.dieEvent (s : State) (d : Nat) : State :=
  let p := s.physDie d
  if s.dieState p ≠ .active then s else
  let w := sget ({} : Window) s.dieEvents p
  let n := countEvent w.w0 w.n (BitVec.ofNat 40 s.conc) s.dieWin.1.toNat
  let s := { s with dieEvents := sset {} s.dieEvents p { w0 := n.1, n := n.2 } }
  if s.dieWin.2 ≤ n.2 then s.retireDie d else s

/-! ### RESERVE_CORE_TAKEOVER (R363, R364) -/

/-- A position gets another physical core, active in flash too (R361), with its own errata entries; the position's queue view
goes with it. -/
def State.moveCore (s : State) (core p : Nat) : State :=
  let old := s.coreAt core
  { (s.setCoreState p .active).setCore core { qview := old.qview, qviewPart := old.qviewPart, det := old.det } with
    place := sput s.place core (p + 1) }

/-- The reserve core takes the position (Table 18-5, steps 3 to 5). -/
def State.finishCore (s : State) (core r : Nat) : State :=
  let p := s.physical core
  let s := (s.retirePhys p).moveCore core r
  let s := s.writeFlash (.place s.place s.spareFor)
  match s.ownerOf core with
  | some part => s.returnMovers part 1
  | none => s

/-- The bay's core in reserve. -/
def State.reserveOf (s : State) (core : Nat) : Option Nat :=
  let b := s.physical core / 7 * 7
  ((List.range 7).map (fun i => b + i)).find? (fun p => s.physState p == .reserve)

/-- Whether a core holds a context. -/
def State.holds (s : State) (core : Nat) : Bool := (coreCtxs core).any (fun k => (s.ctxAt k).present)

/-- The core that a decision took out of its bay's reserve and that has no position yet (R363). -/
def State.takenReserve (s : State) (core : Nat) : Option Nat :=
  let b := s.physical core / 7 * 7
  ((List.range 7).map (fun i => b + i)).find? (fun p =>
    s.physState p == .active && (List.range 288).all (fun c => s.physical c != p))

/-- The decision: the bay's reserve core is taken, or the retirement is a die retirement too (R363). -/
def State.decideCore (s : State) (core : Nat) : State :=
  let p := s.physical core
  match s.reserveOf core with
  | none => (s.retirePhys p).retireDie (dieOf core)
  | some r =>
    if s.holds core then
      let t := (s.setCoreState p .retiring).setPhys r .active
      let t := match s.ownerOf core with
        | some part => t.raiseRepair part 1 true
        | none => t
      t.postTakeover core
    else s.finishCore core r

/-- The move, with the core that the decision took (R364). -/
def State.finishTakeover (s : State) (core : Nat) : State :=
  match s.takenReserve core, s.reserveOf core with
  | some r, _ => s.finishCore core r
  | none, some r => s.finishCore core r
  | none, none => s.retirePhys (s.physical core)

/-- RESERVE_CORE_TAKEOVER: the decision, and once every context of the partition has saved, the move (R363, R364). -/
def execReserveCoreTakeover (core : Nat) (s : State) : Out :=
  .next (match s.physState (s.physical core) with
    | .active => (s.decideCore core).dieEvent (dieOf core)
    | .retiring =>
      (match s.ownerOf core with
       | some part => if (s.partLive part).isEmpty then s.finishTakeover core else s.raiseRepair part 1 false
       | none => s.finishTakeover core)
    | _ => s)

/-- A retirement goes on, unless its core has left the position since. -/
def State.takeover (s : State) (core p : Nat) : State :=
  if s.physical core = p then s.next [.op (.reserveCoreTakeover core)] else s

/-! ### SPARE_DIE_TAKEOVER (R366) -/

/-- Contexts of a partition that were lost. -/
def State.lostOf (s : State) (part : Nat) : List Nat :=
  (s.ctxs.filter (fun e => e.2.lost && e.2.stage == .saved && e.2.part == part)).map (fun e => e.1)

/-- Usable cores of die8 in a bay, by ordinal. -/
def State.spareBay (s : State) (bay : Nat) : List Nat :=
  (List.range 7).filter (fun i => s.physState (336 + 7 * bay + i) != .retired)

/-- Which ordinal of die8 each position of a bay gets: the core of the same ordinal first, then those left (R366). -/
def fillBay (usable : List Nat) (want : List Nat) : List (Option Nat) :=
  let direct := want.map (fun o => if usable.contains o then some o else none)
  let left := usable.filter (fun o => !want.contains o)
  (direct.foldl (fun (r : List (Option Nat) × List Nat) x =>
    match x, r.2 with
    | some o, l => (r.1 ++ [some o], l)
    | none, o :: l => (r.1 ++ [some o], l)
    | none, [] => (r.1 ++ [none], [])) ([], left)).1

/-- The positions of a die with the physical cores of die8 that take them. -/
def State.spareCores (s : State) (d : Nat) : List (Nat × Option Nat) :=
  (List.range 6).flatMap (fun bay =>
    let cores := (List.range 6).map (fun pos => 36 * d + 6 * bay + pos)
    (List.zip cores (fillBay (s.spareBay bay) (cores.map (fun c => s.physical c % 7)))).map
      (fun e => (e.1, e.2.map (fun o => 336 + 7 * bay + o))))

/-- die8 takes the logical number; launches on a position that it cannot fill are ended (R366 step 3). -/
def State.moveDie (s : State) (d : Nat) : State :=
  let l := s.spareCores d
  let s := l.foldl (fun t e => match e.2 with
    | some p => t.moveCore e.1 p
    | none => t) s
  let dead := (l.filter (fun e => e.2.isNone)).map (fun e => e.1)
  { s with spareFor := some d }.endLive (fun l => l.cores.any dead.contains || l.standsOn dead.contains)

/-- The descriptor of a declared shelf after a restore from an anchor (R370 step 4). -/
def emptyShelf (d : Shelf) : Shelf := { base := d.base, len := d.len, dbl := d.dbl, fh := d.fh }

/-- The context with its anchor as its quiet record (R370 step 3). The repair event that it has not taken is answered with it
(R366). -/
def Context.fromAnchor (c : Context) (a : Record) : Context :=
  { c with
    record := a, qrec := a.stamp, log := [], ordinal := 0, masks := []
    sides := (List.range 16).foldl (fun m j => sset {} m j { hist := none }) []
    changed := 0, lost := false, afterRepair := none, trap := none, deferred := [], vop := none, reserved := [], fence := []
    turnRound := a.round, saveJob := none, saveStatus := none, fresh := false
    ev := { c.ev with repair := none, repairMore := false } }

/-- Step 4: every declared shelf is EMPTY and counts as changed after the record, so that the return to the record restores
the record's own descriptors (R370, spec/01_machine_state.md R35). -/
def Context.emptyShelves (c : Context) : Context :=
  let l := c.record.shelves.filter (fun e => e.2.len != 0)
  { c with
    shelves := l.map (fun e => (e.1, emptyShelf e.2)), changed := BitVec.ofNat 64 ((l.map (fun e => 2 ^ e.1)).sum)
    tol := Config.tolTable }

/-- A context is restored from its anchor and enters its handler with level 3 (R370, R355); an operand of its that the array
still holds is loaded again with the return to the record. A lost context left at no bundle: its PC is the anchor's (log 131); of a
repair event that was still pending the handler is told what is merged (R418). -/
def State.anchorRestore (s : State) (key : Nat) (c : Context) (a : Record) (det : Bool) : State :=
  let core := coreOf key
  let first := s.coreEmpty core
  let s := (s.restoreView core c).poolWrite core (65536 * c.gbase) (List.replicate c.runBytes 0)
  let s := s.modCore core (fun x => if x.array.owner == c.uid then { x with array := {} } else x)
  let s := (s.setCtx key (c.fromAnchor a)).rewind core det first core a.round
  ((s.returnToRecord key).modCtx key Context.emptyShelves).repairTrap key
    (if c.lost then a.pc else c.pc) 3 ((c.repairLevel 3).2 || c.ev.repairMore)

/-- The contexts of a partition with their keys: saved, for the repair or before, or lost (R366 step 4). -/
def State.anchored (s : State) (part : Nat) : List (Nat × Context) :=
  (s.saved.filter (fun v => v.ctx.part == part)).map (fun v => (v.key, v.ctx)) ++
    (s.lostOf part).map (fun k => (k, s.ctxAt k))

/-- Whether a context's run and engines are free on a core. -/
def State.roomFor (s : State) (c : Context) (core : Nat) : Bool :=
  (s.standing core).all (fun x =>
    !(runsMeet c.partWord x.partWord || (c.gM && x.gM) || (c.gD && x.gD) || (c.gN && x.gN)))

/-- The slot that a context returns to: its own, or where another context stands there now the next of the same index on a
core of the partition (log 96). -/
def State.anchorSlot (s : State) (key : Nat) (c : Context) : Nat :=
  let fits := fun (k : Nat) => (s.ctxAt k).stage == .idle && s.roomFor c (coreOf k)
  if fits key then key
  else (((s.partition c.part).cores.map (fun n => 4 * n + indexOf key)).find? fits).getD key

/-- A context's place in its launch follows it to another slot. -/
def State.moveEntry (s : State) (launch old new : Nat) : State :=
  s.modLaunch launch (fun l => { l with ctxs := l.ctxs.map (fun j => if j = old then new else j) })

/-- Every context of a partition with a lost context returns to its anchor; without one the partition's launches end
(R366 step 4). -/
def State.restoreAnchors (s : State) (part : Nat) : State :=
  let l := s.anchored part
  if l.any (fun e => e.2.anchor.isNone) then
    ((s.launches.filter (fun x => x.part == part && x.stage == .live)).map (fun x => x.id)).foldl State.forceEnd s
  else
    let s := { s with saved := s.saved.filter (fun v => v.ctx.part != part) }
    let s := (s.lostOf part).foldl (fun t k => t.setCtx k {}) s
    l.foldl (fun t e =>
      let det := t.launches.any (fun x => x.id == e.2.launch && x.raw.getLsbD 57)
      match e.2.anchor with
      | some a => (t.moveEntry e.2.launch e.1 (t.anchorSlot e.1 e.2)).anchorRestore (t.anchorSlot e.1 e.2) e.2 a det
      | none => t) s

/-- Steps 3 to 5 of R366. -/
def State.finishDie (s : State) (d : Nat) : State :=
  let parts := s.partsOn d
  let lost := parts.filter (fun p => !(s.lostOf p).isEmpty)
  let s := s.moveDie d
  let s := (s.setDie d .retired).setDie 8 .active
  let s := s.writeFlash (.place s.place s.spareFor)
  parts.foldl (fun t p => if lost.contains p then t.restoreAnchors p else t.returnMovers p 2) s

/-- SPARE_DIE_TAKEOVER: the decision with its deadline, and once every context has saved or is lost, the move (R366). A die
that finds no spare is retired at once (R365). -/
def execSpareDieTakeover (d : Nat) (s : State) : Out :=
  .next (match s.dieState d with
    | .active =>
      if !s.spareFree then s.retireDieNow d
      else
        let t := s.setDie d .retiring
        let t := (s.partsOn d).foldl (fun t p => t.raiseRepair p 2 true) t
        (t.after (2 ^ 24) rankUntimed (.op (.saveDeadlineExpiry d))).post ⟨t.now, rankUntimed, .op (.spareDieTakeover d)⟩
    | .retiring =>
      if (s.partsOn d).all (fun p => (s.partLive p).isEmpty) then s.finishDie d
      else (s.partsOn d).foldl (fun t p => t.raiseRepair p 2 false) s
    | _ => s)

/-- A lost context stops with its work, and its loans are abandoned (R366, R370 step 1). -/
def State.loseContext (s : State) (k : Nat) : State :=
  let c := s.ctxAt k
  let mine := s.loans.filter (fun l => l.owner == LoanOwner.context k || l.owner == LoanOwner.job (.save k c.uid))
  let s := mine.foldl (fun t l => t.unpinAll l.core l.pins) s
  let ids := mine.map (fun l => l.id)
  let s := (s.cancelReserved k).dropRequests (fun r => ids.contains r.loan)
  { s with
    loans := s.loans.filter (fun l => !ids.contains l.id)
    agenda := s.agenda.filter (fun d => !d.pends k)
    todo := s.todo.filter (fun d => !d.pends k)
    muls := s.muls.filter (fun m => m.o.ctx != k)
    drains := s.drains.filter (fun m => m.o.ctx != k)
    late := s.late.filter (fun x => x.ctx != k)
  }.modCtx k (fun c => { c with stage := .saved, lost := true, trap := none, deferred := [], held := none, vop := none })

/-- SAVE_DEADLINE_EXPIRY: a context of a retiring die that has not saved is lost (R366 step 2). -/
def execSaveDeadlineExpiry (d : Nat) (s : State) : Out :=
  .next (if s.dieState d ≠ .retiring then s
    else
      let late := (s.ctxs.filter (fun e => e.2.present && dieOf (coreOf e.1) == d)).map (fun e => e.1)
      (late.foldl State.loseContext s).post ⟨s.now, rankUntimed, .op (.spareDieTakeover d)⟩)

/-- DIE_STATUS_POLL, of each die every 2^20 cycles (log 132): a physical die that does not answer is retired (R365). -/
def execDieStatusPoll (die : Nat) (answers : Bool) (s : State) : Out :=
  .next (if answers then s
    else if die = 8 then
      (match s.spareFor with
       | some d => s.retireDie d
       | none => if s.dieState 8 = .reserve then s.setDie 8 .retired else s)
    else if s.spareFor = some die then s
    else s.retireDie die)

/-! ### SOFT_ERROR (R354, spec/14_dram_system.md R303) -/

/-- Flip a bit of an accumulator's stored element; bits from 32 on are those of the second accumulator of a wide pair. An upset is no
write: errors that stand there stay (R354). -/
def State.flipZ (s : State) (k z i j bit : Nat) : State :=
  let z := if bit < 32 then z else z + 1
  let w := Nat.xor ((s.zLow k z i).getD j 0) (2 ^ (bit % 32))
  if i < 128 && j < 128 then
    s.modCore (coreOf k) (fun c => { c with
      pool := swrite 0 c.pool ((s.ctxAt k).zBase z + 512 * i + 4 * j) (leBytes 4 w) })
  else s.setZElem k z i j w

/-- SOFT_ERROR: an upset of the pool, of an HBM4 column or of an accumulator element; one that the code corrects counts at
each read, until a write of the word (log 28). -/
def execSoftError (u : Upset) (s : State) : Out :=
  .next (match u with
    | .poolWord core addr true =>
      s.modCore core (fun c => { c with poolSoft := c.poolSoft.filter (fun w => w != addr / 8) ++ [addr / 8] })
    | .poolWord core addr false =>
      s.modCore core (fun c => { c with
        poolBad := c.poolBad.filter (fun w => w != addr / 8) ++ [addr / 8] })
    | .column dpa true => { s with softCols := s.softCols.filter (fun c => c != dpa / 32) ++ [dpa / 32] }
    | .column dpa false => s.setColBad dpa true
    | .accumulator k z i j bit => s.flipZ k z i j bit)

/-! ### PARTITION_TABLE_WRITE (spec/16_scheduling.md R318, spec/14_dram_system.md R294, spec/19_span_fabric.md R377) -/

def State.modPart (s : State) (p : Nat) (f : Partition → Partition) : State :=
  { s with parts := sset {} s.parts p (f (s.partition p)) }

/-- A circulation entry with its owner (Table 14-3); the partitions' allocations follow. -/
def State.writeCirculation (s : State) (pc slot : Nat) (entry : BitVec 8) : State :=
  let e : CircEntry := { owner := entry.toNat % 16, open_ := entry.getLsbD 4 }
  let key := 64 * pc + slot
  let s := s.modPseudo pc (fun p => { p with circ := sset {} p.circ slot e })
  let s := (s.parts.map (fun x => x.1)).foldl (fun t p =>
    t.modPart p (fun q => { q with circ := q.circ.filter (fun c => c != key) })) s
  if e.open_ then s else s.modPart e.owner (fun q => { q with circ := q.circ ++ [key] })

/-- A timetable entry's allocation and kind; a kind that is reserved leaves the kind (Table 19-3, log 83). The steward changes
a partition's entries only while it has no context live (spec/19_span_fabric.md R381). -/
def State.writeTimetable (s : State) (link dir slot : Nat) (kind : BitVec 2) (al : Bool) (p : Nat) : State :=
  let e := (s.link link).entryAt dir slot
  if (e.al && !(s.partLive e.part).isEmpty) || (al && !(s.partLive p).isEmpty) then s
  else
    s.modLink link (fun l =>
      l.putEntry s.concI dir slot { e with kind := if kind = 3 then e.kind else kind.toNat, al := al, part := p })

/-- PARTITION_TABLE_WRITE. A partition, core, bay, pseudo-channel or link that does not exist is not written. A core belongs to
at most one partition: a list that takes another's core is not written. A window changes only while no context of the
partition is live (spec/11_instr_dram.md R235). -/
def execPartitionTableWrite (w : PartWrite) (s : State) : Out :=
  .next (if !w.ok then s else match w with
    | .cores p cs =>
      if s.parts.any (fun e => e.1 != p && e.2.cores.any (fun c => cs.contains c)) then s
      else s.modPart p (fun q => { q with cores := cs, valid := !cs.isEmpty, ended := false })
    | .root p dpa => s.modPart p (fun q => { q with root := dpa, ended := false })
    | .latches p bay mask => s.modPart p (fun q => { q with latches := sset 0 q.latches bay mask })
    | .circulation pc slot entry => s.writeCirculation pc slot entry
    | .openBanks pc mask => s.modPseudo pc (fun p => { p with obank := mask })
    | .window p pc base count =>
      if (s.partLive p).isEmpty then s.setWindow p pc { base := base.toNat, count := count.toNat } else s
    | .timetable link out slot kind al p => s.writeTimetable link (if out then 0 else 1) slot kind al p)

end Sys2Proof.Machine
end

