-- ==== Sys2Proof/Machine/Slh.lean ====
section
/-!
DEFINITION. The two standards of Table 00-1's row of firmware trust (spec/20_bringup_power.md R397, R398): SHAKE256, and
SLH-DSA-SHAKE-192s with n = 24, h = 63, d = 7, h' = 9, a = 14, k = 17, lg w = 4 and 39 bytes of message digest, as FIPS 202 and
FIPS 205 define them (log 10).
-/

namespace Sys2Proof.Machine

/-! ### SHAKE256 -/

/-- Lane (x, y) of a Keccak state of 1,600 bits, coordinates modulo 5. -/
def lane (s x y : Nat) : Nat := s / 2 ^ (64 * (x % 5 + 5 * (y % 5))) % 2 ^ 64

/-- The state whose lanes are given. -/
def ofLanes (f : Nat → Nat → Nat) : Nat := ((List.range 25).map (fun i => f (i % 5) (i / 5) * 2 ^ (64 * i))).sum

def rotLane (x n : Nat) : Nat := x * 2 ^ n % 2 ^ 64 + x / 2 ^ (64 - n)

/-- Rotation offsets of the lanes, x running first. -/
def laneOffsets : List Nat :=
  [0, 1, 62, 28, 27, 36, 44, 6, 55, 20, 3, 10, 43, 25, 39, 41, 45, 15, 21, 8, 18, 2, 61, 56, 14]

/-- The constants of the 24 rounds. -/
def roundConstants : List Nat :=
  [0x0000000000000001, 0x0000000000008082, 0x800000000000808A, 0x8000000080008000, 0x000000000000808B, 0x0000000080000001,
    0x8000000080008081, 0x8000000000008009, 0x000000000000008A, 0x0000000000000088, 0x0000000080008009, 0x000000008000000A] ++
  [0x000000008000808B, 0x800000000000008B, 0x8000000000008089, 0x8000000000008003, 0x8000000000008002, 0x8000000000000080,
    0x000000000000800A, 0x800000008000000A, 0x8000000080008081, 0x8000000000008080, 0x0000000080000001, 0x8000000080008008]

/-- Each lane with the parities of two columns. -/
def keccakTheta (s : Nat) : Nat :=
  let column := fun (x : Nat) => (List.range 5).foldl (fun v y => Nat.xor v (lane s x y)) 0
  let d := ofLanes (fun x y => if y = 0 then Nat.xor (column (x + 4)) (rotLane (column (x + 1)) 1) else 0)
  ofLanes (fun x y => Nat.xor (lane s x y) (lane d x 0))

/-- Each lane rotated and moved to its place. -/
def keccakRhoPi (s : Nat) : Nat :=
  ofLanes (fun x y =>
    let from_ := (x + 3 * y) % 5
    rotLane (lane s from_ x) (laneOffsets.getD (from_ + 5 * x) 0))

/-- Each lane with the two after it in its row, and the round's constant. -/
def keccakChiIota (s c : Nat) : Nat :=
  Nat.xor (ofLanes (fun x y => Nat.xor (lane s x y) (Nat.land (2 ^ 64 - 1 - lane s (x + 1) y) (lane s (x + 2) y)))) c

def keccakRound (s c : Nat) : Nat := keccakChiIota (keccakRhoPi (keccakTheta s)) c

/-- Keccak-f[1600]. -/
def keccak (s : Nat) : Nat := roundConstants.foldl keccakRound s

/-- Bytes of a block, the rate of SHAKE256. -/
def shakeRate : Nat := 136

/-- The message with its suffix and padding: 0x1F after the last byte, 0x80 in the last byte of the last block. -/
def shakePad (m : List Byte) : List Byte :=
  let r := m.length % shakeRate
  if r = shakeRate - 1 then m ++ [0x9F] else m ++ [0x1F] ++ List.replicate (shakeRate - 2 - r) 0 ++ [0x80]

/-- Absorb `n` blocks. -/
def shakeAbsorb : Nat → List Byte → Nat → Nat
  | 0, _, s => s
  | n + 1, m, s => shakeAbsorb n (m.drop shakeRate) (keccak (Nat.xor s (leNat (m.take shakeRate))))

/-- Squeeze `n` blocks. -/
def shakeSqueeze : Nat → Nat → List Byte
  | 0, _ => []
  | n + 1, s => leBytes shakeRate s ++ shakeSqueeze n (keccak s)

/-- The first `n` bytes that SHAKE256 gives for a message. -/
def shake (n : Nat) (m : List Byte) : List Byte :=
  let p := shakePad m
  (shakeSqueeze ((n + shakeRate - 1) / shakeRate) (shakeAbsorb (p.length / shakeRate) p 0)).take n

/-- SHAKE256 with 64 bytes of output, as the device uses it. -/
def shake256 (m : List Byte) : BitVec 512 := BitVec.ofNat 512 (leNat (shake 64 m))

/-! ### Addresses and hashes (FIPS 205 sections 4 and 11) -/

/-- Big-endian bytes and numbers. -/
def beBytes (n v : Nat) : List Byte := (leBytes n v).reverse

def beNat (bs : List Byte) : Nat := leNat bs.reverse

/-- A hash address; `mid` is the chain or the height in a tree, `low` the place in the chain or the index in the tree. Kinds: 0 chains,
1 chain ends, 2 tree, 3 few-time tree, 4 its roots, 5 and 6 secrets of chains and few-time trees. -/
structure SlhAddr where
  layer : Nat := 0
  tree : Nat := 0
  kind : Nat := 0
  pair : Nat := 0
  mid : Nat := 0
  low : Nat := 0
  deriving DecidableEq, Repr

def SlhAddr.bytes (a : SlhAddr) : List Byte :=
  beBytes 4 a.layer ++ beBytes 12 a.tree ++ beBytes 4 a.kind ++ beBytes 4 a.pair ++ beBytes 4 a.mid ++ beBytes 4 a.low

/-- n, the bytes of a hash. -/
def slhN : Nat := 24

/-- The tweaked hash of some bytes under the public seed: F, H and T of the standard, and PRF with the secret seed for bytes. -/
def slhHash (seed : List Byte) (a : SlhAddr) (m : List Byte) : List Byte := shake slhN (seed ++ a.bytes ++ m)

/-- The first `n` digits of `b` bits of some bytes, the highest first. -/
def slhDigits (b n : Nat) (bs : List Byte) : List Nat :=
  (List.range n).map (fun i => beNat bs / 2 ^ (8 * bs.length - b * (i + 1)) % 2 ^ b)

/-- Bytes cut into `k` pieces of `n`. -/
def pieces (n : Nat) : Nat → List Byte → List (List Byte)
  | 0, _ => []
  | k + 1, bs => bs.take n :: pieces n k (bs.drop n)

/-- From a node up along its siblings to the root of its tree: at each height the left child comes first. -/
def slhClimb (seed : List Byte) (a : SlhAddr) : List (List Byte) → Nat → Nat → List Byte → List Byte
  | [], _, _, node => node
  | sib :: r, z, i, node =>
    slhClimb seed a r (z + 1) (i / 2)
      (slhHash seed { a with mid := z + 1, low := i / 2 } (if i % 2 = 0 then node ++ sib else sib ++ node))

/-! ### One-time signatures (FIPS 205 section 5) -/

/-- Number of chains: 48 digits of the message and 3 of their checksum. -/
def slhChains : Nat := 51

/-- The digits that a message gives the chains. -/
def chainDigits (m : List Byte) : List Nat :=
  let d := slhDigits 4 48 m
  let c := (d.map (fun x => 15 - x)).sum
  d ++ [c / 256 % 16, c / 16 % 16, c % 16]

/-- `n` steps of a chain from its place `i` on. -/
def slhChain (seed : List Byte) (a : SlhAddr) : Nat → Nat → List Byte → List Byte
  | 0, _, x => x
  | n + 1, i, x => slhChain seed a n (i + 1) (slhHash seed { a with low := i } x)

/-- The public key from the ends of the chains. -/
def chainEnds (seed : List Byte) (a : SlhAddr) (ends : List (List Byte)) : List Byte :=
  slhHash seed { a with kind := 1, mid := 0, low := 0 } ends.flatten

/-- The public key that a one-time signature leads to. -/
def chainPkOf (seed : List Byte) (a : SlhAddr) (sig m : List Byte) : List Byte :=
  let d := chainDigits m
  chainEnds seed a ((List.zip (pieces slhN slhChains sig) (List.range slhChains)).map (fun e =>
    slhChain seed { a with kind := 0, mid := e.2 } (15 - d.getD e.2 0) (d.getD e.2 0) e.1))

/-- The start of a chain. -/
def chainStart (sk seed : List Byte) (a : SlhAddr) (i : Nat) : List Byte :=
  slhHash seed { a with kind := 5, mid := i, low := 0 } sk

/-- Each chain up to a place of its own. -/
def chainsTo (sk seed : List Byte) (a : SlhAddr) (place : Nat → Nat) : List (List Byte) :=
  (List.range slhChains).map (fun i => slhChain seed { a with kind := 0, mid := i } (place i) 0 (chainStart sk seed a i))

def chainSign (sk seed : List Byte) (a : SlhAddr) (m : List Byte) : List Byte :=
  (chainsTo sk seed a (fun i => (chainDigits m).getD i 0)).flatten

/-! ### Trees of one-time keys (FIPS 205 sections 6 and 7) -/

/-- h', the height of a tree, and d, the number of layers. -/
def slhHeight : Nat := 9

def slhLayers : Nat := 7

/-- A node of a tree by height and index. -/
def treeNode (sk seed : List Byte) (a : SlhAddr) : Nat → Nat → List Byte
  | 0, i => chainEnds seed { a with pair := i } (chainsTo sk seed { a with pair := i } (fun _ => 15))
  | z + 1, i =>
    slhHash seed { a with kind := 2, pair := 0, mid := z + 1, low := i }
      (treeNode sk seed a z (2 * i) ++ treeNode sk seed a z (2 * i + 1))

/-- The root that a tree's signature of a leaf leads to. -/
def treeRootOf (seed : List Byte) (a : SlhAddr) (leaf : Nat) (sig m : List Byte) : List Byte :=
  slhClimb seed { a with kind := 2, pair := 0 } (pieces slhN slhHeight (sig.drop (slhN * slhChains))) 0 leaf
    (chainPkOf seed { a with pair := leaf } (sig.take (slhN * slhChains)) m)

def treeSign (sk seed : List Byte) (a : SlhAddr) (leaf : Nat) (m : List Byte) : List Byte :=
  chainSign sk seed { a with pair := leaf } m ++
    (List.range slhHeight).flatMap (fun j => treeNode sk seed a j (Nat.xor (leaf / 2 ^ j) 1))

/-- Bytes of one layer's signature. -/
def layerBytes : Nat := slhN * (slhChains + slhHeight)

/-- The root that the signatures of the layers from `l` on lead to. -/
def layersRootOf (seed : List Byte) : List (List Byte) → Nat → Nat → Nat → List Byte → List Byte
  | [], _, _, _, m => m
  | sig :: r, l, tree, leaf, m =>
    layersRootOf seed r (l + 1) (tree / 2 ^ slhHeight) (tree % 2 ^ slhHeight)
      (treeRootOf seed { layer := l, tree := tree } leaf sig m)

/-- The signatures of `n` layers from `l` on. -/
def layersSign (sk seed : List Byte) : Nat → Nat → Nat → Nat → List Byte → List Byte
  | 0, _, _, _, _ => []
  | n + 1, l, tree, leaf, m =>
    let sig := treeSign sk seed { layer := l, tree := tree } leaf m
    sig ++ layersSign sk seed n (l + 1) (tree / 2 ^ slhHeight) (tree % 2 ^ slhHeight)
      (treeRootOf seed { layer := l, tree := tree } leaf sig m)

/-! ### Few-time signatures (FIPS 205 section 8) -/

/-- a, the height of a few-time tree, and k, their number. -/
def fewHeight : Nat := 14

def fewTrees : Nat := 17

/-- A secret of the few-time trees by its number. -/
def fewSecret (sk seed : List Byte) (a : SlhAddr) (i : Nat) : List Byte :=
  slhHash seed { a with kind := 6, mid := 0, low := i } sk

def fewNode (sk seed : List Byte) (a : SlhAddr) : Nat → Nat → List Byte
  | 0, i => slhHash seed { a with kind := 3, mid := 0, low := i } (fewSecret sk seed a i)
  | z + 1, i =>
    slhHash seed { a with kind := 3, mid := z + 1, low := i }
      (fewNode sk seed a z (2 * i) ++ fewNode sk seed a z (2 * i + 1))

/-- Bytes of one few-time tree's part. -/
def fewBytes : Nat := slhN * (fewHeight + 1)

def fewSign (sk seed : List Byte) (a : SlhAddr) (md : List Byte) : List Byte :=
  (List.zip (slhDigits fewHeight fewTrees md) (List.range fewTrees)).flatMap (fun e =>
    fewSecret sk seed a (e.2 * 2 ^ fewHeight + e.1) ++
      (List.range fewHeight).flatMap (fun j =>
        fewNode sk seed a j (e.2 * 2 ^ (fewHeight - j) + Nat.xor (e.1 / 2 ^ j) 1)))

/-- The public key that a few-time signature leads to. -/
def fewPkOf (seed : List Byte) (a : SlhAddr) (sig md : List Byte) : List Byte :=
  let d := slhDigits fewHeight fewTrees md
  slhHash seed { a with kind := 4, mid := 0, low := 0 } ((List.zip (pieces fewBytes fewTrees sig) (List.range fewTrees)).flatMap
    (fun e =>
      let i := e.2 * 2 ^ fewHeight + d.getD e.2 0
      slhClimb seed { a with kind := 3 } (pieces slhN fewHeight (e.1.drop slhN)) 0 i
        (slhHash seed { a with kind := 3, mid := 0, low := i } (e.1.take slhN))))

/-! ### Signing and verifying (FIPS 205 sections 9 and 10) -/

/-- What a digest of 39 bytes selects: the few-time digits' bytes, the tree and the leaf. -/
def slhSelect (digest : List Byte) : List Byte × Nat × Nat :=
  (digest.take 30, beNat ((digest.drop 30).take 7) % 2 ^ 54, beNat (digest.drop 37) % 2 ^ slhHeight)

/-- The message as the pure form signs it, with an empty context. -/
def pureMessage (m : List Byte) : List Byte := 0 :: 0 :: m

def slhDigest (r seed root m : List Byte) : List Byte := shake 39 (r ++ seed ++ root ++ m)

/-- Bytes of a signature. -/
def slhSigBytes : Nat := slhN + fewBytes * fewTrees + layerBytes * slhLayers

/-- Verification: key, message, signature. -/
def slhVerify (key m sig : List Byte) : Bool :=
  let seed := key.take slhN
  let root := key.drop slhN
  let d := slhSelect (slhDigest (sig.take slhN) seed root (pureMessage m))
  let few := fewPkOf seed { tree := d.2.1, pair := d.2.2 } ((sig.drop slhN).take (fewBytes * fewTrees)) d.1
  key.length == 2 * slhN && sig.length == slhSigBytes &&
    layersRootOf seed (pieces layerBytes slhLayers (sig.drop (slhN + fewBytes * fewTrees))) 0 d.2.1 d.2.2 few == root

/-- A secret key without its root: the secret seed, the key of the message randomiser, the public seed. -/
structure SlhKey where
  skSeed : List Byte
  skPrf : List Byte
  pkSeed : List Byte
  deriving DecidableEq, Repr

/-- The public root: that of the tree of the top layer. -/
def SlhKey.root (k : SlhKey) : List Byte := treeNode k.skSeed k.pkSeed { layer := slhLayers - 1 } slhHeight 0

/-- Signing with a key and 24 random bytes. -/
def slhSign (k : SlhKey) (rnd m : List Byte) : List Byte :=
  let r := shake slhN (k.skPrf ++ rnd ++ pureMessage m)
  let d := slhSelect (slhDigest r k.pkSeed k.root (pureMessage m))
  let a : SlhAddr := { tree := d.2.1, pair := d.2.2 }
  let few := fewSign k.skSeed k.pkSeed a d.1
  r ++ few ++ layersSign k.skSeed k.pkSeed slhLayers 0 d.2.1 d.2.2 (fewPkOf k.pkSeed a few d.1)

end Sys2Proof.Machine
end

