-- ==== Sys2Proof/Machine/Steward.lean ====
section
/-!
DEFINITION. The steward: board flash (spec/18_integrity_repair.md R360), starts (spec/20_bringup_power.md R393 to R397),
power and temperature (R399), register writes and the mailbox with its commands (R400).
-/

namespace Sys2Proof.Machine

/-! ### Flash (spec/18_integrity_repair.md R360) -/

def Flash.apply (f : Flash) (w : FlashWrite) : Flash :=
  match w with
  | .rows l => { f with errata := l.foldl (fun m e => sset none m e.1 (some e.2)) f.errata }
  | .core k st => { f with coreStates := sset none f.coreStates k (some st) }
  | .die k st => { f with dieStates := sset none f.dieStates k (some st) }
  | .place p d => { f with place := p, spareFor := d }
  | .fails w c => { f with warmFails := w, coldFails := c }
  | .good n => { f with lastGood := some n }
  | .quarantine on => { f with quarantine := on }
  | .image bs => { f with inactive := some bs }
  | .dropImage => { f with inactive := none }
  | .activate bs => { f with active := bs, inactive := none }
  | .verified h => { f with verified := some h }

def UnitState.code : UnitState → Nat
  | .active => 0
  | .reserve => 1
  | .retiring => 2
  | .retired => 3

/-- What the mailbox reports of a write: rows, cores and dies with their new state (R360). -/
def FlashWrite.report : FlashWrite → List (Nat × Nat × Nat)
  | .rows l => l.map (fun e => (0, e.1, e.2.st))
  | .core k st => [(1, k, st.code)]
  | .die k st => [(2, k, st.code)]
  | _ => []

/-- The oldest write completes; the change it holds is reported from then on (R360). -/
def State.flashDone (s : State) : State :=
  match s.flashQueue with
  | [] => s
  | w :: r => { s with flash := s.flash.apply w, flashQueue := r, changes := s.changes ++ w.report }

/-- The quarantine mark stands at once: it survives power-off (R396). -/
def State.markQuarantine (s : State) (on : Bool) : State := { s with flash := s.flash.apply (.quarantine on) }

/-- Flash as it will stand once its writes complete, which is what the running steward goes by. -/
def State.flashNow (s : State) : Flash := s.flashQueue.foldl Flash.apply s.flash

/-! ### Mailboxes (R400) -/

def State.box (s : State) (fn : Nat) : Mailbox := sget {} s.boxes fn

def State.modBox (s : State) (fn : Nat) (f : Mailbox → Mailbox) : State :=
  { s with boxes := sset {} s.boxes fn (f (s.box fn)) }

/-- The next command is served once this cycle's repair decisions are made; when is free (R400, log 6). -/
def State.serveLater (s : State) : State :=
  if s.cmdQueue.isEmpty then s
  else s.drawn.after (1 + Config.untimedDelay s.free) rankServe (.micro .serve)

/-- A command ends with its result (Table 20-3), and the next one is served. -/
def State.mailEnd (s : State) (fn res : Nat) : State :=
  let s := s.modBox fn (fun b => { b with st := if res = 0 then 2 else 3, rtag := b.tag, res := res })
  if s.cmdQueue.head? = some fn then { s with cmdQueue := s.cmdQueue.tail }.serveLater else s

/-- The command being served ends. -/
def State.done (s : State) (res : Nat) : Out := .next (s.mailEnd s.cmd res)

/-- Words of a mailbox page that carry arguments and results: bytes 0x040 to 0xFFF. -/
def pageWords : Nat := 504

/-- The command being served ends with results, which stand in its page from the first word on. -/
def State.doneWith (s : State) (rs : List Reg) : Out :=
  (s.modBox s.cmd (fun b => { b with
    args := (List.zip (List.range pageWords) rs).foldl (fun m e => sset 0 m e.1 e.2) b.args })).done 0

/-- An argument register of the command being served (log 19). -/
def State.arg (s : State) (i : Nat) : Nat := (sget 0 (s.box s.cmd).args i).toNat

def State.argRecord (s : State) : BitVec 512 := BitVec.ofNat 512 (((List.range 8).map (fun i => s.arg i * 2 ^ (64 * i))).sum)

/-- Whether the command's function may act on a partition. -/
def State.mine (s : State) (part : Nat) : Bool := s.cmd == 0 || sget none s.binds s.cmd == some part

/-- Codes that a VF may use (R400). -/
def vfMay (op : Nat) : Bool := op == 0 || (decide (3 ≤ op) && decide (op ≤ 9)) || op == 0x0B

/-- Codes that quarantine serves (R396). -/
def quarantineServes (fn op : Nat) : Bool := fn == 0 && (op == 0 || op == 0x0E || op == 0x0F)

/-- The row of a command. -/
def mailInstr (op : Nat) : Instr :=
  match op with
  | 0x00 => .status
  | 0x01 => .warmStart
  | 0x02 => .coldStart
  | 0x03 => .launch
  | 0x04 => .endLaunch
  | 0x05 => .preEmpt
  | 0x06 => .restore
  | 0x07 => .invalidate
  | 0x08 => .breakpoints
  | 0x09 => .hostInterrupt
  | 0x0A => .windowFigures
  | 0x0B => .telemetry
  | 0x0C => .functionBinding
  | 0x0D => .attestation
  | 0x0E => .imageWrite
  | _ => .clearQuarantine

/-- What the host reaches of a function: everything outside quarantine, but nothing of a VF without a partition (R313); in
quarantine the PF's mailbox only (R396). -/
def State.hostMay (s : State) (fn : Nat) (mail : Bool) : Bool :=
  if fn = 0 then mail || s.devState != .quarantine else s.devState != .quarantine && (s.boundPart fn).isSome

/-- A host write, or Unsupported Request. -/
def State.fromHost (s : State) (fn : Nat) (mail : Bool) (f : State → State) : State :=
  if s.hostMay fn mail then f s else s.reply fn { ur := true }

/-- The first command of the queue is judged, then performed: during a start only status is served (R394); in quarantine a
command that came before it is answered with Unsupported Request (R396), and its mailbox shows not ready (log 19). -/
def State.serve (s : State) : State :=
  match s.cmdQueue with
  | [] => s
  | fn :: _ =>
    let op := (s.box fn).op.toNat
    let s := { s with cmd := fn }
    if s.devState == .quarantine && !quarantineServes fn op then (s.reply fn { ur := true }).mailEnd fn 3
    else if s.devState == .start && op != 0 then s.mailEnd fn 3
    else if 0x0F < op then s.mailEnd fn 1
    else if fn ≠ 0 && !vfMay op then s.mailEnd fn 2
    else s.next [.op (mailInstr op)]

/-- A write to cmd: discarded while busy, otherwise the command starts; quarantine answers Unsupported Request to all but
what it serves, and a VF without a partition has no answer but that (R313, R396, R400). Reserved bits of the word are discarded
(R6, log 133). -/
def State.writeCmd (s : State) (fn : Nat) (v : BitVec 64) : State :=
  let b := s.box fn
  if !s.hostMay fn true || (s.devState == .quarantine && !quarantineServes fn (v.toNat % 256)) then s.reply fn { ur := true }
  else if b.st = 1 then s.modBox fn (fun b => { b with ovr := true })
  else
    let t := s.modBox fn (fun b => { b with op := v.setWidth 8, tag := BitVec.ofNat 8 (v.toNat / 256), st := 1 })
    let t := { t with cmdQueue := t.cmdQueue ++ [fn] }
    if s.cmdQueue.isEmpty then t.serveLater else t

/-- STATUS_OVERRUN_CLEAR: writing 1 to sts.ovr clears it (Table 20-3). -/
def execStatusOverrunClear (fn : Nat) (s : State) : Out :=
  .next (s.fromHost fn true (fun s => s.modBox fn (fun b => { b with ovr := false })))

/-! ### REGISTER_WRITE (spec/00_scope.md R6) -/

/-- What training measures of a link: flight, far link and far device, which are free; the latency is no less than the flight
(spec/19_span_fabric.md Table 19-2, log 43). -/
def State.measureLink (s : State) (i : Nat) : State :=
  let w := (Config.freeWord s.free).toNat
  s.drawn.modLink i (fun l => { l with
    f := w % 256, flink := w / 256 % 32, fdev := w / 2 ^ 13 % 2 ^ 11, lam := max l.lam (w % 256) })

/-- The link register's writable fields; a state that is reserved leaves the state, a latency below the flight the latency,
which stays while the link is up (spec/19_span_fabric.md Table 19-2). A link that begins its training is measured. -/
def State.writeLink (s : State) (i : Nat) (v : BitVec 64) : State :=
  let old := s.link i
  let st := if v.toNat % 4 = 3 then old.st else v.toNat % 4
  let s := if old.st = 2 && st != 2 then s.downLink i else s
  let lam := v.toNat / 2 ^ 12 % 1024
  let s := (s.modLink i (fun l => { l with
    st := st, open_ := v.getLsbD 2, upl := v.getLsbD 3
    lam := if (old.st = 2 && st = 2) || lam < l.f then l.lam else lam
    rpl := v.toNat / 2 ^ 40 % 65536 })).joinAgain
  if st = 1 && old.st ≠ 1 then s.measureLink i else s

/-- A route-table entry; the packets that waited for one go on (spec/19_span_fabric.md R388, log 88). -/
def State.writeRoute (s : State) (dst link : Nat) : State :=
  let ps := s.unrouted.filter (fun p => p.dst == dst)
  { s with
    routes := sset none s.routes dst (some link), unrouted := s.unrouted.filter (fun p => p.dst != dst)
    }.postAll (ps.map (fun p => ⟨s.now, rankUntimed, .op (.packetRoute p)⟩))

/-- A word of a queue descriptor (Table 15-4). The steward alone writes part and pf; a VF writes the descriptors of its
partition only (R315). Enabling a queue starts its polls. Of a nonzero write to reserved bits, of which Table 15-4 says nothing,
those bits are discarded (R6, log 133). -/
def State.writeQueue (s : State) (fn : Option Nat) (q word : Nat) (v : BitVec 64) : State :=
  let d := s.hostQueue q
  let n := v.toNat
  let allowed := match fn with
    | none => true
    | some 0 => s.hostMay 0 false
    | some f => s.hostMay f false && !d.pf && s.boundPart f == some d.part
  if !allowed then s.reply (fn.getD 0) { ur := true }
  else
    match word with
    | 0 =>
      let d' := { d with
        en := v.getLsbD 0, cls := n / 64 % 4, lg := n / 256 % 32
        part := if fn.isNone then n / 2 % 16 else d.part, pf := if fn.isNone then v.getLsbD 5 else d.pf }
      let s := s.setHostQueue q d'
      if d'.en && decide (d.pollAt ≤ s.now) then s.pollWithin q 1024 else s
    | 1 => s.setHostQueue q { d with base := n }
    | 2 => s.setHostQueue q { d with widx := n }
    | 3 => s.setHostQueue q { d with ridx := n }
    | 4 => s.setHostQueue q { d with rdy := n }
    | 5 => s.setHostQueue q { d with sts := n }
    | 6 => s.next [.op (.queueDoorbell q)]
    | _ => s

/-- What stands at an offset of a function's BAR0: the queue descriptors, and the function's mailbox page with cmd, sts and the
words from 0x040 on (R400, spec/15_translation_host.md R315). -/
def bar0Reg (fn off : Nat) : Option DevReg :=
  let page := off - (0x0200_0000 + 4096 * fn)
  if 0x0100_0000 ≤ off && off < 0x0100_0000 + 64 * 256 then
    some (.queue (some fn) ((off - 0x0100_0000) / 64) (off % 64 / 8))
  else if off < 0x0200_0000 + 4096 * fn || 4096 ≤ page then none
  else if page = 0 then some (.mailboxCmd fn)
  else if page = 8 then some (.mailboxSts fn)
  else if 0x40 ≤ page then some (.mailboxArg fn ((page - 0x40) / 8))
  else none

/-- A register takes a value; of HBM4's mode registers the steward writes 0 to 11, at start-up (spec/14_dram_system.md
R290). -/
def State.writeReg (s : State) (r : DevReg) (v : BitVec 64) : State :=
  match r with
  | .link l => s.writeLink l v
  | .route dst => s.writeRoute dst (v.toNat % 32)
  | .queue fn q word => s.writeQueue fn q word v
  | .endTimer =>
    if decide (2 ^ 12 ≤ v.toNat) && decide (v.toNat ≤ 2 ^ 24) then { s with endTimer := v.toNat } else s
  | .functionClass fn => { s with fnClass := sset none s.fnClass fn (some (v.toNat % 4)) }
  | .mailboxCmd fn => s.writeCmd fn v
  | .mailboxSts fn => if v.getLsbD 2 then s.next [.op (.statusOverrunClear fn)] else s.fromHost fn true id
  | .mailboxArg fn word => s.fromHost fn true (fun s => s.modBox fn (fun b => { b with args := sset 0 b.args word v }))
  | .unitMode pc num =>
    if s.devState == .start then s.modPseudo pc (fun p => { p with modes := sset 0 p.modes num (v.setWidth 8) }) else s
  | .hotContext k =>
    let l := s.hotNamed.filter (fun x => x != k)
    { s with hotNamed := if v.getLsbD 0 then l ++ [k] else l }
  | .barSize fn => if v.toNat < 10 then { s with barSizes := sset none s.barSizes fn (some v.toNat) } else s
  | .bar0 _ _ => s

/-- REGISTER_WRITE. A register that does not exist takes nothing; a host write to an offset of BAR0 that holds none is answered
like any other (R313, R396). -/
def execRegisterWrite (r : DevReg) (v : BitVec 64) (s : State) : Out :=
  .next (if !r.ok then s else match r with
    | .bar0 fn off =>
      (match bar0Reg fn off with
       | some q => s.writeReg q v
       | none => s.fromHost fn false id)
    | r => s.writeReg r v)

/-- The codes of the device states (Table 20-3). -/
def DevState.code : DevState → Nat
  | .start => 0
  | .run => 1
  | .quarantine => 2
  | .trip => 3

/-- The sts register of a mailbox (Table 20-3). -/
def State.stsWord (s : State) (fn : Nat) : BitVec 64 :=
  let b := s.box fn
  BitVec.ofNat 64 (b.st + b.ovr.toNat * 2 ^ 2 + b.rtag.toNat * 2 ^ 8 + b.res * 2 ^ 16 + s.devState.code * 2 ^ 32)

/-- A word of a queue descriptor; the doorbell reads 0 (spec/15_translation_host.md Table 15-4). -/
def HostQueue.word (d : HostQueue) (i : Nat) : BitVec 64 :=
  BitVec.ofNat 64 (match i with
    | 0 => d.en.toNat + d.part * 2 + d.pf.toNat * 2 ^ 5 + d.cls * 2 ^ 6 + d.lg * 2 ^ 8
    | 1 => d.base
    | 2 => d.widx
    | 3 => d.ridx
    | 4 => d.rdy
    | 5 => d.sts
    | _ => 0)

/-- What the host reads in eight bytes of a function's BAR0; none is Unsupported Request. -/
def State.bar0Read (s : State) (fn off : Nat) : Option (BitVec 64) :=
  match bar0Reg fn off with
  | some (.queue _ q word) =>
    let d := s.hostQueue q
    if s.hostMay fn false && (fn == 0 || (!d.pf && s.boundPart fn == some d.part)) then some (d.word word) else none
  | some (.mailboxCmd _) =>
    if s.hostMay fn true then some (BitVec.ofNat 64 ((s.box fn).op.toNat + (s.box fn).tag.toNat * 2 ^ 8)) else none
  | some (.mailboxSts _) => if s.hostMay fn true then some (s.stsWord fn) else none
  | some (.mailboxArg _ word) => if s.hostMay fn true then some (sget 0 (s.box fn).args word) else none
  | _ => if s.hostMay fn false then some 0 else none

/-! ### Starts (R393 to R396) -/

/-- A link across a start: a warm start keeps the register of a link that stayed up, everything else is as at reset. -/
def Link.acrossStart (l : Link) : Link :=
  if l.st = 2 then
    { st := 2, open_ := l.open_, upl := l.upl, f := l.f, lam := l.lam, flink := l.flink, fdev := l.fdev, rpl := l.rpl }
  else {}

/-- The command that asked for a start ends. -/
def State.tellStart (s : State) (st : Starting) (res : Nat) : State :=
  match st.fn with
  | some fn => s.mailEnd fn res
  | none => s

/-- A start under way is cut off. What its command reports is not stated: it is free (log 6). -/
def State.dropStart (s : State) : State :=
  match s.starting with
  | some st => ({ s with starting := none }.tellStart st ((Config.freeWord s.free).toNat % 2 ^ 16)).drawn
  | none => s

/-- The state in which a start begins: every item outside flash is built again; mailboxes, the host's replies, what the stacks
are, what the sensors show and time go on. A device in quarantine stays so through its first step (R396). -/
def State.fresh (s : State) (warm : Bool) (fn : Option Nat) : State :=
  { State.reset with
    now := s.now, skew := s.skew, free := s.free, inputs := s.inputs, nextId := s.nextId, startNo := s.startNo + 1
    flash := s.flash, flashQueue := s.flashQueue, changes := s.changes, boxes := s.boxes, cmdQueue := s.cmdQueue, cmd := s.cmd
    hostReplies := s.hostReplies, power := s.power, heat := s.heat, silent := s.silent,
    powers := s.powers, temps := s.temps, jedec := s.jedec, bootAt := s.now
    devState := if s.flashNow.quarantine then .quarantine else .start
    links := if warm then s.links.foldl (fun (m : Store Link) e => sset {} m e.1 e.2.acrossStart) [] else []
    agenda := (s.agenda ++ s.todo).filter (fun d => d.ev == .micro .flashDone)
    starting := some { warm := warm, step := 1, began := s.now, number := s.startNo + 1, fn := fn } }

/-- A start begins. Commands that wait, the one in service among them, are judged again by the start's own rule (R394). -/
def State.beginStart (s : State) (warm : Bool) (fn : Option Nat) : State :=
  let t := s.dropStart.fresh warm fn
  ((t.after (2 ^ 36) rankUntimed (.op .startTimeout)).drawn.after (1 + Config.untimedDelay t.free) rankUntimed
    (.micro .startStep)).serveLater

/-- A start fails: the count goes to the log, and the device starts again (R393, R395). The result that its command
reports is not stated: it is free (log 6). -/
def State.failStart (s : State) (st : Starting) : State :=
  let f := s.flashNow
  let s := s.writeFlash (if st.warm then .fails (f.warmFails + 1) f.coldFails else .fails f.warmFails (f.coldFails + 1))
  let r := (Config.freeWord s.free).toNat % 2 ^ 16
  let s := { s.drawn with starting := some { st with step := 0, fn := none } }
  (s.tellStart st r).post ⟨s.now, rankUntimed, .op .restartAfterFailure⟩

/-- An image whose key and signature verify (R397): the signature and the key are its last bytes (log 10). -/
def imageGood (bs : List Byte) : Bool :=
  let key := bs.drop (bs.length - 48)
  let sig := (bs.take (bs.length - 48)).drop (bs.length - 48 - 16224)
  let body := bs.take (bs.length - 48 - 16224)
  decide (16272 ≤ bs.length) && shake256 key == Config.keyHash && slhVerify key body sig

/-- Step 3: a new image becomes active at a cold start when it verifies, otherwise it is dropped and the start fails; the
active image is checked unless a warm start finds its hash verified (R397, Table 20-1). -/
def State.checkImage (s : State) (st : Starting) : State × Bool :=
  let f := s.flashNow
  let h := shake256 f.active
  match (if st.warm then none else f.inactive) with
  | some img =>
    if imageGood img then ((s.writeFlash (.activate img)).writeFlash (.verified (shake256 img)), true)
    else (s.writeFlash .dropImage, false)
  | none =>
    if st.warm && f.verified == some h then (s, true)
    else if imageGood f.active then (s.writeFlash (.verified h), true)
    else (s, false)

/-- die8 without a number fails its self-test: it is no spare any more (spec/14_dram_system.md R293). -/
def State.testSpare (s : State) (n : Nat) : State :=
  if s.spareFor.isNone && s.dieState 8 == .reserve && !Config.dieTestOk n 8 then s.setDie 8 .retired else s

/-- Step 8: errata table, states and positions come from flash; at a cold start a die that failed its self-test is retired
(R360, spec/18_integrity_repair.md R365). Retirements that a start found under way go on. -/
def State.loadFlash (s : State) (st : Starting) : State :=
  let f := s.flashNow
  let s := { s with
    errata := f.errata, coreStates := f.coreStates, dies := f.dieStates, place := f.place, spareFor := f.spareFor }
  let s := if st.warm then s
    else (List.range 8).foldl (fun t d =>
      if Config.dieTestOk st.number (t.physDie d) then t else t.retireDie d) (s.testSpare st.number)
  s.pokeRepair

/-- Step 7: a link that is not up is trained; whether it comes up, and what is at its far end, is free, and so is the latency
that the steward sets from the flight on (spec/19_span_fabric.md Table 19-2, log 43). -/
def State.trainLink (s : State) (i : Nat) : State :=
  let w := (Config.freeWord s.free).toNat
  if (s.link i).st = 2 then s
  else if w.testBit 63 then
    let t := s.measureLink i
    t.modLink i (fun l => { l with
      st := 2, open_ := w.testBit 62, upl := false, lam := l.f + w / 2 ^ 32 % (1024 - l.f) })
  else s.drawn.modLink i (fun l => { l with st := 0 })

/-- The links of the span that are up. -/
def State.spanLinks (s : State) : List Nat := (List.range 24).filter (fun i => (s.link i).st == 2 && !(s.link i).open_)

/-- The steward chooses the upstream link, or none for the root; a link that kept its place keeps it (R386). -/
def State.chooseUpstream (s : State) : State :=
  if s.spanLinks.any (fun i => (s.link i).upl) then s
  else
    match s.spanLinks[(Config.freeWord s.free).toNat % (s.spanLinks.length + 1)]? with
    | some i => s.drawn.modLink i (fun l => { l with upl := true })
    | none => s.drawn

/-- Step 7 (R393). -/
def State.trainLinks (s : State) : State := ((List.range 24).foldl State.trainLink s).chooseUpstream

/-- Step 9: the timing table is built from the eight stacks and is in force (spec/14_dram_system.md R291). -/
def State.buildTiming (s : State) : State :=
  let t := Config.timingOf ((List.range 8).map (fun i => sget {} s.jedec i))
  { s with timing := t, refi := t.tREFI }

/-- Step 10 is over: a root's at once, with an upstream link after its markers. A device whose upstream link has gone down is the
root only where no link of the span is up (R386, R394). -/
def State.joined (s : State) (st : Starting) : Bool :=
  decide (3 ≤ st.joins) || s.spanLinks.isEmpty || !(List.range 24).any (fun i => (s.link i).upl)

/-- One step of a start and whether it succeeds (Table 20-1). Step 5 is skipped in a warm start. -/
def State.doStep (s : State) (st : Starting) : State × Bool :=
  let ok := Config.startStepOk st.number st.step
  match st.step with
  | 2 => (s, true)
  | 3 => s.checkImage st
  | 5 => (s, st.warm || ok)
  | 7 => (s.trainLinks, ok)
  | 8 => (s.loadFlash st, true)
  | 9 => (s.buildTiming, decide (guardOfTable s.buildTiming.timing ≤ 45))
  | _ => (s, ok)

/-- Ten minutes (R395). -/
def tenMinutes : Nat := 780000000000

/-- Success: the log entry, RUN, and the mark for the clearing of the log (R394, R395). -/
def State.succeed (s : State) (st : Starting) : State :=
  let s := { s with starting := none, devState := .run, runSince := some s.now }.writeFlash (.good st.number)
  (s.after tenMinutes rankUntimed (.op .startLogClear)).tellStart st 0

/-- The start in progress takes its next step; in quarantine none runs beyond step 1 (R393, R396). -/
def State.startStep (s : State) : State :=
  match s.starting with
  | none => s
  | some st =>
    if st.step = 0 then s
    else if st.step = 10 then (if s.joined st then s.succeed st else s)
    else
      let r := s.doStep st
      if !r.2 then r.1.failStart st
      else if st.step = 1 && s.flashNow.quarantine then { r.1 with starting := none, devState := .quarantine }.tellStart st 3
      else
        ({ r.1 with starting := some { st with step := st.step + 1 } }.drawn).after
          (1 + Config.untimedDelay r.1.free) rankUntimed (.micro .startStep)

/-- POWER_ON begins a cold start (R393). -/
def execPowerOn (s : State) : Out := .next (s.beginStart false none)

/-- PCIE_HOT_RESET begins a warm start; quarantine and TRIP are not left by one (R393, R396, R399). -/
def execPcieHotReset (s : State) : Out :=
  .next (if s.devState == .quarantine || s.devState == .trip then s else s.beginStart true none)

/-- START_TIMEOUT: a start that has not completed within 2^36 cycles of step 1 fails (R394). -/
def execStartTimeout (s : State) : Out :=
  .next (match s.starting with
    | none => s
    | some st => if st.step = 0 || decide (s.now < st.began + 2 ^ 36) then s else s.failStart st)

/-- RESTART_AFTER_FAILURE (R395): after the second failed warm start a cold start, else a warm one; after a failed cold
start a cold one, after the third quarantine. -/
def execRestartAfterFailure (s : State) : Out :=
  .next (match s.starting with
    | none => s
    | some st =>
      let f := s.flashNow
      if st.step ≠ 0 then s
      else if st.warm then s.beginStart (decide (f.warmFails < 2)) none
      else if 3 ≤ f.coldFails then
        { s with starting := none, devState := .quarantine }.markQuarantine true
      else s.beginStart false none)

/-- START_LOG_CLEAR: the device has run ten minutes since a successful start (R395). -/
def execStartLogClear (s : State) : Out :=
  .next (match s.runSince with
    | none => s
    | some t => if t + tenMinutes ≤ s.now then s.writeFlash (.fails 0 0) else s)

/-- POWER_LOSS: every state but board flash ends, and a flash write under way is lost (spec/18_integrity_repair.md
R360); what the sensors show stands until they show something else (log 132). -/
def execPowerLoss (s : State) : Out :=
  .next { State.reset with
    now := s.now, skew := s.skew, free := s.free, nextId := s.nextId, inputs := s.inputs, startNo := s.startNo
    jedec := s.jedec, flash := s.flash, power := s.power, heat := s.heat, silent := s.silent }

/-! ### Power and temperature (R399) -/

/-- A pre-emption request to a context (spec/17_traps_preemption.md R345, R418). -/
def State.requestPreempt (s : State) (k : Nat) : State :=
  s.modCtx k (fun c => { c with ev := { c.ev with
    preempt := true, preemptMore := c.ev.preemptMore || c.ev.preempt } })

/-- Pre-emption requests to the live contexts that a test of their class selects. -/
def State.preemptClasses (s : State) (p : Nat → Bool) : State :=
  ((s.ctxs.filter (fun e => e.2.present && p e.2.cls.toNat)).map (fun e => e.1)).foldl State.requestPreempt s

/-- A host interrupt to a context; one posted before the first is taken replaces its vector (R345, R418). -/
def State.interrupt (s : State) (k : Nat) (v : BitVec 16) : State :=
  s.modCtx k (fun c => { c with ev := { c.ev with
    host := some v, hostMore := c.ev.hostMore || c.ev.host.isSome } })

/-- A command of the steward at the first cycle that the rules allow. -/
def State.control (s : State) (kind : DKind) (pc : Nat) : State :=
  match s.earliest { kind := kind, pc := pc, bank := 0, row := 0, col := 0, at_ := s.concI + 1, src := .control } (fun _ => true)
    searchBound (s.concI + 1) with
  | some x => s.commitCmd x
  | none => s

/-- A channel goes into self-refresh: it leaves power-down, closes its banks and takes SRE. -/
def State.sleepOne (s : State) (ch : Nat) : State :=
  let h := (s.pseudo (2 * ch)).hist
  if inSelfRefresh h then s
  else
    let s := if asleep h then s.control .pdx (2 * ch) else s
    ((s.control .prea (2 * ch)).control .prea (2 * ch + 1)).control .sre (2 * ch)

/-- HBM4 goes into self-refresh. -/
def State.sleepAll (s : State) : State := (List.range 256).foldl State.sleepOne s

/-- The steward ends a launch with status 2: at once when none of its contexts has started (R323). -/
def State.stewardEnd (s : State) (id : Nat) : State :=
  match s.launchOf id with
  | none => s
  | some l =>
    if l.stage == .live then s.forceEnd id
    else (s.dropLaunch l).completeLaunch l 2 0

/-- Events that carry a packet between engines and links. -/
def Due.hasPacket (d : Due) : Bool :=
  match d.ev with
  | .op (.packetRoute _) => true
  | .op (.homeRequest _) => true
  | .op (.packetResponse _) => true
  | _ => false

/-- Every packet that the device holds is lost: on links and in their stages, without a route, between its engines, and the
requests that its homes have not executed yet (spec/19_span_fabric.md R389). Adds that a home has answered already are not: its
reply cache would answer them again (log 97). -/
def State.losePackets (s : State) : State :=
  let held := (s.loans.filter (fun l => match l.owner with
    | .peer p => !inParts p
    | _ => false)).map (fun l => l.id)
  let s := (s.links.map (fun (e : Nat × Link) => e.1)).foldl
    (fun t i => t.modLink i (fun l => { l with
      openBuf := [], rxPacket := [], stage := l.stage.map (fun e => (e.1, e.2.filter (fun x => flitKind x.2 != 3))) })) s
  let s := (s.pcs.map (fun e => e.1)).foldl (fun t pc => t.modPseudo pc (fun p => { p with
    queue := p.queue.filter (fun r => match r.owner with
      | .loan id => !held.contains id
      | _ => true) })) s
  { s with
    loans := s.loans.filter (fun l => !held.contains l.id), unrouted := []
    agenda := s.agenda.filter (fun d => !d.hasPacket), todo := s.todo.filter (fun d => !d.hasPacket) }

/-- TRIP: every launch is ended with status 2, HBM4 sleeps, packets held are lost, and a start under way is cut off, since only
a cold start leaves TRIP (R399, spec/19_span_fabric.md R389). Quarantine stays (R396). -/
def State.trip (s : State) : State :=
  if s.devState == .quarantine then s else
  let s := (s.launches.map (fun l => l.id)).foldl State.stewardEnd s.dropStart
  { s.losePackets.sleepAll with devState := .trip, runSince := none }

/-- POWER_SAMPLE, every 2^17 cycles: the mean of 16 samples over 1,800 W pre-empts class 3, then class 2 at the next sample still over
(Table 20-2). -/
def execPowerSample (milliwatts : Nat) (s : State) : Out :=
  let l := (s.powers ++ [milliwatts]).drop (s.powers.length + 1 - 16)
  let s := { s with powers := l }
  .next (if l.length = 16 ∧ 16 * 1800000 < l.sum then
      (match s.overPower with
       | 0 => { s.preemptClasses (fun c => c == 3) with overPower := 1 }
       | 1 => { s.preemptClasses (fun c => c == 2) with overPower := 2 }
       | _ => s)
    else { s with overPower := 0 })

/-- How many of the three figures of Table 20-2 a junction temperature reaches. -/
def heatLevel (millidegrees : Nat) : Nat :=
  if 105000 ≤ millidegrees then 3 else if 100000 ≤ millidegrees then 2 else if 95000 ≤ millidegrees then 1 else 0

/-- TEMPERATURE_SAMPLE, on each die every 2^20 cycles: the actions of Table 20-2 at the first sample past each figure. -/
def execTemperatureSample (die millidegrees : Nat) (s : State) : Out :=
  let old := sget 0 s.hot die
  let new := heatLevel millidegrees
  let s := { s with temps := sset 0 s.temps die millidegrees, hot := sset 0 s.hot die new }
  let s := if old < 1 ∧ 1 ≤ new then
      (s.hotNamed.filter (fun k => (s.ctxAt k).present)).foldl (fun t k => t.interrupt k 0xF0) s else s
  let s := if old < 2 ∧ 2 ≤ new then s.preemptClasses (fun c => c != 0) else s
  .next (if old < 3 ∧ 3 ≤ new then s.trip else s)

/-- COOLANT_FLOW_LOST (Table 20-2). -/
def execCoolantFlowLost (s : State) : Out := .next s.trip

/-! ### The commands (R400) -/

/-- The timing table in force (spec/14_dram_system.md R291, R301). -/
def State.timingNow (s : State) : Config.Timing := { s.timing with tREFI := s.refiNow }

/-- STATUS: the device state, which sts.dev shows, then the timing table and the values that mode registers 12 to 15 may hold,
each list with its length (spec/14_dram_system.md R290, R291, log 19); served in every state (R394, R396). -/
def execStatus (s : State) : Out :=
  let modes := [12, 13, 14, 15].flatMap (fun n =>
    BitVec.ofNat 64 (Config.modeValues n).length :: (Config.modeValues n).map (fun v => v.setWidth 64))
  s.doneWith (BitVec.ofNat 64 s.devState.code :: s.timingNow.words.map (BitVec.ofNat 64) ++ modes)

/-- A commanded start: the command stays busy until the start ends, while others are answered (R394). -/
def State.commandStart (s : State) (warm : Bool) : Out :=
  let fn := s.cmd
  let s := if s.cmdQueue.head? = some fn then { s with cmdQueue := s.cmdQueue.tail } else s
  .next (s.beginStart warm (some fn))

/-- WARM_START; TRIP is left only by a cold start (R393, R399). -/
def execWarmStart (s : State) : Out := if s.devState == .trip then s.done 3 else s.commandStart true

/-- COLD_START (R393). -/
def execColdStart (s : State) : Out := s.commandStart false

/-- LAUNCH: submits the record in the argument registers; launches are accepted in RUN (R319, R394). -/
def execLaunch (s : State) : Out :=
  let r := s.argRecord
  if s.devState != .run then s.done 3
  else if !s.mine (lrPart r) then s.done 2
  else
    let t := s.submit r
    t.1.doneWith [BitVec.ofNat 64 t.2]

/-- END_LAUNCH: the steward ends a launch with status 2 (R323). -/
def execEndLaunch (s : State) : Out :=
  match s.launchOf (s.arg 0) with
  | none => s.done 4
  | some l =>
    if !s.mine l.part then s.done 2 else (s.stewardEnd l.id).done 0

/-- The contexts that a command names, when all are live, and whether all are the function's. -/
def State.namedLive (s : State) (ks : List Nat) : Bool := ks.all (fun k => (s.ctxAt k).present)

def State.namedMine (s : State) (ks : List Nat) : Bool := ks.all (fun k => s.mine (s.ctxAt k).part)

/-- What a command does to contexts it names: bad argument, not allowed, or done. -/
def State.onContexts (s : State) (ks : List Nat) (f : State → State) : Out :=
  if !s.namedLive ks then s.done 4 else if !s.namedMine ks then s.done 2 else (f s).done 0

/-- PRE_EMPT: a pre-emption request to the named contexts (spec/17_traps_preemption.md R348). -/
def execPreEmpt (s : State) : Out :=
  let ks := (List.range (s.arg 0 % 64)).map (fun i => s.arg (1 + i))
  s.onContexts ks (fun s => ks.foldl State.requestPreempt s)

/-- RESTORE: a saved context onto a free slot of the same index on a core of its partition; the command ends when the context
stands there (R350). A context of which a restore is under way cannot be named again. -/
def execRestore (s : State) : Out :=
  match s.saved.find? (fun v => v.id == s.arg 0 && !s.restoring v) with
  | none => s.done 4
  | some v =>
    let key := s.arg 1
    if !s.mine v.ctx.part then s.done 2
    else if !(s.slotFits v key && s.roomFor v.ctx (coreOf key)) then s.done 4
    else .next (s.startRestore v key none (some s.cmd))

/-- The engines that hold a translation of a partition or work on a loan of it. -/
def State.enginesOf (s : State) (part : Nat) : List Nat :=
  ((s.partition part).cores ++ (s.cores.filter (fun e => e.2.cache.any (fun t => t.part == part))).map (fun e => e.1) ++
    (s.loans.filter (fun l => l.part == part)).map (fun l => l.core)).eraseDups

/-- INVALIDATE: partition-wide; the command ends when the invalidation completes
(spec/15_translation_host.md R310). -/
def execInvalidate (s : State) : Out :=
  let part := s.arg 0
  if !s.mine part then s.done 2
  else
    .next (s.invalidate (s.enginesOf part) part none none (some s.cmd))

/-- BREAKPOINTS: up to four PCs of a context (spec/17_traps_preemption.md R347). -/
def execBreakpoints (s : State) : Out :=
  let k := s.arg 0
  if 4 < s.arg 1 then s.done 4
  else s.onContexts [k] (fun s => s.modCtx k (fun c => { c with
    breaks := (List.range (s.arg 1)).map (fun i => BitVec.ofNat 32 (s.arg (2 + i))) }))

/-- HOST_INTERRUPT: a vector number to a context (R345). -/
def execHostInterrupt (s : State) : Out :=
  let k := s.arg 0
  s.onContexts [k] (fun s => s.interrupt k (BitVec.ofNat 16 (s.arg 1)))

/-- WINDOW_FIGURES: window and threshold of cores or dies within their limits (R362, Table 18-4). -/
def execWindowFigures (s : State) : Out :=
  let w := s.arg 1
  let n := s.arg 2
  if 1 < s.arg 0 || w = 0 || decide (2 ^ 40 ≤ w) || n = 0 || decide (255 < n) then s.done 4
  else if s.arg 0 = 0 then { s with coreWin := (BitVec.ofNat 40 w, n) }.done 0
  else { s with dieWin := (BitVec.ofNat 40 w, n) }.done 0

/-- A list with its length before it. -/
def counted (l : List (List Nat)) : List Nat := l.length :: l.flatten

/-- What telemetry shows of the device as a whole: corrected errors by stack and by core, power and temperature samples,
reports of the links (R353, R387), changes of rows, cores and dies (R360), drops and replays of each link. -/
def State.deviceWords (s : State) : List Nat :=
  counted (s.eccCount.map (fun e => [e.1, e.2])) ++
    counted ((s.cores.filter (fun e => e.2.corrected != 0)).map (fun e => [e.1, e.2.corrected])) ++
    counted (s.powers.map (fun p => [p])) ++ counted (s.temps.map (fun e => [e.1, e.2])) ++
    counted (s.linkReports.map (fun e => [e.1, e.2])) ++ counted (s.changes.map (fun e => [e.1, e.2.1, e.2.2])) ++
    counted (s.links.map (fun e => [e.1, e.2.dropped, e.2.rpl]))

/-- TELEMETRY: the completions that no word could be written for and the contexts that a trap in supervisor mode stopped
(R417, R344), and for the PF what the device shows as a whole (R353, R360, R387, spec/14_dram_system.md R303). The first
argument is the number of words to skip (log 19). -/
def execTelemetry (s : State) : Out :=
  let reps := (s.reports.filter (fun r => s.mine r.1)).map (fun r => [r.1, r.2.1, r.2.2.1, r.2.2.2])
  let stops := if s.cmd = 0 then s.stops.map (fun e => [e.1, e.2.1.toNat, e.2.2.1.toNat, e.2.2.2.toNat]) else []
  let all := counted reps ++ counted stops ++ (if s.cmd = 0 then s.deviceWords else [])
  s.doneWith ((all.drop (s.arg 0)).map (BitVec.ofNat 64))

/-- FUNCTION_BINDING: a VF is bound to a partition; a number above 15 unbinds it (R313). -/
def execFunctionBinding (s : State) : Out :=
  let fn := s.arg 0
  if fn = 0 || 15 < fn then s.done 4
  else { s with binds := sset none s.binds fn (if s.arg 1 < 16 then some (s.arg 1) else none) }.done 0

/-- The errata table of flash as bytes: 133 entries of 8 bytes for each of 378 cores. -/
def Flash.errataBytes (f : Flash) : List Byte :=
  (List.range (378 * 133)).flatMap (fun k =>
    let e := (sget none f.errata k).getD (if k % 133 < 129 then { w0 := 0, n := 0, st := 0, lr := k % 133 }
      else { w0 := 0, n := 0, st := 1, lr := 0 })
    leBytes 8 (e.st * 2 ^ 48 + e.lr * 2 ^ 50))

/-- The device's signing key (R398). -/
def deviceKey : SlhKey :=
  let b := leBytes 72 Config.signSeeds.toNat
  { skSeed := b.take 24, skPrf := (b.drop 24).take 24, pkSeed := b.drop 48 }

/-- The attestation report (R398): the active image is the one that the last cold start made active, whether or not flash has
taken the change yet. -/
def State.attestReport (s : State) : List Byte :=
  let f := s.flash
  let live := s.launches.filter (fun l => l.stage == .live)
  let nonce := (List.range 4).flatMap (fun i => leBytes 8 (s.arg (1 + i)))
  let hash := fun (bs : List Byte) => leBytes 64 (shake256 bs).toNat
  let body := leBytes 4 1 ++ leBytes 4 ownDevice ++ nonce ++ hash s.flashNow.active ++ hash Config.fuseBlock ++
    hash f.errataBytes ++ leBytes 4 live.length ++ (live.take 16).flatMap (fun l => leBytes 1 l.part ++ hash l.img.bytes) ++
    List.replicate (65 * (16 - live.length)) 0
  body ++ slhSign deviceKey (leBytes 24 (Config.signRandom s.free).toNat) body ++ List.replicate 36 0

/-- The steward's own accesses to DPAs. -/
def stewardSpace : Space := { engine := stewardEngine, phys := true }

/-- ATTESTATION: the signed report goes to a 64-byte aligned buffer of HBM4 (R398). -/
def execAttestation (s : State) : Out :=
  let a := s.arg 0
  if a % 64 ≠ 0 || !backed (a + 17535) then s.done 4
  else .next (s.drawn.startJob (.report s.cmd) stewardSpace a 17536 s.attestReport)

/-- IMAGE_WRITE: the image in a buffer of HBM4 goes to the inactive bank (R397, log 19). -/
def execImageWrite (s : State) : Out :=
  let a := s.arg 0
  let n := s.arg 1
  if n = 0 || !backed (a + n - 1) then s.done 4 else .next (s.startJob (.image s.cmd) stewardSpace a n [])

/-- The image has been read. -/
def State.imageRead (s : State) (fn status : Nat) (bs : List Byte) : State :=
  if status = 0 then (s.writeFlash (.image bs)).mailEnd fn 0 else s.mailEnd fn 4

/-- CLEAR_QUARANTINE clears it and causes a cold start (R396). -/
def execClearQuarantine (s : State) : Out := (s.markQuarantine false).commandStart false

end Sys2Proof.Machine
end

