-- ==== Sys2Proof/Machine/Vector.lean ====
section
/-!
DEFINITION. The V slots (spec/08_instr_vector.md): the quarters of their sources, the element arithmetic, the cross-lane
forms, the conversions and the V port's loads and stores.
-/

namespace Sys2Proof.Machine

/-- Unit class of V. -/
def unitV : Nat := 3

/-! ### Elements and masks (R155, R156) -/

/-- The first `n` elements of `w` bytes of a byte list. -/
def elemsOf (w : Nat) : Nat → List Byte → List Nat
  | 0, _ => []
  | n + 1, bs => leNat (bs.take w) :: elemsOf w n (bs.drop w)

/-- Activity of the first `n` elements: the mask bit at each element's first byte. -/
def activeOf (w : Nat) : Nat → List Bool → List Bool
  | 0, _ => []
  | n + 1, q => q.headD false :: activeOf w n (q.drop w)

/-- Bytes at rising positions. -/
def cellRun : Nat → List Byte → List (Nat × Byte)
  | _, [] => []
  | p, b :: r => (p, b) :: cellRun (p + 1) r

/-- The bytes of the active elements, from position `p` on. -/
def cellsOf (w : Nat) : Nat → List Bool → List Nat → List (Nat × Byte)
  | p, a :: as, x :: xs => (if a then cellRun p (leBytes w x) else []) ++ cellsOf w (p + w) as xs
  | _, _, _ => []

/-- Element count of a form whose elements are `w` bytes (R155). -/
def VOp.count (v : VOp) (w : Nat) : Nat := v.cnt * 4 / w

def VOp.elems (v : VOp) (w : Nat) (bs : List Byte) : List Nat := elemsOf w (v.count w) bs

def VOp.active (v : VOp) (w n : Nat) : List Bool := activeOf w n v.q

/-! ### Starting a V instruction and reading its quarters (R57, R157) -/

/-- The quarters of a form: ⌈`$vl` / 512⌉, two for `v.ldz` (R158). -/
def vQuarters (i : Instr) (vl : Nat) : Nat :=
  match i with
  | .vLdz _ _ _ _ _ => 2
  | _ => (vl + 511) / 512

/-- A V slot issues: within the previous occupancy it traps, otherwise its quarters are read from this cycle on. The
register numbers are names, resolved here (R19). -/
def vSlot (s : State) (i : Instr) (q dst dst1 src src1 tsrc tsrc1 : Nat) (l : Reg) (p : Bool) : State :=
  let c := s.me
  let core := s.coreAt (coreOf s.cur.ctx)
  if s.now < core.vFree then s.issueTrap 0x04 (infoTiming 1 s.slotNo (s.concAt core.vFree))
  else
    s.emit 0 rankSample (.micro (.vStart s.cur.ctx
      { o := s.here unitV, i := i, cnt := c.vl, quarter := 0, quarters := vQuarters i c.vl, lReg := l, predVal := p,
        src := c.physV src, src1 := c.physV src1, tsrc := c.physV tsrc, tsrc1 := c.physV tsrc1, dst := c.physV dst,
        dst1 := c.physV dst1, vs := [], vs1 := [], vt := [], vt1 := [], vd := [], q := [], seg := [], mq := q, mqd := dst }))

/-- A form of one or two vector sources. -/
def vPlain (s : State) (i : Instr) (q : BitVec 2) (vd vs vt : BitVec 6) : Out :=
  .next (vSlot s i q.toNat vd.toNat 0 vs.toNat 0 vt.toNat 0 0 false)

/-- A form that writes a mask; the destination keeps its own number. -/
def vToMask (s : State) (i : Instr) (q qd : BitVec 2) (vs vt : BitVec 6) (p : Bool) : Out :=
  .next (vSlot s i q.toNat qd.toNat 0 vs.toNat 0 vt.toNat 0 0 p)

/-- A form that reads an l register: poisoned, it traps (R175, R176). -/
def vWithL (s : State) (i : Instr) (q : BitVec 2) (vd vs : BitVec 6) (l : BitVec 5) : State :=
  if s.now < (s.coreAt (coreOf s.cur.ctx)).vFree || !s.me.poisonL l.toNat then
    vSlot s i q.toNat vd.toNat 0 vs.toNat 0 0 0 (s.me.regL l.toNat) false
  else s.poisoned unitV l.toNat

/-- One quarter of a physical V register. -/
def State.laneBytes (s : State) (k r quarter : Nat) : List Byte :=
  s.poolRead (coreOf k) ((s.ctxAt k).vBase r + 2048 * quarter) 2048

/-- The physical vector registers that a form reads. -/
def VOp.reads (v : VOp) : List Nat :=
  match v.i with
  | .vQp _ _ _ _ | .vGet _ _ _ _ | .vLd _ _ _ _ _ | .vLdS _ _ _ _ _ | .vLdt _ _ _ _ _ | .vLdz _ _ _ _ _ => []
  | .vFma _ _ _ _ _ => [v.dst, v.src, v.tsrc]
  | .vHash _ _ _ _ => [v.src, v.tsrc, v.tsrc1]
  | .vNarrow _ _ _ _ => [v.src, v.src1]
  | .vAdd _ _ _ _ _ | .vSub _ _ _ _ _ | .vMul _ _ _ _ _ | .vMin _ _ _ _ _ | .vMax _ _ _ _ _ | .vAnd _ _ _ _ _
  | .vOr _ _ _ _ _ | .vXor _ _ _ _ _ | .vAndn _ _ _ _ _ | .vSel _ _ _ _ _ | .vCvtSr _ _ _ _ _ | .vPerm _ _ _ _ _
  | .vEq _ _ _ _ _ | .vNe _ _ _ _ _ | .vLt _ _ _ _ _ | .vLe _ _ _ _ _ => [v.src, v.tsrc]
  | _ => [v.src]

/-- The pool counts the corrected errors that one quarter of the sources reads (spec/18_integrity_repair.md R354). -/
def State.countQuarter (s : State) (k : Nat) (v : VOp) : State :=
  v.reads.foldl (fun t r => t.countPool k ((t.ctxAt k).vBase r + 2048 * v.quarter) 2048) s

/-- One quarter of a mask. -/
def Context.laneBits (c : Context) (q quarter : Nat) : List Bool :=
  (List.range 2048).map (fun i => (c.mask q).getLsbD (2048 * quarter + i))

/-- The segment-start mask of a scan. -/
def VOp.segMask (v : VOp) : Nat :=
  match v.i with
  | .vScan _ _ _ _ sq seg _ _ => if seg then sq.toNat else 0
  | _ => 0

/-- The operation with one more quarter of every source (R157). -/
def State.readQuarter (s : State) (k : Nat) (v : VOp) : VOp :=
  let c := s.ctxAt k
  let r := fun n => s.laneBytes k n v.quarter
  { v with
    quarter := v.quarter + 1
    vs := v.vs ++ r v.src
    vs1 := v.vs1 ++ r v.src1
    vt := v.vt ++ r v.tsrc
    vt1 := v.vt1 ++ r v.tsrc1
    vd := v.vd ++ r v.dst
    q := v.q ++ c.laneBits v.mq v.quarter
    seg := v.seg ++ c.laneBits v.segMask v.quarter }

/-! ### Arithmetic on one element (R160 to R163) -/

/-- A result of the four arithmetic forms: rounded once, or wrapped (R160). -/
def vArith (t : ElemType) (f : Num) (i : Int) : Nat :=
  if t.isFloat then vRound t f .rne false 0 else intBits (8 * t.width) i

/-- An element as an integer. -/
def vInt (t : ElemType) (x : Nat) : Int := intCode (8 * t.width) false x

def vAddOf (t : ElemType) (x y : Nat) : Nat := vArith t ((vVal t x).add (vVal t y)) (vInt t x + vInt t y)

def vSubOf (t : ElemType) (x y : Nat) : Nat := vArith t ((vVal t x).add (vVal t y).negate) (vInt t x - vInt t y)

def vMulOf (t : ElemType) (x y : Nat) : Nat := vArith t ((vVal t x).mul (vVal t y)) (vInt t x * vInt t y)

def vFmaOf (t : ElemType) (x y z : Nat) : Nat :=
  vArith t (((vVal t x).mul (vVal t y)).add (vVal t z)) (vInt t x * vInt t y + vInt t z)

/-- The canonical NaN of a V type. -/
def vNaN (t : ElemType) : Nat := (vFloat t).nanCode .rne false

def vIsNaN (t : ElemType) (x : Nat) : Bool := t.isFloat && vVal t x == .nan

def vMinOf (t : ElemType) (x y : Nat) : Nat :=
  if vIsNaN t x || vIsNaN t y then vNaN t else if Num.lt true (vVal t y) (vVal t x) then y else x

def vMaxOf (t : ElemType) (x y : Nat) : Nat :=
  if vIsNaN t x || vIsNaN t y then vNaN t else if Num.lt true (vVal t x) (vVal t y) then y else x

/-- The sign bit of an element. -/
def signBit (t : ElemType) : Nat := 2 ^ (8 * t.width - 1)

def vAbsOf (t : ElemType) (x : Nat) : Nat :=
  if vIsNaN t x then vNaN t else if t.isFloat then x % signBit t else intBits (8 * t.width) (vInt t x).natAbs

def vNegOf (t : ElemType) (x : Nat) : Nat :=
  if vIsNaN t x then vNaN t
  else if t.isFloat then (x + signBit t) % (2 * signBit t) else intBits (8 * t.width) (-(vInt t x))

def vNotOf (t : ElemType) (x : Nat) : Nat := 2 ^ (8 * t.width) - 1 - x

def vAndnOf (t : ElemType) (x y : Nat) : Nat := x &&& vNotOf t y

def vShlOf (t : ElemType) (a x : Nat) : Nat := if 8 * t.width ≤ a then 0 else x * 2 ^ a % 2 ^ (8 * t.width)

def vShrOf (t : ElemType) (a x : Nat) : Nat := if 8 * t.width ≤ a then 0 else x / 2 ^ a

def vSarOf (t : ElemType) (a x : Nat) : Nat := intBits (8 * t.width) (vInt t x / (2 ^ min a (8 * t.width) : Nat))

def vEqOf (t : ElemType) (x y : Nat) : Bool := (vVal t x).eq (vVal t y)

def vLtOf (t : ElemType) (x y : Nat) : Bool := (vVal t x).lt false (vVal t y)

def vLeOf (t : ElemType) (x y : Nat) : Bool := vLtOf t x y || vEqOf t x y

/-- Conversion of an element (R166): sat = 0 into a floating target, sat = 1 into an integer one. -/
def vCvtOf (t u : ElemType) (mode : Mode) (r x : Nat) : Nat := vRound u (vVal t x) mode (!u.isFloat) r

/-- The counter hash (R169). -/
def vHashOf (base k klo khi : Nat) : Nat :=
  let m := 2 ^ 32
  let x := Nat.xor ((base + k) % m) klo * 0x9E3779B1 % m
  let x := Nat.xor x (x / 2 ^ 15)
  let x := (x + khi) % m * 0x85EBCA77 % m
  Nat.xor x (x / 2 ^ 13)

/-! ### Scan and reduce (R170, R171) -/

/-- The operator of a scan or reduction (Table 05-6). -/
def vOpOf (op : BitVec 2) (t : ElemType) (x y : Nat) : Nat :=
  match op.toNat with
  | 0 => vAddOf t x y
  | 1 => vMaxOf t x y
  | _ => vMinOf t x y

/-- The identity of the operator (R170). -/
def vIdent (op : BitVec 2) (t : ElemType) : Nat :=
  match op.toNat with
  | 0 => 0
  | 1 => if t.isFloat then (vFloat t).signed true (vFloat t).infCode else signBit t
  | _ => if t.isFloat then (vFloat t).infCode else signBit t - 1

/-- An element as a result, with a NaN in its canonical form (spec/04_number_formats.md R88). -/
def vCanon (t : ElemType) (x : Nat) : Nat := if vIsNaN t x then vNaN t else x

/-- The scan loop over (start, active, element), with the running value. -/
def scanLoop (f : Nat → Nat → Nat) (ident : Nat) (excl : Bool) : Option Nat → List (Bool × Bool × Nat) → List Nat
  | _, [] => []
  | acc, (start, act, x) :: r =>
    let acc := if start then none else acc
    if act then
      let next := match acc with
        | none => x
        | some a => f a x
      (if excl then acc.getD ident else next) :: scanLoop f ident excl (some next) r
    else 0 :: scanLoop f ident excl acc r

/-- The reduction of the active elements. -/
def redLoop (f : Nat → Nat → Nat) : Option Nat → List (Bool × Nat) → Option Nat
  | acc, [] => acc
  | acc, (act, x) :: r =>
    redLoop f (if act then some (match acc with
      | none => x
      | some a => f a x) else acc) r

/-! ### Writes of a finished instruction -/

/-- The bytes of the active elements as one write of the destination. -/
def VOp.put (v : VOp) (w : Nat) (xs : List Nat) : List Write :=
  [.vec v.dst (cellsOf w 0 (v.active w xs.length) xs)]

/-- Element by element over one source. -/
def VOp.map1 (v : VOp) (w : Nat) (f : Nat → Nat) : List Write := v.put w ((v.elems w v.vs).map f)

/-- Element by element over two sources. -/
def VOp.map2 (v : VOp) (w : Nat) (f : Nat → Nat → Nat) : List Write :=
  v.put w (List.zipWith f (v.elems w v.vs) (v.elems w v.vt))

/-- A mask write from one bit an element; an inactive element gives 0 (R164). -/
def VOp.toMask (v : VOp) (w : Nat) (bits : List Bool) : List Write :=
  [.mask v.mqd (maskOf w (List.zipWith (fun a b => a && b) (v.active w (v.count w)) bits))]

/-- A compare (R164). -/
def VOp.compare (v : VOp) (t : ElemType) (f : Nat → Nat → Bool) : List Write :=
  v.toMask t.width (List.zipWith f (v.elems t.width v.vs) (v.elems t.width v.vt))

/-- `v.sel` writes every element (R165). -/
def VOp.select (v : VOp) (w : Nat) : List Write :=
  let n := v.count w
  let xs := List.zipWith (fun a (p : Nat × Nat) => if a then p.1 else p.2) (v.active w n)
    (List.zip (v.elems w v.vs) (v.elems w v.vt))
  [.vec v.dst (cellsOf w 0 (List.replicate n true) xs)]

/-- `v.cvt` (R166). -/
def VOp.convert (v : VOp) (t u : ElemType) (mode : BitVec 3) : List Write :=
  let n := v.cnt * 4 / max t.width u.width
  v.put u.width ((elemsOf t.width n v.vs).map (vCvtOf t u (modeOf mode.toNat) 0))

/-- `v.cvt.sr` (R167). -/
def VOp.convertSr (v : VOp) (t : ElemType) : List Write :=
  v.put t.width (List.zipWith (fun x r => vCvtOf .f32 t .sr r x) (elemsOf 4 v.cnt v.vs) (elemsOf 4 v.cnt v.vt))

/-- Format words of the quantise targets (Table 05-6, Table 04-3). -/
def quantWord (target : Nat) : Nat :=
  [0x005, 0x006, 0x007, 0x008, 0x009, 0x00A, 0x04D, 0x06D, 0x08D, 0x0AD, 0x0CD, 0x0ED, 0x10D].getD target 0

/-- The blocks of `v.quant`: each block's scale and codes (R168). -/
def quantBlocks (fw : Nat) (mode : Mode) : Nat → List Num → List (Nat × List Nat)
  | 0, _ => []
  | n + 1, xs => quantBlock fw (xs.take 32) mode :: quantBlocks fw mode n (xs.drop 32)

def VOp.quantise (v : VOp) (mode : BitVec 2) (target : BitVec 4) : List Write :=
  let fw := quantWord target.toNat
  let b := elemBits fw
  let bl := quantBlocks fw (modeOf mode.toNat) (v.cnt / 32) ((elemsOf 4 v.cnt v.vs).map (vVal .f32))
  [.vec v.dst (cellRun 0 (leBytes (v.cnt * b / 8) (packRun b (bl.flatMap (fun x => x.2)))) ++
    cellRun 4096 (bl.map (fun x => BitVec.ofNat 8 x.1)))]

/-- `v.hash` (R169). -/
def VOp.hash (v : VOp) : List Write :=
  let n := v.cnt
  let keys := List.zip (elemsOf 4 n v.vt) (elemsOf 4 n v.vt1)
  v.put 4 (List.zipWith (fun (b : Nat × Nat) (k : Nat × Nat) => vHashOf b.1 b.2 k.1 k.2)
    (List.zip (elemsOf 4 n v.vs) (List.range n)) keys)

/-- `v.scan` (R170). -/
def VOp.scan (v : VOp) (t : ElemType) (seg : Bool) (op : BitVec 2) (excl : Bool) : List Write :=
  let w := t.width
  let n := v.count w
  let starts := List.zipWith (fun b k => k == 0 || (seg && b)) (activeOf w n v.seg) (List.range n)
  v.put w (scanLoop (vOpOf op t) (vIdent op t) excl none (List.zip starts (List.zip (v.active w n) ((v.elems w v.vs).map (vCanon t)))))

/-- `v.red` (R171). -/
def VOp.reduce (v : VOp) (t : ElemType) (op : BitVec 2) : List Write :=
  let w := t.width
  let n := v.count w
  match redLoop (vOpOf op t) none (List.zip (v.active w n) ((v.elems w v.vs).map (vCanon t))) with
  | none => []
  | some x => v.put w (List.replicate n x)

/-- `v.perm` (R172). -/
def VOp.permute (v : VOp) (t : ElemType) : List Write :=
  let w := t.width
  let n := v.count w
  let src := (v.elems w v.vs).toArray
  v.put w (List.zipWith (fun k u =>
    let j := if w = 1 then 256 * (k / 256) + u else u
    if n ≤ j then 0 else src.getD j 0) (List.range n) (v.elems w v.vt))

/-- `v.bcast` (R173). -/
def VOp.broadcast (v : VOp) (t : ElemType) (g : Nat) : List Write :=
  let w := t.width
  let src := (v.elems w v.vs).toArray
  v.put w ((List.range (v.count w)).map (fun k => src.getD (k - k % 2 ^ g) 0))

/-- The type of twice the width. -/
def wideType : ElemType → ElemType
  | .i8 => .i16
  | .i16 => .i32
  | .bf16 => .f32
  | .f16 => .f32
  | t => t

/-- `v.widen` (R174): the first half of the elements into vd, the second into vd+1. -/
def VOp.widen (v : VOp) (t : ElemType) : List Write :=
  let w := t.width
  let n := v.count w
  let xs := (v.elems w v.vs).map (vCvtOf t (wideType t) .rne 0)
  let as := v.active w n
  [.vec v.dst (cellsOf (2 * w) 0 (as.take (n / 2)) (xs.take (n / 2))),
   .vec v.dst1 (cellsOf (2 * w) 0 (as.drop (n / 2)) (xs.drop (n / 2)))]

/-- `v.narrow` (R174). -/
def VOp.narrow (v : VOp) (t : ElemType) : List Write :=
  let w := t.width
  let n := v.count w
  v.put w ((elemsOf (2 * w) (n / 2) v.vs ++ elemsOf (2 * w) (n / 2) v.vs1).map (vCvtOf (wideType t) t .rne 0))

/-! ### The last quarter: results and their cycles (Table 08-1) -/

/-- The address of a memory form: `$vl` × 4 bytes from l[s] plus 64 × off (R176). -/
def VOp.access (v : VOp) (off : BitVec 6) : Access :=
  { sh := addrShelf v.lReg, off := (addrOffset v.lReg : Int) + 64 * off.toInt, size := 4 * v.cnt }

/-- The load that the last quarter sends to the V port (R177, R178). -/
def VOp.loadOf (v : VOp) (kind : VLoadKind) (t : ElemType) (off : BitVec 6) : VLoad :=
  { kind := kind, vd := v.dst, w := t.width, n := v.count t.width, active := v.active t.width (v.count t.width),
    q := v.mq, acc := v.access off, last := 0 }

/-- Latency of add, subtract and multiply. -/
def arithLatency (t : ElemType) : Nat := if t.isFloat then 4 else 2

/-- What a V instruction does once its last quarter is read: register writes at a latency from t_last. -/
def VOp.results (v : VOp) : Nat × List Write :=
  match v.i with
  | .vAdd t _ _ _ _ => (arithLatency t, v.map2 t.width (vAddOf t))
  | .vSub t _ _ _ _ => (arithLatency t, v.map2 t.width (vSubOf t))
  | .vMul t _ _ _ _ => (arithLatency t, v.map2 t.width (vMulOf t))
  | .vFma t _ _ _ _ =>
    (5, v.put t.width (List.zipWith (fun (p : Nat × Nat) z => vFmaOf t p.1 p.2 z)
      (List.zip (v.elems t.width v.vs) (v.elems t.width v.vt)) (v.elems t.width v.vd)))
  | .vMin t _ _ _ _ => (2, v.map2 t.width (vMinOf t))
  | .vMax t _ _ _ _ => (2, v.map2 t.width (vMaxOf t))
  | .vAbs t _ _ _ => (2, v.map1 t.width (vAbsOf t))
  | .vNeg t _ _ _ => (2, v.map1 t.width (vNegOf t))
  | .vNot t _ _ _ => (2, v.map1 t.width (vNotOf t))
  | .vExp2 t _ _ _ => (10, v.map1 t.width (fun x => exp2Round (vFloat t) (vVal t x)))
  | .vRcp t _ _ _ => (10, v.map1 t.width (fun x => rcpRound (vFloat t) (vVal t x)))
  | .vRsqrt t _ _ _ => (10, v.map1 t.width (fun x => rsqrtRound (vFloat t) (vVal t x)))
  | .vQp t _ _ _ => (2, v.toMask t.width (List.replicate (v.count t.width) v.predVal))
  | .vGet t _ _ _ =>
    (2, v.put t.width (List.replicate (v.count t.width) (v.lReg.toNat % 2 ^ (8 * t.width))))
  | .vAnd t _ _ _ _ => (2, v.map2 t.width Nat.land)
  | .vOr t _ _ _ _ => (2, v.map2 t.width Nat.lor)
  | .vXor t _ _ _ _ => (2, v.map2 t.width Nat.xor)
  | .vAndn t _ _ _ _ => (2, v.map2 t.width (vAndnOf t))
  | .vShl t _ _ _ a => (2, v.map1 t.width (vShlOf t a.toNat))
  | .vShr t _ _ _ a => (2, v.map1 t.width (vShrOf t a.toNat))
  | .vSar t _ _ _ a => (2, v.map1 t.width (vSarOf t a.toNat))
  | .vEq t _ _ _ _ => (2, v.compare t (vEqOf t))
  | .vNe t _ _ _ _ => (2, v.compare t (fun x y => !vEqOf t x y))
  | .vLt t _ _ _ _ => (2, v.compare t (vLtOf t))
  | .vLe t _ _ _ _ => (2, v.compare t (vLeOf t))
  | .vSel t _ _ _ _ => (2, v.select t.width)
  | .vCvt t _ _ _ mode u => (4, v.convert t u mode)
  | .vCvtSr t _ _ _ _ => (4, v.convertSr t)
  | .vQuant _ _ mode target => (6, v.quantise mode target)
  | .vHash _ _ _ _ => (3, v.hash)
  | .vScan t _ _ _ _ seg op excl => (8, v.scan t seg op excl)
  | .vRed t _ _ _ op => (8, v.reduce t op)
  | .vPerm t _ _ _ _ => (4, v.permute t)
  | .vBcast t _ _ _ g => (4, v.broadcast t g.toNat)
  | .vWiden t _ _ _ => (2, v.widen t)
  | .vNarrow t _ _ _ => (2, v.narrow t)
  | _ => (0, [])

/-- The last quarter of a V instruction has been read (t_last is this cycle). -/
def State.finishV (s : State) (v : VOp) : State :=
  match v.i with
  | .vLd t _ _ _ off => s.after 2 rankSample (.op (.vectorLoadSample v.o (v.loadOf .ld t off)))
  | .vLdS t _ _ _ off => s.after 2 rankSample (.op (.vectorLoadSample v.o (v.loadOf .lds t off)))
  | .vLdt t _ _ _ off => s.after 2 rankSample (.op (.vectorLoadSample v.o (v.loadOf .ldt t off)))
  | .vSt t _ _ _ off =>
    let n := v.count t.width
    s.after 3 (rankPerform unitV) (.op (.vectorStorePerform v.o (v.access off)
      (cellsOf t.width 0 (v.active t.width n) (v.elems t.width v.vs))))
  | .vLdz _ _ _ z g => s.after 1 rankSample (.micro (.ldzRead v.o v.dst z.toNat g.toNat 4 (v.active 4 1024)))
  | _ =>
    let r := v.results
    r.2.foldl (fun t w => t.after r.1 rankLand (.op (.resultLanding v.o w))) s

/-- One quarter cycle of the context's V instruction. -/
def State.quarter (s : State) (k : Nat) : State :=
  match (s.ctxAt k).vop with
  | none => s
  | some v =>
    let s := s.countQuarter k v
    let v := s.readQuarter k v
    if v.quarter < v.quarters then
      (s.modCtx k (fun c => { c with vop := some v })).after 1 rankSample (.micro (.quarter k))
    else (s.modCtx k (fun c => { c with vop := none })).finishV v

/-- The V instruction starts in its issue cycle: the datapath is occupied through t_last (R57). -/
def State.vStart (s : State) (k : Nat) (v : VOp) : State :=
  ((s.modCore (coreOf k) (fun c => { c with vFree := s.now + v.quarters, vCtx := k })).modCtx k
    (fun c => { c with vop := some v })).quarter k

/-- The accumulator rows of `v.ldz`, read at t_last + 1 (R180). -/
def State.ldzRead (s : State) (o : Origin) (vd z g : Nat) (active : List Bool) : State :=
  let s := s.countPool o.ctx ((s.ctxAt o.ctx).zBase z + 4096 * g) 4096
  let bs := s.poolRead (coreOf o.ctx) ((s.ctxAt o.ctx).zBase z + 4096 * g) 4096
  (s.after 4 rankLand (.op (.resultLanding o (.vec vd (cellsOf 4 0 active (elemsOf 4 1024 bs)))))).touch o.ctx

/-! ### The V slots -/

/-- `v.nop` (R53): it passes in an occupied cycle too (log 115). -/
def execVNop (s : State) : Out := .next s

def execVAdd (t : ElemType) (q : BitVec 2) (vd vs vt : BitVec 6) (s : State) : Out :=
  vPlain s (.vAdd t q vd vs vt) q vd vs vt

def execVSub (t : ElemType) (q : BitVec 2) (vd vs vt : BitVec 6) (s : State) : Out :=
  vPlain s (.vSub t q vd vs vt) q vd vs vt

def execVMul (t : ElemType) (q : BitVec 2) (vd vs vt : BitVec 6) (s : State) : Out :=
  vPlain s (.vMul t q vd vs vt) q vd vs vt

def execVFma (t : ElemType) (q : BitVec 2) (vd vs vt : BitVec 6) (s : State) : Out :=
  vPlain s (.vFma t q vd vs vt) q vd vs vt

def execVMin (t : ElemType) (q : BitVec 2) (vd vs vt : BitVec 6) (s : State) : Out :=
  vPlain s (.vMin t q vd vs vt) q vd vs vt

def execVMax (t : ElemType) (q : BitVec 2) (vd vs vt : BitVec 6) (s : State) : Out :=
  vPlain s (.vMax t q vd vs vt) q vd vs vt

def execVAbs (t : ElemType) (q : BitVec 2) (vd vs : BitVec 6) (s : State) : Out :=
  vPlain s (.vAbs t q vd vs) q vd vs 0

def execVNeg (t : ElemType) (q : BitVec 2) (vd vs : BitVec 6) (s : State) : Out :=
  vPlain s (.vNeg t q vd vs) q vd vs 0

def execVNot (t : ElemType) (q : BitVec 2) (vd vs : BitVec 6) (s : State) : Out :=
  vPlain s (.vNot t q vd vs) q vd vs 0

def execVExp2 (t : ElemType) (q : BitVec 2) (vd vs : BitVec 6) (s : State) : Out :=
  vPlain s (.vExp2 t q vd vs) q vd vs 0

def execVRcp (t : ElemType) (q : BitVec 2) (vd vs : BitVec 6) (s : State) : Out :=
  vPlain s (.vRcp t q vd vs) q vd vs 0

def execVRsqrt (t : ElemType) (q : BitVec 2) (vd vs : BitVec 6) (s : State) : Out :=
  vPlain s (.vRsqrt t q vd vs) q vd vs 0

/-- `v.qp` reads its predicate at t (R175). -/
def execVQp (t : ElemType) (q : BitVec 2) (qd : BitVec 2) (p : BitVec 4) (s : State) : Out :=
  vToMask s (.vQp t q qd p) q qd 0 0 (s.me.pred p.toNat)

/-- `v.get` reads its l register at t (R175). -/
def execVGet (t : ElemType) (q : BitVec 2) (vd : BitVec 6) (l : BitVec 5) (s : State) : Out :=
  .next (vWithL s (.vGet t q vd l) q vd 0 l)

def execVAnd (t : ElemType) (q : BitVec 2) (vd vs vt : BitVec 6) (s : State) : Out :=
  vPlain s (.vAnd t q vd vs vt) q vd vs vt

def execVOr (t : ElemType) (q : BitVec 2) (vd vs vt : BitVec 6) (s : State) : Out :=
  vPlain s (.vOr t q vd vs vt) q vd vs vt

def execVXor (t : ElemType) (q : BitVec 2) (vd vs vt : BitVec 6) (s : State) : Out :=
  vPlain s (.vXor t q vd vs vt) q vd vs vt

def execVAndn (t : ElemType) (q : BitVec 2) (vd vs vt : BitVec 6) (s : State) : Out :=
  vPlain s (.vAndn t q vd vs vt) q vd vs vt

def execVShl (t : ElemType) (q : BitVec 2) (vd vs : BitVec 6) (amt : BitVec 6) (s : State) : Out :=
  vPlain s (.vShl t q vd vs amt) q vd vs 0

def execVShr (t : ElemType) (q : BitVec 2) (vd vs : BitVec 6) (amt : BitVec 6) (s : State) : Out :=
  vPlain s (.vShr t q vd vs amt) q vd vs 0

def execVSar (t : ElemType) (q : BitVec 2) (vd vs : BitVec 6) (amt : BitVec 6) (s : State) : Out :=
  vPlain s (.vSar t q vd vs amt) q vd vs 0

def execVEq (t : ElemType) (q : BitVec 2) (qd : BitVec 2) (vs vt : BitVec 6) (s : State) : Out :=
  vToMask s (.vEq t q qd vs vt) q qd vs vt false

def execVNe (t : ElemType) (q : BitVec 2) (qd : BitVec 2) (vs vt : BitVec 6) (s : State) : Out :=
  vToMask s (.vNe t q qd vs vt) q qd vs vt false

def execVLt (t : ElemType) (q : BitVec 2) (qd : BitVec 2) (vs vt : BitVec 6) (s : State) : Out :=
  vToMask s (.vLt t q qd vs vt) q qd vs vt false

def execVLe (t : ElemType) (q : BitVec 2) (qd : BitVec 2) (vs vt : BitVec 6) (s : State) : Out :=
  vToMask s (.vLe t q qd vs vt) q qd vs vt false

def execVSel (t : ElemType) (q : BitVec 2) (vd vs vt : BitVec 6) (s : State) : Out :=
  vPlain s (.vSel t q vd vs vt) q vd vs vt

def execVCvt (t : ElemType) (q : BitVec 2) (vd vs : BitVec 6) (mode : BitVec 3) (target : ElemType) (s : State) : Out :=
  vPlain s (.vCvt t q vd vs mode target) q vd vs 0

def execVCvtSr (t : ElemType) (q : BitVec 2) (vd vs vt : BitVec 6) (s : State) : Out :=
  vPlain s (.vCvtSr t q vd vs vt) q vd vs vt

/-- `v.quant` needs a multiple of 32 elements (R168). -/
def execVQuant (vd vs : BitVec 6) (mode : BitVec 2) (target : BitVec 4) (s : State) : Out :=
  if s.me.vl % 32 ≠ 0 then .next (s.refuse7 2) else vPlain s (.vQuant vd vs mode target) 0 vd vs 0

/-- `v.hash` reads a register pair of keys. -/
def execVHash (q : BitVec 2) (vd vs vt : BitVec 6) (s : State) : Out :=
  .next (vSlot s (.vHash q vd vs vt) q.toNat vd.toNat 0 vs.toNat 0 vt.toNat (vt.toNat + 1) 0 false)

def execVScan (t : ElemType) (q : BitVec 2) (vd vs : BitVec 6) (segq : BitVec 2) (seg : Bool) (op : BitVec 2)
    (excl : Bool) (s : State) : Out :=
  vPlain s (.vScan t q vd vs segq seg op excl) q vd vs 0

def execVRed (t : ElemType) (q : BitVec 2) (vd vs : BitVec 6) (op : BitVec 2) (s : State) : Out :=
  vPlain s (.vRed t q vd vs op) q vd vs 0

def execVPerm (t : ElemType) (q : BitVec 2) (vd vs vt : BitVec 6) (s : State) : Out :=
  vPlain s (.vPerm t q vd vs vt) q vd vs vt

def execVBcast (t : ElemType) (q : BitVec 2) (vd vs : BitVec 6) (grp : BitVec 6) (s : State) : Out :=
  vPlain s (.vBcast t q vd vs grp) q vd vs 0

def execVWiden (t : ElemType) (q : BitVec 2) (vd vs : BitVec 6) (s : State) : Out :=
  .next (vSlot s (.vWiden t q vd vs) q.toNat vd.toNat (vd.toNat + 1) vs.toNat 0 0 0 0 false)

def execVNarrow (t : ElemType) (q : BitVec 2) (vd vs : BitVec 6) (s : State) : Out :=
  .next (vSlot s (.vNarrow t q vd vs) q.toNat vd.toNat 0 vs.toNat (vs.toNat + 1) 0 0 0 false)

def execVLd (t : ElemType) (q : BitVec 2) (vd : BitVec 6) (l : BitVec 5) (off : BitVec 6) (s : State) : Out :=
  .next (vWithL s (.vLd t q vd l off) q vd 0 l)

def execVLdS (t : ElemType) (q : BitVec 2) (vd : BitVec 6) (l : BitVec 5) (off : BitVec 6) (s : State) : Out :=
  .next (vWithL s (.vLdS t q vd l off) q vd 0 l)

/-- `v.ldt` moves whole tiles of 1,024 elements (R178). -/
def execVLdt (t : ElemType) (q : BitVec 2) (vd : BitVec 6) (l : BitVec 5) (off : BitVec 6) (s : State) : Out :=
  if s.me.vl * 4 / t.width % 1024 ≠ 0 then .next (s.refuse7 3) else .next (vWithL s (.vLdt t q vd l off) q vd 0 l)

def execVSt (t : ElemType) (q : BitVec 2) (l : BitVec 5) (vs : BitVec 6) (off : BitVec 6) (s : State) : Out :=
  .next (vWithL s (.vSt t q l vs off) q 0 vs l)

def execVLdz (t : ElemType) (q : BitVec 2) (vd : BitVec 6) (z : BitVec 4) (grp : BitVec 4) (s : State) : Out :=
  vPlain s (.vLdz t q vd z grp) q vd 0 0

/-! ### Samples and performs -/

/-- The loaded elements in the order of the destination (R177, R178). -/
def arranged (l : VLoad) (xs : List Nat) : List Nat :=
  match l.kind with
  | .ldt =>
    let src := xs.toArray
    (List.range l.n).map (fun k => src.getD (1024 * (k / 1024) + 32 * (k % 32) + k / 32 % 32) 0)
  | _ => xs

/-- VECTOR_LOAD_SAMPLE: the checks, the bytes, and the write at t_last + 5, for `v.ldt` t_last + 6; a failing `v.ld.s`
writes zeros and clears its mask (R176 to R178). -/
def execVectorLoadSample (o : Origin) (l : VLoad) (s : State) : Out :=
  let r := s.readCheck o.ctx l.acc 64
  let write := fun (n : Nat) (xs : List Nat) (t : State) =>
    t.after n rankLand (.op (.resultLanding o (.vec l.vd (cellsOf l.w 0 l.active xs))))
  .next ((match r.2 with
    | none =>
      write (if l.kind == VLoadKind.ldt then 4 else 3) (arranged l (elemsOf l.w l.n (r.1.shelfBytes o.ctx l.acc))) r.1
    | some f =>
      if l.kind == VLoadKind.lds then
        (write 3 (List.replicate l.n 0) r.1).after 3 rankLand (.op (.resultLanding o (.mask l.q 0)))
      else r.1.fault o 0 f.cause (f.info l.acc.sh 0 unitV 0 0 l.acc.off)).touch o.ctx)

/-- The cells of an access of the back half, at their pool addresses. -/
def State.shelfCells (s : State) (k : Nat) (a : Access) (cells : List (Nat × Byte)) : State :=
  let base := (s.ctxAt k).accessAddr a true
  s.poolCells (coreOf k) (cells.map (fun e => (base + e.1, e.2)))

/-- VECTOR_STORE_PERFORM: the checks over the whole extent, then the bytes of the active elements (R176, R179). -/
def execVectorStorePerform (o : Origin) (acc : Access) (cells : List (Nat × Byte)) (s : State) : Out :=
  .next ((match s.writeCheck o.ctx acc 64 with
    | none => s.shelfCells o.ctx acc cells
    | some f => s.fault o 0 f.cause (f.info acc.sh 1 unitV 0 0 acc.off)).touch o.ctx)

end Sys2Proof.Machine
end

