-- ==== Sys2Proof/Machine/Cycle.lean ====
section
/-!
DEFINITION. The cycle: what is due in the next cycle, and the effects that are no row of their own.
-/

namespace Sys2Proof.Machine

/-- A loan of this device is worked on by the row of its operation, what an engine does for itself by its own steps; a peer's
request waits for its access only. -/
def State.kick (s : State) (id : Nat) : State :=
  match s.loan id with
  | none => s
  | some l =>
    match l.owner with
    | .peer _ => s
    | .job j => s.jobStep l j
    | _ => { s with loanNow := id }.next [.op (loanInstr (recOp l.raw))]

/-- A request is answered: at the loan, at the walk or at the host's port that waits for it. -/
def State.answer (s : State) (w : ReqOwner) (id : Nat) (bytes : List Byte) (bad : List Nat) (status : Nat) : State :=
  match w with
  | .loan l => s.answerLoan l id bytes bad status
  | .walk l => s.walkAnswer l id bytes
  | .host a => s.hostAnswer a id bytes bad

/-- What an engine asked for has been read or written. -/
def State.jobDone (s : State) (j : Job) (status : Nat) (bytes : List Byte) : State :=
  match j with
  | .bar2 a => s.hostWalked a status
  | .queueIndex q run => s.queueIndexed q run status bytes
  | .queueWord q run h => s.queueWorded q run h status bytes
  | .queueRecord q h => s.queueRecorded q h status bytes
  | .queueStatus q h => s.queueStatused q h
  | .queueNext q _ => s.queueNexted q
  | .imgRead id => s.sectionRead id status bytes
  | .word part st code trapped bar => s.wordWritten part st code trapped bar status
  | .save k uid => s.saveWritten k uid status
  | .restore id key lvl fn => s.restoreRead id key lvl fn status bytes
  | .report fn => s.mailEnd fn (if status = 0 then 0 else 4)
  | .image fn => s.imageRead fn status bytes

/-- Run an effect that is no row of its own; the row whose slot or engine caused it names it. -/
def runMicro (s : State) (m : Micro) : State :=
  match m with
  | .quarter k => s.quarter k
  | .ldzRead o vd z g _ active => s.ldzRead o vd z g active
  | .sstSample o d sh => s.sstSample o d sh
  | .folioHeader o load => s.folioHeader o load
  | .streamRow o i => s.streamRow o i
  | .popRow o f p => s.popRow o f p
  | .zeroZ o z => (s.zeroZ o.ctx z).touch o.ctx
  | .setChain o af pf => s.setChain o af pf
  | .sendSample o lq acc dep => s.sendSample o lq acc dep
  | .popRecv o lq acc => s.popRecv o lq acc
  | .popFwd o lq m dep => s.popFwd o lq m dep
  | .popRed o lq m acc ty dep => s.popRed o lq m acc ty dep
  | .qslApply o lq clr k => s.qslApply o lq clr k
  | .loanRecord o acc sup => s.loanRecord o acc sup
  | .spawnRead o sh idx pd => s.spawnRead o sh idx pd
  | .barrierArrive o bt bar => s.barrierArrive o bt bar
  | .dCommit cmds => s.dCommit cmds
  | .reserveDep link dep => s.commitDepart link dep
  | .invalStart o tk va => s.invalStart o tk va
  | .fenceFrom k scope => s.fenceFrom k scope
  | .shadowWrite k w => s.modCtx k (fun c => { c with shadow := c.shadow ++ [w] })
  | .window part pc w => s.setWindow part pc w
  | .mark o => s.touch o.ctx
  | .deaccess core rows => s.deaccess core rows
  | .resolve core => (coreCtxs core).foldl State.resolveCtx s
  | .mulStart m => s.mulStart m
  | .drainStart d => s.drainStart d
  | .loadStart l => s.loadStart l
  | .vStart k v => s.vStart k v
  | .kick id => s.kick id
  | .answer w id bytes bad status => s.answer w id bytes bad status
  | .ack link q => s.ack link q
  | .nack link q => s.nack link q
  | .credit link n => s.modLink link (fun l => { l with room := l.room + n })
  | .jobDone j status bytes => s.jobDone j status bytes
  | .forceRetry pc => s.forceRetry pc
  | .closeRetry k => s.closeRetry k
  | .takeover core p => s.takeover core p
  | .openDepart link => s.openDepart link
  | .startStep => s.startStep
  | .queueKick q => s.queueKick q
  | .serve => s.serve
  | .flashDone => s.flashDone
  | .mailEnd fn res => s.mailEnd fn res
  | .powerReading mw => { s with power := some mw }
  | .heatReading die md => { s with heat := sset none s.heat die (some md) }
  | .dieAnswers die answers => { s with silent := if answers then s.silent.filter (fun d => d != die) else s.silent ++ [die] }

/-- Cores with a context that is not idle. -/
def State.liveCores (s : State) : List Nat :=
  ((s.ctxs.filter (fun e => e.2.stage != .idle)).map (fun e => coreOf e.1)).eraseDups

/-- Every cycle a core resolves its deferred faults, then its selector runs. -/
def State.coreWork (s : State) (core : Nat) : List Due :=
  [⟨s.now, rankResolve, .micro (.resolve core)⟩, ⟨s.now, rankIssue, .op (.issueSelection core)⟩]

/-- What the steward samples in a cycle: the package's power every 2^17 cycles, and every 2^20 the junction temperature of each die
(spec/20_bringup_power.md R399) and whether each die answers (spec/18_integrity_repair.md R365, log 132). -/
def State.samples (s : State) : List Due :=
  let due := fun (i : Instr) => (⟨s.now, rankUntimed, .op i⟩ : Due)
  (if s.conc % 2 ^ 17 = 0 then (s.power.map (fun mw => due (.powerSample mw))).toList else []) ++
    (if s.conc % 2 ^ 20 = 0 then
      s.heat.filterMap (fun e => e.2.map (fun md => due (.temperatureSample e.1 md))) ++
        (List.range 9).map (fun d => due (.dieStatusPoll d (!s.silent.contains d)))
    else [])

/-- What the device's clocks bring in a cycle: forced refreshes and precharges still owed (R300, R304), the refresh gain (R298),
the span markers (R386), the issuer of each pseudo-channel with work (R296), before the cycle's untimed writes (R294), the open
buffers (R388), the steward's samples (R399), and last the idle timers, over which a request of the cycle prevails (R302). -/
def State.clockWork (s : State) : List Due :=
  let gain := s.conc % s.refiNow = 0
  (s.pcs.filter (fun e => !e.2.owed.isEmpty)).map (fun e => ⟨s.now, rankArrive, .micro (.forceRetry e.1)⟩) ++
    (s.ctxs.filter (fun e => !e.2.closes.isEmpty)).map (fun e => ⟨s.now, rankArrive, .micro (.closeRetry e.1)⟩) ++
    (if gain then [⟨s.now, rankArrive, .op .refreshDebtGain⟩] else []) ++
    (if s.conc % 2 ^ 16 = 0 then [⟨s.now, rankArrive, .op .spanMarkerSend⟩] else []) ++
    (s.served gain).map (fun pc => ⟨s.now, rankDepart, .op (.openSlotIssue pc)⟩) ++
    (if s.now < 65536 then [] else [⟨s.now, rankIdle, .op .selfRefreshTimer⟩]) ++ s.samples ++
    (s.links.filter (fun e => !e.2.openBuf.isEmpty)).map (fun e => ⟨s.now, rankDepart, .micro (.openDepart e.1)⟩)

/-- Where in its cycle an event from outside the device lands; an upset comes after the cycle's writes
(spec/22_programs_folios.md R407). -/
def Event.rank : Event → Nat
  | .op (.flitArrival _ _) => rankArrive
  | .op (.spanMarkerReceive _ _) => rankArrive
  | .op (.softError _) => rankUpset
  | .micro (.ack _ _) => rankArrive
  | .micro (.nack _ _) => rankArrive
  | .micro (.credit _ _) => rankArrive
  | _ => rankUntimed

/-- What an event from outside brings: of a sensor or a silent die the reading only, which the steward takes when it samples (R399,
log 132). -/
def Event.asInput : Event → Event
  | .op (.powerSample mw) => .micro (.powerReading mw)
  | .op (.temperatureSample die md) => .micro (.heatReading die md)
  | .op (.dieStatusPoll die answers) => .micro (.dieAnswers die answers)
  | e => e

/-- The next cycle begins: what is due in it becomes its work, in the order of the ranks (log 2). -/
def State.advance (s : State) : State :=
  let s := { s with now := s.now + 1 }
  let due := s.agenda.filter (fun d => decide (d.at_ ≤ s.now))
  let ins := (s.inputs.filter (fun e => decide (e.1 ≤ s.now))).map (fun e => (⟨s.now, e.2.rank, e.2.asInput⟩ : Due))
  { s with
    agenda := s.agenda.filter (fun d => decide (s.now < d.at_))
    late := s.lateFrom due
    inputs := s.inputs.filter (fun e => decide (s.now < e.1))
    todo := byRank (due ++ ins ++ s.liveCores.flatMap s.coreWork ++ s.clockWork) }

end Sys2Proof.Machine
end

