-- ==== Sys2Proof/Machine/Scalar.lean ====
section
/-!
DEFINITION. The A and B slots (spec/07_instr_scalar.md): one meaning per form over the shared readings of a source and the
shared landing of a result.
-/

namespace Sys2Proof.Machine

/-! ### Operations on values (R143 to R147) -/

def minS (x y : Reg) : Reg := if x.sle y then x else y

def maxS (x y : Reg) : Reg := if y.sle x then x else y

def minU (x y : Reg) : Reg := if x.ule y then x else y

def maxU (x y : Reg) : Reg := if y.ule x then x else y

def shlOf (x : Reg) (n : Nat) : Reg := if 64 ≤ n then 0 else x <<< n

def shrOf (x : Reg) (n : Nat) : Reg := if 64 ≤ n then 0 else x >>> n

def sarOf (x : Reg) (n : Nat) : Reg := if 64 ≤ n then (if x.msb then -1 else 0) else x.sshiftRight n

def rolOf (x : Reg) (n : Nat) : Reg := if n % 64 = 0 then x else x <<< (n % 64) ||| x >>> (64 - n % 64)

/-- Number of ones among the low `n` bits. -/
def onesOf (x : Nat) : Nat → Nat
  | 0 => 0
  | n + 1 => (if x.testBit n then 1 else 0) + onesOf x n

/-- Zeros above the highest one of the low `n` bits. -/
def zerosAbove (x : Nat) : Nat → Nat
  | 0 => 0
  | n + 1 => if x.testBit n then 0 else 1 + zerosAbove x n

def popcOf (x : Reg) : Reg := BitVec.ofNat 64 (onesOf x.toNat 64)

def clzOf (x : Reg) : Reg := BitVec.ofNat 64 (zerosAbove x.toNat 64)

def brevOf (x : Reg) : Reg := x.reverse

/-- Low bit and cut width of a field descriptor (R145). -/
def fieldLo (t : Reg) : Nat := t.toNat % 64

def fieldWidth (t : Reg) : Nat := min (t.toNat / 256 % 64 + 1) (64 - fieldLo t)

/-- The mask 2^w - 1. -/
def lowMask (w : Nat) : Reg := BitVec.ofNat 64 (2 ^ w - 1)

def bfxOf (x t : Reg) : Reg := (x >>> fieldLo t) &&& lowMask (fieldWidth t)

def bfxsOf (x t : Reg) : Reg :=
  let v := bfxOf x t
  if v.getLsbD (fieldWidth t - 1) then v ||| ~~~(lowMask (fieldWidth t)) else v

def bfiOf (old x t : Reg) : Reg :=
  let k := lowMask (fieldWidth t) <<< fieldLo t
  (old &&& ~~~k) ||| ((x <<< fieldLo t) &&& k)

def mulhOf (x y : Reg) : Reg := BitVec.ofInt 64 (x.toInt * y.toInt / 2 ^ 64)

def mulhnOf (x y : Reg) : Reg := BitVec.ofNat 64 (x.toNat * y.toNat / 2 ^ 64)

def luiOf (old : Reg) (i : BitVec 16) : Reg := (sext i <<< 16) ||| (old &&& 0xFFFF)

/-! ### Shared shapes -/

/-- x[d] := f x[s] x[t], readable from t + n. -/
def binary (st : State) (u : AB) (g : Guard) (d s t : BitVec 5) (n : Nat) (f : Reg → Reg → Reg) : Out :=
  whenGuard st g (fun st =>
    st.land u.unit n (writeX u d.toNat (f (readX u st.me s.toNat) (readX u st.me t.toNat))))

/-- x[d] := f x[s], readable from t+1. -/
def unary (st : State) (u : AB) (g : Guard) (d s : BitVec 5) (f : Reg → Reg) : Out :=
  whenGuard st g (fun st => st.land u.unit 1 (writeX u d.toNat (f (readX u st.me s.toNat))))

/-- pd := a relation, readable from t+1, in the physical predicate that pd names (R148, R151). -/
def compare (st : State) (u : AB) (g : Guard) (pd : BitVec 4) (r : Context → Bool) : Out :=
  whenGuard st g (fun st => st.land u.unit 1 (.pred (st.me.physP pd.toNat) (r st.me)))

/-- Relation of two registers. -/
def relReg (u : AB) (s t : BitVec 5) (r : Reg → Reg → Bool) (c : Context) : Bool :=
  r (readX u c s.toNat) (readX u c t.toNat)

/-- Relation of a register and an s6 immediate. -/
def relImm (u : AB) (s : BitVec 5) (i : BitVec 6) (r : Reg → Reg → Bool) (c : Context) : Bool :=
  r (readX u c s.toNat) (sext i)

/-! ### Meanings -/

/-- `a.nop`, `b.nop` (R53). -/
def execNop (_u : AB) (st : State) : Out := .next st

def execAdd (u : AB) (g : Guard) (d s t : BitVec 5) (st : State) : Out := binary st u g d s t 1 (fun x y => x + y)

def execSub (u : AB) (g : Guard) (d s t : BitVec 5) (st : State) : Out := binary st u g d s t 1 (fun x y => x - y)

def execAnd (u : AB) (g : Guard) (d s t : BitVec 5) (st : State) : Out := binary st u g d s t 1 (fun x y => x &&& y)

def execOr (u : AB) (g : Guard) (d s t : BitVec 5) (st : State) : Out := binary st u g d s t 1 (fun x y => x ||| y)

def execXor (u : AB) (g : Guard) (d s t : BitVec 5) (st : State) : Out := binary st u g d s t 1 (fun x y => x ^^^ y)

def execAndn (u : AB) (g : Guard) (d s t : BitVec 5) (st : State) : Out :=
  binary st u g d s t 1 (fun x y => x &&& ~~~y)

def execMin (u : AB) (g : Guard) (d s t : BitVec 5) (st : State) : Out := binary st u g d s t 1 minS

def execMax (u : AB) (g : Guard) (d s t : BitVec 5) (st : State) : Out := binary st u g d s t 1 maxS

def execMinn (u : AB) (g : Guard) (d s t : BitVec 5) (st : State) : Out := binary st u g d s t 1 minU

def execMaxn (u : AB) (g : Guard) (d s t : BitVec 5) (st : State) : Out := binary st u g d s t 1 maxU

/-- The register forms take the whole 64-bit amount (R144). -/
def execShl (u : AB) (g : Guard) (d s t : BitVec 5) (st : State) : Out :=
  binary st u g d s t 1 (fun x y => shlOf x y.toNat)

def execShr (u : AB) (g : Guard) (d s t : BitVec 5) (st : State) : Out :=
  binary st u g d s t 1 (fun x y => shrOf x y.toNat)

def execSar (u : AB) (g : Guard) (d s t : BitVec 5) (st : State) : Out :=
  binary st u g d s t 1 (fun x y => sarOf x y.toNat)

def execRol (u : AB) (g : Guard) (d s t : BitVec 5) (st : State) : Out :=
  binary st u g d s t 1 (fun x y => rolOf x y.toNat)

def execPopc (u : AB) (g : Guard) (d s : BitVec 5) (st : State) : Out := unary st u g d s popcOf

def execClz (u : AB) (g : Guard) (d s : BitVec 5) (st : State) : Out := unary st u g d s clzOf

def execBrev (u : AB) (g : Guard) (d s : BitVec 5) (st : State) : Out := unary st u g d s brevOf

def execBfx (u : AB) (g : Guard) (d s t : BitVec 5) (st : State) : Out := binary st u g d s t 1 bfxOf

def execBfxs (u : AB) (g : Guard) (d s t : BitVec 5) (st : State) : Out := binary st u g d s t 1 bfxsOf

/-- `bfi` reads its destination as a third source (R145). -/
def execBfi (u : AB) (g : Guard) (d s t : BitVec 5) (st : State) : Out :=
  binary st u g d s t 1 (bfiOf (readX u st.me d.toNat))

/-- Multiplies are readable from t+3 (R146). -/
def execMul (u : AB) (g : Guard) (d s t : BitVec 5) (st : State) : Out := binary st u g d s t 3 (fun x y => x * y)

def execMulh (u : AB) (g : Guard) (d s t : BitVec 5) (st : State) : Out := binary st u g d s t 3 mulhOf

def execMulhn (u : AB) (g : Guard) (d s t : BitVec 5) (st : State) : Out := binary st u g d s t 3 mulhnOf

def execEq (u : AB) (g : Guard) (pd : BitVec 4) (s t : BitVec 5) (st : State) : Out :=
  compare st u g pd (relReg u s t relEq)

def execNe (u : AB) (g : Guard) (pd : BitVec 4) (s t : BitVec 5) (st : State) : Out :=
  compare st u g pd (relReg u s t relNe)

def execLt (u : AB) (g : Guard) (pd : BitVec 4) (s t : BitVec 5) (st : State) : Out :=
  compare st u g pd (relReg u s t relLt)

def execLtn (u : AB) (g : Guard) (pd : BitVec 4) (s t : BitVec 5) (st : State) : Out :=
  compare st u g pd (relReg u s t relLtn)

def execLe (u : AB) (g : Guard) (pd : BitVec 4) (s t : BitVec 5) (st : State) : Out :=
  compare st u g pd (relReg u s t relLe)

def execLen (u : AB) (g : Guard) (pd : BitVec 4) (s t : BitVec 5) (st : State) : Out :=
  compare st u g pd (relReg u s t relLen)

/-- Predicate logic (R149). -/
def execPand (u : AB) (g : Guard) (pd ps pt : BitVec 4) (st : State) : Out :=
  compare st u g pd (fun c => c.pred ps.toNat && c.pred pt.toNat)

def execPor (u : AB) (g : Guard) (pd ps pt : BitVec 4) (st : State) : Out :=
  compare st u g pd (fun c => c.pred ps.toNat || c.pred pt.toNat)

def execPxor (u : AB) (g : Guard) (pd ps pt : BitVec 4) (st : State) : Out :=
  compare st u g pd (fun c => c.pred ps.toNat != c.pred pt.toNat)

def execPandn (u : AB) (g : Guard) (pd ps pt : BitVec 4) (st : State) : Out :=
  compare st u g pd (fun c => andNot (c.pred ps.toNat) (c.pred pt.toNat))

/-- `sel` (R150). -/
def execSel (u : AB) (g : Guard) (d s t : BitVec 5) (pn : BitVec 4) (st : State) : Out :=
  binary st u g d s t 1 (fun x y => if st.me.pred pn.toNat then x else y)

/-- `get` from the other scalar file, readable from t+2 (R152). -/
def execGetOther (u : AB) (g : Guard) (d s : BitVec 5) (st : State) : Out :=
  whenGuard st g (fun st => st.land u.unit 2 (writeX u d.toNat (readOther u st.me s.toNat)))

/-- `get` from l; a poisoned source traps precisely (R152, R30). -/
def execGetL (u : AB) (g : Guard) (d s : BitVec 5) (st : State) : Out :=
  whenGuard st g (fun st =>
    if st.me.poisonL s.toNat then st.poisoned u.unit s.toNat
    else st.land u.unit 2 (writeX u d.toNat (st.me.regL s.toNat)))

def execGetN (u : AB) (g : Guard) (d : BitVec 5) (s : BitVec 4) (st : State) : Out :=
  whenGuard st g (fun st => st.land u.unit 2 (writeX u d.toNat (st.me.regN s.toNat)))

def execGetD (u : AB) (g : Guard) (d : BitVec 5) (s : BitVec 4) (st : State) : Out :=
  whenGuard st g (fun st => st.land u.unit 2 (writeX u d.toNat (st.me.regD s.toNat)))

/-- Immediate forms (R143). -/
def execAddImm (u : AB) (g : Guard) (d s : BitVec 5) (i : BitVec 9) (st : State) : Out :=
  unary st u g d s (fun x => x + sext i)

def execAndImm (u : AB) (g : Guard) (d s : BitVec 5) (i : BitVec 9) (st : State) : Out :=
  unary st u g d s (fun x => x &&& sext i)

def execOrImm (u : AB) (g : Guard) (d s : BitVec 5) (i : BitVec 9) (st : State) : Out :=
  unary st u g d s (fun x => x ||| sext i)

def execXorImm (u : AB) (g : Guard) (d s : BitVec 5) (i : BitVec 9) (st : State) : Out :=
  unary st u g d s (fun x => x ^^^ sext i)

def execShlImm (u : AB) (g : Guard) (d s : BitVec 5) (a : BitVec 6) (st : State) : Out :=
  unary st u g d s (fun x => shlOf x a.toNat)

def execShrImm (u : AB) (g : Guard) (d s : BitVec 5) (a : BitVec 6) (st : State) : Out :=
  unary st u g d s (fun x => shrOf x a.toNat)

def execSarImm (u : AB) (g : Guard) (d s : BitVec 5) (a : BitVec 6) (st : State) : Out :=
  unary st u g d s (fun x => sarOf x a.toNat)

def execRolImm (u : AB) (g : Guard) (d s : BitVec 5) (a : BitVec 6) (st : State) : Out :=
  unary st u g d s (fun x => rolOf x a.toNat)

def execEqImm (u : AB) (g : Guard) (pd : BitVec 4) (s : BitVec 5) (i : BitVec 6) (st : State) : Out :=
  compare st u g pd (relImm u s i relEq)

def execNeImm (u : AB) (g : Guard) (pd : BitVec 4) (s : BitVec 5) (i : BitVec 6) (st : State) : Out :=
  compare st u g pd (relImm u s i relNe)

def execLtImm (u : AB) (g : Guard) (pd : BitVec 4) (s : BitVec 5) (i : BitVec 6) (st : State) : Out :=
  compare st u g pd (relImm u s i relLt)

def execLtnImm (u : AB) (g : Guard) (pd : BitVec 4) (s : BitVec 5) (i : BitVec 6) (st : State) : Out :=
  compare st u g pd (relImm u s i relLtn)

def execLeImm (u : AB) (g : Guard) (pd : BitVec 4) (s : BitVec 5) (i : BitVec 6) (st : State) : Out :=
  compare st u g pd (relImm u s i relLe)

def execLenImm (u : AB) (g : Guard) (pd : BitVec 4) (s : BitVec 5) (i : BitVec 6) (st : State) : Out :=
  compare st u g pd (relImm u s i relLen)

/-- `li`, `lui` (R147), unguarded. -/
def execLi (u : AB) (d : BitVec 5) (i : BitVec 16) (st : State) : Out :=
  .next (st.land u.unit 1 (writeX u d.toNat (sext i)))

def execLui (u : AB) (d : BitVec 5) (i : BitVec 16) (st : State) : Out :=
  .next (st.land u.unit 1 (writeX u d.toNat (luiOf (readX u st.me d.toNat) i)))

/-- `rsr`: a register whose user access is none raises the privilege trap, kind 1, in user mode (R153). -/
def execRsr (u : AB) (d : BitVec 5) (num : BitVec 10) (st : State) : Out :=
  .next
    (if st.me.sup || userReads num.toNat then
       st.land u.unit 1 (writeX u d.toNat (st.special st.cur.ctx num.toNat))
     else st.issueTrap 0x03 (infoPrivilege st.slotWord st.slotNo 1 num.toNat))

end Sys2Proof.Machine
end

