-- ==== Sys2Proof/Machine/Dispatch.lean ====
section
/-!
DEFINITION. The meaning of every instruction, one arm per constructor of `Instr`.
-/

namespace Sys2Proof.Machine

def exec (i : Instr) (s : State) : Host.Outcome State Fault Refusal :=
  match i with
  | .kTrap n => Sys2Proof.Machine.execKTrap n s
  | .kBr g off => Sys2Proof.Machine.execKBr g off s
  | .kCall g off => Sys2Proof.Machine.execKCall g off s
  | .kJr g rs off => Sys2Proof.Machine.execKJr g rs off s
  | .kRet g => Sys2Proof.Machine.execKRet g s
  | .kLoop cnt e => Sys2Proof.Machine.execKLoop cnt e s
  | .kLoopReg rs e => Sys2Proof.Machine.execKLoopReg rs e s
  | .kBrk g => Sys2Proof.Machine.execKBrk g s
  | .kRot v cnt e => Sys2Proof.Machine.execKRot v cnt e s
  | .kRotReg v rs e => Sys2Proof.Machine.execKRotReg v rs e s
  | .kHold rs => Sys2Proof.Machine.execKHold rs s
  | .kWait m => Sys2Proof.Machine.execKWait m s
  | .kArrive b bar => Sys2Proof.Machine.execKArrive b bar s
  | .kBwait b => Sys2Proof.Machine.execKBwait b s
  | .kSpawn g pd sh idx => Sys2Proof.Machine.execKSpawn g pd sh idx s
  | .kChk grp m off => Sys2Proof.Machine.execKChk grp m off s
  | .kMsr rs num => Sys2Proof.Machine.execKMsr rs num s
  | .kMrs rs num => Sys2Proof.Machine.execKMrs rs num s
  | .kInval rs tk => Sys2Proof.Machine.execKInval rs tk s
  | .kInvalAll tk => Sys2Proof.Machine.execKInvalAll tk s
  | .kMode il => Sys2Proof.Machine.execKMode il s
  | .nop u => Sys2Proof.Machine.execNop u s
  | .add u g d rs t => Sys2Proof.Machine.execAdd u g d rs t s
  | .sub u g d rs t => Sys2Proof.Machine.execSub u g d rs t s
  | .and u g d rs t => Sys2Proof.Machine.execAnd u g d rs t s
  | .or u g d rs t => Sys2Proof.Machine.execOr u g d rs t s
  | .xor u g d rs t => Sys2Proof.Machine.execXor u g d rs t s
  | .andn u g d rs t => Sys2Proof.Machine.execAndn u g d rs t s
  | .min u g d rs t => Sys2Proof.Machine.execMin u g d rs t s
  | .max u g d rs t => Sys2Proof.Machine.execMax u g d rs t s
  | .minn u g d rs t => Sys2Proof.Machine.execMinn u g d rs t s
  | .maxn u g d rs t => Sys2Proof.Machine.execMaxn u g d rs t s
  | .shl u g d rs t => Sys2Proof.Machine.execShl u g d rs t s
  | .shr u g d rs t => Sys2Proof.Machine.execShr u g d rs t s
  | .sar u g d rs t => Sys2Proof.Machine.execSar u g d rs t s
  | .rol u g d rs t => Sys2Proof.Machine.execRol u g d rs t s
  | .popc u g d rs => Sys2Proof.Machine.execPopc u g d rs s
  | .clz u g d rs => Sys2Proof.Machine.execClz u g d rs s
  | .brev u g d rs => Sys2Proof.Machine.execBrev u g d rs s
  | .bfx u g d rs t => Sys2Proof.Machine.execBfx u g d rs t s
  | .bfxs u g d rs t => Sys2Proof.Machine.execBfxs u g d rs t s
  | .bfi u g d rs t => Sys2Proof.Machine.execBfi u g d rs t s
  | .mul u g d rs t => Sys2Proof.Machine.execMul u g d rs t s
  | .mulh u g d rs t => Sys2Proof.Machine.execMulh u g d rs t s
  | .mulhn u g d rs t => Sys2Proof.Machine.execMulhn u g d rs t s
  | .eq u g pd rs t => Sys2Proof.Machine.execEq u g pd rs t s
  | .ne u g pd rs t => Sys2Proof.Machine.execNe u g pd rs t s
  | .lt u g pd rs t => Sys2Proof.Machine.execLt u g pd rs t s
  | .ltn u g pd rs t => Sys2Proof.Machine.execLtn u g pd rs t s
  | .le u g pd rs t => Sys2Proof.Machine.execLe u g pd rs t s
  | .len u g pd rs t => Sys2Proof.Machine.execLen u g pd rs t s
  | .pand u g pd ps pt => Sys2Proof.Machine.execPand u g pd ps pt s
  | .por u g pd ps pt => Sys2Proof.Machine.execPor u g pd ps pt s
  | .pxor u g pd ps pt => Sys2Proof.Machine.execPxor u g pd ps pt s
  | .pandn u g pd ps pt => Sys2Proof.Machine.execPandn u g pd ps pt s
  | .sel u g d rs t pn => Sys2Proof.Machine.execSel u g d rs t pn s
  | .getOther u g d rs => Sys2Proof.Machine.execGetOther u g d rs s
  | .getL u g d rs => Sys2Proof.Machine.execGetL u g d rs s
  | .getN u g d rs => Sys2Proof.Machine.execGetN u g d rs s
  | .getD u g d rs => Sys2Proof.Machine.execGetD u g d rs s
  | .addImm u g d rs imm => Sys2Proof.Machine.execAddImm u g d rs imm s
  | .andImm u g d rs imm => Sys2Proof.Machine.execAndImm u g d rs imm s
  | .orImm u g d rs imm => Sys2Proof.Machine.execOrImm u g d rs imm s
  | .xorImm u g d rs imm => Sys2Proof.Machine.execXorImm u g d rs imm s
  | .shlImm u g d rs amt => Sys2Proof.Machine.execShlImm u g d rs amt s
  | .shrImm u g d rs amt => Sys2Proof.Machine.execShrImm u g d rs amt s
  | .sarImm u g d rs amt => Sys2Proof.Machine.execSarImm u g d rs amt s
  | .rolImm u g d rs amt => Sys2Proof.Machine.execRolImm u g d rs amt s
  | .eqImm u g pd rs imm => Sys2Proof.Machine.execEqImm u g pd rs imm s
  | .neImm u g pd rs imm => Sys2Proof.Machine.execNeImm u g pd rs imm s
  | .ltImm u g pd rs imm => Sys2Proof.Machine.execLtImm u g pd rs imm s
  | .ltnImm u g pd rs imm => Sys2Proof.Machine.execLtnImm u g pd rs imm s
  | .leImm u g pd rs imm => Sys2Proof.Machine.execLeImm u g pd rs imm s
  | .lenImm u g pd rs imm => Sys2Proof.Machine.execLenImm u g pd rs imm s
  | .li u d imm => Sys2Proof.Machine.execLi u d imm s
  | .lui u d imm => Sys2Proof.Machine.execLui u d imm s
  | .rsr u d num => Sys2Proof.Machine.execRsr u d num s
  | .vAdd t q vd vs vt => Sys2Proof.Machine.execVAdd t q vd vs vt s
  | .vSub t q vd vs vt => Sys2Proof.Machine.execVSub t q vd vs vt s
  | .vMul t q vd vs vt => Sys2Proof.Machine.execVMul t q vd vs vt s
  | .vFma t q vd vs vt => Sys2Proof.Machine.execVFma t q vd vs vt s
  | .vMin t q vd vs vt => Sys2Proof.Machine.execVMin t q vd vs vt s
  | .vMax t q vd vs vt => Sys2Proof.Machine.execVMax t q vd vs vt s
  | .vAbs t q vd vs => Sys2Proof.Machine.execVAbs t q vd vs s
  | .vNeg t q vd vs => Sys2Proof.Machine.execVNeg t q vd vs s
  | .vNot t q vd vs => Sys2Proof.Machine.execVNot t q vd vs s
  | .vExp2 t q vd vs => Sys2Proof.Machine.execVExp2 t q vd vs s
  | .vRcp t q vd vs => Sys2Proof.Machine.execVRcp t q vd vs s
  | .vRsqrt t q vd vs => Sys2Proof.Machine.execVRsqrt t q vd vs s
  | .vQp t q qd p => Sys2Proof.Machine.execVQp t q qd p s
  | .vGet t q vd l => Sys2Proof.Machine.execVGet t q vd l s
  | .vAnd t q vd vs vt => Sys2Proof.Machine.execVAnd t q vd vs vt s
  | .vOr t q vd vs vt => Sys2Proof.Machine.execVOr t q vd vs vt s
  | .vXor t q vd vs vt => Sys2Proof.Machine.execVXor t q vd vs vt s
  | .vAndn t q vd vs vt => Sys2Proof.Machine.execVAndn t q vd vs vt s
  | .vShl t q vd vs amt => Sys2Proof.Machine.execVShl t q vd vs amt s
  | .vShr t q vd vs amt => Sys2Proof.Machine.execVShr t q vd vs amt s
  | .vSar t q vd vs amt => Sys2Proof.Machine.execVSar t q vd vs amt s
  | .vEq t q qd vs vt => Sys2Proof.Machine.execVEq t q qd vs vt s
  | .vNe t q qd vs vt => Sys2Proof.Machine.execVNe t q qd vs vt s
  | .vLt t q qd vs vt => Sys2Proof.Machine.execVLt t q qd vs vt s
  | .vLe t q qd vs vt => Sys2Proof.Machine.execVLe t q qd vs vt s
  | .vSel t q vd vs vt => Sys2Proof.Machine.execVSel t q vd vs vt s
  | .vCvt t q vd vs mode target => Sys2Proof.Machine.execVCvt t q vd vs mode target s
  | .vCvtSr t q vd vs vt => Sys2Proof.Machine.execVCvtSr t q vd vs vt s
  | .vQuant vd vs mode target => Sys2Proof.Machine.execVQuant vd vs mode target s
  | .vHash q vd vs vt => Sys2Proof.Machine.execVHash q vd vs vt s
  | .vScan t q vd vs segq seg op excl => Sys2Proof.Machine.execVScan t q vd vs segq seg op excl s
  | .vRed t q vd vs op => Sys2Proof.Machine.execVRed t q vd vs op s
  | .vPerm t q vd vs vt => Sys2Proof.Machine.execVPerm t q vd vs vt s
  | .vBcast t q vd vs grp => Sys2Proof.Machine.execVBcast t q vd vs grp s
  | .vWiden t q vd vs => Sys2Proof.Machine.execVWiden t q vd vs s
  | .vNarrow t q vd vs => Sys2Proof.Machine.execVNarrow t q vd vs s
  | .vLd t q vd l off => Sys2Proof.Machine.execVLd t q vd l off s
  | .vLdS t q vd l off => Sys2Proof.Machine.execVLdS t q vd l off s
  | .vLdt t q vd l off => Sys2Proof.Machine.execVLdt t q vd l off s
  | .vSt t q l vs off => Sys2Proof.Machine.execVSt t q l vs off s
  | .vLdz t q vd z grp => Sys2Proof.Machine.execVLdz t q vd z grp s
  | .lLd g d rs sz x off => Sys2Proof.Machine.execLLd g d rs sz x off s
  | .lSt g v rs sz off => Sys2Proof.Machine.execLSt g v rs sz off s
  | .lLdx g d rs t sz x sc => Sys2Proof.Machine.execLLdx g d rs t sz x sc s
  | .lStx g v rs t sz sc => Sys2Proof.Machine.execLStx g v rs t sz sc s
  | .lLdS g d rs sz x off => Sys2Proof.Machine.execLLdS g d rs sz x off s
  | .lAdd g d rs t => Sys2Proof.Machine.execLAdd g d rs t s
  | .lAddImm g d rs imm => Sys2Proof.Machine.execLAddImm g d rs imm s
  | .lAddImm64 g d rs imm => Sys2Proof.Machine.execLAddImm64 g d rs imm s
  | .lClaim g sh => Sys2Proof.Machine.execLClaim g sh s
  | .lClaimDecl g r sh => Sys2Proof.Machine.execLClaimDecl g r sh s
  | .lPub g sh => Sys2Proof.Machine.execLPub g sh s
  | .lDrain g sh => Sys2Proof.Machine.execLDrain g sh s
  | .lRel g sh => Sys2Proof.Machine.execLRel g sh s
  | .lRelB g sh => Sys2Proof.Machine.execLRelB g sh s
  | .lSst g d sh => Sys2Proof.Machine.execLSst g d sh s
  | .lGetA g d rs => Sys2Proof.Machine.execLGetA g d rs s
  | .lGetB g d rs => Sys2Proof.Machine.execLGetB g d rs s
  | .lGetN g d rs => Sys2Proof.Machine.execLGetN g d rs s
  | .lGetD g d rs => Sys2Proof.Machine.execLGetD g d rs s
  | .mFmt g sel word => Sys2Proof.Machine.execMFmt g sel word s
  | .mLdb g rs gen off => Sys2Proof.Machine.execMLdb g rs gen off s
  | .mLdbt g rs gen off => Sys2Proof.Machine.execMLdbt g rs gen off s
  | .mMulSet g z asrc wide a => Sys2Proof.Machine.execMMulSet g z asrc wide a s
  | .mMulAcc g z asrc wide a => Sys2Proof.Machine.execMMulAcc g z asrc wide a s
  | .mMulPch g z asrc wide a => Sys2Proof.Machine.execMMulPch g z asrc wide a s
  | .mMulPq g z asrc wide a pq => Sys2Proof.Machine.execMMulPq g z asrc wide a pq s
  | .mDrain g z l e wide pub => Sys2Proof.Machine.execMDrain g z l e wide pub s
  | .mDrainQueue g z lq e wide => Sys2Proof.Machine.execMDrainQueue g z lq e wide s
  | .mChk g z e wide => Sys2Proof.Machine.execMChk g z e wide s
  | .mZero g z => Sys2Proof.Machine.execMZero g z s
  | .mChain g af pf => Sys2Proof.Machine.execMChain g af pf s
  | .mTol g e rs => Sys2Proof.Machine.execMTol g e rs s
  | .nSend g lq rs off => Sys2Proof.Machine.execNSend g lq rs off s
  | .nRecv g lq rs off => Sys2Proof.Machine.execNRecv g lq rs off s
  | .nFwd g m lq => Sys2Proof.Machine.execNFwd g m lq s
  | .nBsend g c rs => Sys2Proof.Machine.execNBsend g c rs s
  | .nBlatch g d c => Sys2Proof.Machine.execNBlatch g d c s
  | .nQfmt g lq rs => Sys2Proof.Machine.execNQfmt g lq rs s
  | .nLoan g rs off => Sys2Proof.Machine.execNLoan g rs off s
  | .nFence g sc => Sys2Proof.Machine.execNFence g sc s
  | .nRed g m lq rs ty => Sys2Proof.Machine.execNRed g m lq rs ty s
  | .nQsl g lq clr k => Sys2Proof.Machine.execNQsl g lq clr k s
  | .nGetA g d rs => Sys2Proof.Machine.execNGetA g d rs s
  | .nGetB g d rs => Sys2Proof.Machine.execNGetB g d rs s
  | .nGetL g d rs => Sys2Proof.Machine.execNGetL g d rs s
  | .nGetD g d rs => Sys2Proof.Machine.execNGetD g d rs s
  | .dNopReserve d u f cnt => Sys2Proof.Machine.execDNopReserve d u f cnt s
  | .dGet d f => Sys2Proof.Machine.execDGet d f s
  | .dIncRow d f => Sys2Proof.Machine.execDIncRow d f s
  | .dIncBank d f => Sys2Proof.Machine.execDIncBank d f s
  | .dAct g d u f => Sys2Proof.Machine.execDAct g d u f s
  | .dPre g d u f => Sys2Proof.Machine.execDPre g d u f s
  | .dPrea g d u f => Sys2Proof.Machine.execDPrea g d u f s
  | .dRd g d rs cnt last => Sys2Proof.Machine.execDRd g d rs cnt last s
  | .dWr g d rs cnt rel => Sys2Proof.Machine.execDWr g d rs cnt rel s
  | .dRef g d u f => Sys2Proof.Machine.execDRef g d u f s
  | .dRefpb g d u f => Sys2Proof.Machine.execDRefpb g d u f s
  | .dSre g d u f => Sys2Proof.Machine.execDSre g d u f s
  | .dSrx g d u f => Sys2Proof.Machine.execDSrx g d u f s
  | .dPde g d u f => Sys2Proof.Machine.execDPde g d u f s
  | .dPdx g d u f => Sys2Proof.Machine.execDPdx g d u f s
  | .dMrs g d rs => Sys2Proof.Machine.execDMrs g d rs s
  | .dWin g d rs => Sys2Proof.Machine.execDWin g d rs s
  | .issueSelection core => Sys2Proof.Machine.execIssueSelection core s
  | .quietBoundExpiry ctx => Sys2Proof.Machine.execQuietBoundExpiry ctx s
  | .retimingRelease ctx => Sys2Proof.Machine.execRetimingRelease ctx s
  | .resultLanding o w => Sys2Proof.Machine.execResultLanding o w s
  | .shelfTransitionApply o sh tr => Sys2Proof.Machine.execShelfTransitionApply o sh tr s
  | .scalarLoadSample o acc d x spec => Sys2Proof.Machine.execScalarLoadSample o acc d x spec s
  | .scalarStorePerform o acc v => Sys2Proof.Machine.execScalarStorePerform o acc v s
  | .vectorLoadSample o l => Sys2Proof.Machine.execVectorLoadSample o l s
  | .vectorStorePerform o acc cells => Sys2Proof.Machine.execVectorStorePerform o acc cells s
  | .stationaryLoadComplete o => Sys2Proof.Machine.execStationaryLoadComplete o s
  | .arrayRowUpdate o ix => Sys2Proof.Machine.execArrayRowUpdate o ix s
  | .drainRowRead o ix => Sys2Proof.Machine.execDrainRowRead o ix s
  | .drainVerdict o => Sys2Proof.Machine.execDrainVerdict o s
  | .elementRecompute o => Sys2Proof.Machine.execElementRecompute o s
  | .drainRowWrite o ix => Sys2Proof.Machine.execDrainRowWrite o ix s
  | .drainComplete o => Sys2Proof.Machine.execDrainComplete o s
  | .commandArrival c => Sys2Proof.Machine.execCommandArrival c s
  | .readBurstLanding o j b data poison => Sys2Proof.Machine.execReadBurstLanding o j b data poison s
  | .writeBurstSample o j b => Sys2Proof.Machine.execWriteBurstSample o j b s
  | .flitDeparture link f => Sys2Proof.Machine.execFlitDeparture link f s
  | .flitArrival link f => Sys2Proof.Machine.execFlitArrival link f s
  | .replay link => Sys2Proof.Machine.execReplay link s
  | .linkDown link => Sys2Proof.Machine.execLinkDown link s
  | .receiveOrderPass link => Sys2Proof.Machine.execReceiveOrderPass link s
  | .passThrough link f => Sys2Proof.Machine.execPassThrough link f s
  | .recvShelfWrite o acc data => Sys2Proof.Machine.execRecvShelfWrite o acc data s
  | .bayLatchWrite o bay c v => Sys2Proof.Machine.execBayLatchWrite o bay c v s
  | .spanMarkerReceive link c => Sys2Proof.Machine.execSpanMarkerReceive link c s
  | .countStep slip => Sys2Proof.Machine.execCountStep slip s
  | .loanCompletion id => Sys2Proof.Machine.execLoanCompletion id s
  | .loanDelivery id => Sys2Proof.Machine.execLoanDelivery id s
  | .invalidationComplete id => Sys2Proof.Machine.execInvalidationComplete id s
  | .homeRequest p => Sys2Proof.Machine.execHomeRequest p s
  | .packetRoute p => Sys2Proof.Machine.execPacketRoute p s
  | .packetResponse p => Sys2Proof.Machine.execPacketResponse p s
  | .endToEndTimerExpiry home engine seq => Sys2Proof.Machine.execEndToEndTimerExpiry home engine seq s
  | .openSlotIssue pc => Sys2Proof.Machine.execOpenSlotIssue pc s
  | .refreshRateChange double => Sys2Proof.Machine.execRefreshRateChange double s
  | .trapEntry ctx => Sys2Proof.Machine.execTrapEntry ctx s
  | .resumptionFromRecord ctx => Sys2Proof.Machine.execResumptionFromRecord ctx s
  | .contextEnd ctx => Sys2Proof.Machine.execContextEnd ctx s
  | .contextSave ctx => Sys2Proof.Machine.execContextSave ctx s
  | .launchCheck id => Sys2Proof.Machine.execLaunchCheck id s
  | .launchStart id => Sys2Proof.Machine.execLaunchStart id s
  | .launchEnd id => Sys2Proof.Machine.execLaunchEnd id s
  | .childPlacement die => Sys2Proof.Machine.execChildPlacement die s
  | .hostMemoryRead fn off len => Sys2Proof.Machine.execHostMemoryRead fn off len s
  | .hostMemoryWrite fn off bytes ep => Sys2Proof.Machine.execHostMemoryWrite fn off bytes ep s
  | .hostFetchadd fn off size v => Sys2Proof.Machine.execHostFetchadd fn off size v s
  | .hostSwap fn off size v => Sys2Proof.Machine.execHostSwap fn off size v s
  | .hostCas fn off size cmp v => Sys2Proof.Machine.execHostCas fn off size cmp v s
  | .queueDoorbell q => Sys2Proof.Machine.execQueueDoorbell q s
  | .queuePoll q => Sys2Proof.Machine.execQueuePoll q s
  | .powerSample milliwatts => Sys2Proof.Machine.execPowerSample milliwatts s
  | .temperatureSample die millidegrees => Sys2Proof.Machine.execTemperatureSample die millidegrees s
  | .dieStatusPoll die answers => Sys2Proof.Machine.execDieStatusPoll die answers s
  | .reserveCoreTakeover core => Sys2Proof.Machine.execReserveCoreTakeover core s
  | .spareDieTakeover die => Sys2Proof.Machine.execSpareDieTakeover die s
  | .saveDeadlineExpiry die => Sys2Proof.Machine.execSaveDeadlineExpiry die s
  | .statusOverrunClear fn => Sys2Proof.Machine.execStatusOverrunClear fn s
  | .registerWrite r v => Sys2Proof.Machine.execRegisterWrite r v s
  | .softError u => Sys2Proof.Machine.execSoftError u s
  | .partitionTableWrite w => Sys2Proof.Machine.execPartitionTableWrite w s
  | .loanCopy => Sys2Proof.Machine.execLoanCopy s
  | .loanGather => Sys2Proof.Machine.execLoanGather s
  | .loanScatter => Sys2Proof.Machine.execLoanScatter s
  | .loanScatterAccumulate => Sys2Proof.Machine.execLoanScatterAccumulate s
  | .loanFill => Sys2Proof.Machine.execLoanFill s
  | .loanDeposit => Sys2Proof.Machine.execLoanDeposit s
  | .atomicAdd => Sys2Proof.Machine.execAtomicAdd s
  | .atomicMin => Sys2Proof.Machine.execAtomicMin s
  | .atomicMax => Sys2Proof.Machine.execAtomicMax s
  | .atomicAnd => Sys2Proof.Machine.execAtomicAnd s
  | .atomicOr => Sys2Proof.Machine.execAtomicOr s
  | .atomicXor => Sys2Proof.Machine.execAtomicXor s
  | .atomicSwap => Sys2Proof.Machine.execAtomicSwap s
  | .atomicCas => Sys2Proof.Machine.execAtomicCas s
  | .remotePublish => Sys2Proof.Machine.execRemotePublish s
  | .remoteBarrierArrive => Sys2Proof.Machine.execRemoteBarrierArrive s
  | .ownershipTokenAcquire => Sys2Proof.Machine.execOwnershipTokenAcquire s
  | .ownershipTokenRelease => Sys2Proof.Machine.execOwnershipTokenRelease s
  | .status => Sys2Proof.Machine.execStatus s
  | .warmStart => Sys2Proof.Machine.execWarmStart s
  | .coldStart => Sys2Proof.Machine.execColdStart s
  | .launch => Sys2Proof.Machine.execLaunch s
  | .endLaunch => Sys2Proof.Machine.execEndLaunch s
  | .preEmpt => Sys2Proof.Machine.execPreEmpt s
  | .restore => Sys2Proof.Machine.execRestore s
  | .invalidate => Sys2Proof.Machine.execInvalidate s
  | .breakpoints => Sys2Proof.Machine.execBreakpoints s
  | .hostInterrupt => Sys2Proof.Machine.execHostInterrupt s
  | .windowFigures => Sys2Proof.Machine.execWindowFigures s
  | .telemetry => Sys2Proof.Machine.execTelemetry s
  | .functionBinding => Sys2Proof.Machine.execFunctionBinding s
  | .attestation => Sys2Proof.Machine.execAttestation s
  | .imageWrite => Sys2Proof.Machine.execImageWrite s
  | .clearQuarantine => Sys2Proof.Machine.execClearQuarantine s
  | .kNop => Sys2Proof.Machine.execKNop s
  | .kQuiet => Sys2Proof.Machine.execKQuiet s
  | .kYield => Sys2Proof.Machine.execKYield s
  | .kRti => Sys2Proof.Machine.execKRti s
  | .kHalt => Sys2Proof.Machine.execKHalt s
  | .vNop => Sys2Proof.Machine.execVNop s
  | .lNop => Sys2Proof.Machine.execLNop s
  | .mNop => Sys2Proof.Machine.execMNop s
  | .nNop => Sys2Proof.Machine.execNNop s
  | .dNop => Sys2Proof.Machine.execDNop s
  | .spanMarkerSend => Sys2Proof.Machine.execSpanMarkerSend s
  | .refreshDebtGain => Sys2Proof.Machine.execRefreshDebtGain s
  | .selfRefreshTimer => Sys2Proof.Machine.execSelfRefreshTimer s
  | .powerOn => Sys2Proof.Machine.execPowerOn s
  | .pcieHotReset => Sys2Proof.Machine.execPcieHotReset s
  | .startTimeout => Sys2Proof.Machine.execStartTimeout s
  | .restartAfterFailure => Sys2Proof.Machine.execRestartAfterFailure s
  | .startLogClear => Sys2Proof.Machine.execStartLogClear s
  | .coolantFlowLost => Sys2Proof.Machine.execCoolantFlowLost s
  | .powerLoss => Sys2Proof.Machine.execPowerLoss s

end Sys2Proof.Machine
end

