-- ==== Sys2Proof/Machine/Step.lean ====
section
/-!
DEFINITION. One step of the device: the next slot of the bundle being issued, the commit of a bundle whose slots have run,
the next piece of the cycle's work, or the beginning of the next cycle.
-/

namespace Sys2Proof.Machine

/-- Run one piece of work. -/
def State.runEvent (s : State) (e : Event) : Out :=
  match e with
  | .op i => exec i s
  | .micro m => .next (runMicro s m)

/-- The next slot of the bundle being issued is fetched, decoded and run; a word without meaning takes the
illegal-instruction trap (spec/05_opcode_map.md R110). -/
def State.runSlot (s : State) : Out :=
  let w := s.cur.words.getD s.cur.idx 0
  let s1 := { s with cur := { s.cur with idx := s.cur.idx + 1 } }
  match decodeSlot s.me.vg s.me.zg w with
  | .ok i => exec i s1
  | .error e => .next (s1.illegal e)

/-- One step. -/
def step (s : State) : Out :=
  if s.cur.open_ then
    if s.cur.idx < s.cur.words.length then s.runSlot else .next s.commitBundle
  else
    match s.todo with
    | d :: r => State.runEvent { s with todo := r } d.ev
    | [] => .next s.advance

/-- The context that `withFetchWord` places: live, in supervisor mode, with every grant and eight vector and eight
accumulator granules. -/
def fetchContext (w : Word) : Context where
  stage := .run
  sup := true
  partWord := BitVec.ofNat 32 (8 + 8 * 16 + 32 * 512)
  code := [w]
  gM := true
  gD := true
  gN := true

/-- The state with one slot word placed as the only word of the bundle that context 0 of core 0 is issuing, so that the
next step fetches and runs it (log 4). -/
def State.withFetchWord (s : State) (nbits w : Nat) : State :=
  let word : Word := BitVec.ofNat 32 (w % 2 ^ min nbits 32)
  { s with
    ctxs := sset noCtx s.ctxs 0 (fetchContext word)
    cur := { open_ := true, ctx := 0, pc := 0, words := [word], idx := 0 } }

end Sys2Proof.Machine
end

