-- ==== Sys2Proof/Safety.lean ====
section
/-!
DEFINITION. What counts as a safe step: one that has a next state.
-/

namespace Sys2Proof.Machine

/-- A step from this state has a next state. -/
def State.Steps (s : State) : Prop := ∃ s', step s = .next s'

end Sys2Proof.Machine
end

