-- ==== Sys2Proof/Certificates/Slice0/Obligations.lean ====
section
/-!
DEFINITION. The statements for the provers. Each says what an instruction, a row of the table or the machine does, in
terms of the spec's rules; OBLIGATIONS.json gives each its kind, its rule or its sections, and its title.
-/

open Sys2Proof Sys2Proof.Machine

/-! ### Words and decoding -/

/-- A slot word keeps every operand: the decoder reads back what the encoder wrote, with either value of S, for every
well-formed slot form whose V and Z registers exist (spec/02_bundles_and_encoding.md R47 to R50,
spec/05_opcode_map.md R107 to R115). -/
def Obligations.DecodeEncode : Prop :=
  ∀ (vg zg : Nat) (last : Bool) (i : Instr), i.unit < 8 → i.wf = true → i.missing vg zg = none →
    decodeSlot vg zg (encode last i) = .ok i

/-- A word that decodes is the one word of its instruction with its S bit: the decoded term is well-formed, names
existing registers only and encodes to the word (spec/05_opcode_map.md R107 to R115). -/
def Obligations.EncodeDecode : Prop :=
  ∀ (vg zg : Nat) (w : Word) (i : Instr), decodeSlot vg zg w = .ok i →
    i.unit < 8 ∧ i.wf = true ∧ i.missing vg zg = none ∧ encode (w.getLsbD 31) i = w

/-- Words written out from the layout tables of each unit's chapter decode to the forms they stand for. -/
def Obligations.WordsDecode : Prop :=
  decodeSlot 8 16 0x00000000 = .ok .kNop ∧
    decodeSlot 8 16 0x0107FFFD = .ok (.kBr ⟨false, 0⟩ (-3)) ∧
    decodeSlot 8 16 0x91A8C220 = .ok (.add .a ⟨true, 5⟩ 3 1 2) ∧
    decodeSlot 8 16 0xBAC82058 = .ok (.vScan .i32 2 2 1 1 true 0 false) ∧
    decodeSlot 8 16 0xD4010080 = .ok (.mMulSet ⟨false, 0⟩ 2 0 false 4) ∧
    decodeSlot 8 16 0xEA000028 = .ok (.nQsl ⟨false, 0⟩ 0 false 40) ∧
    decodeSlot 8 16 0xF1010000 = .ok (.dAct ⟨false, 0⟩ 2 0 0)

/-! ### The step -/

/-- A step runs the decoded instruction. Inside an open bundle the word at the cursor is decoded: one that decodes to
`i` makes the step `exec i` with the cursor moved past the word, and one that does not takes the illegal-instruction
trap. A row of the table that is no slot form runs from the work of its cycle. The cursor and the list of work are the
model's own (log 2; spec/02_bundles_and_encoding.md R44, R55, spec/05_opcode_map.md R110). -/
def Obligations.StepRunsInstruction : Prop :=
  ∀ (s : State),
    (∀ i, s.cur.open_ = true → s.cur.idx < s.cur.words.length →
      decodeSlot s.me.vg s.me.zg (s.cur.words.getD s.cur.idx 0) = .ok i →
      step s = exec i { s with cur := { s.cur with idx := s.cur.idx + 1 } }) ∧
    (∀ e, s.cur.open_ = true → s.cur.idx < s.cur.words.length → s.me.sup = false →
      decodeSlot s.me.vg s.me.zg (s.cur.words.getD s.cur.idx 0) = .error e →
      ∃ t, step s = .next t ∧ t.cur.open_ = false ∧ (t.ctxAt s.cur.ctx).stage = .trap ∧
        (t.ctxAt s.cur.ctx).trap.map (fun x => (x.cause, x.pc, x.info)) =
          some (1, s.cur.pc, infoIllegal (s.cur.words.getD s.cur.idx 0) s.cur.idx e)) ∧
    (∀ d r i, s.cur.open_ = false → s.todo = d :: r → d.ev = .op i → step s = exec i { s with todo := r })

/-- Work due in a later cycle comes up in that cycle: once the present cycle has no work left, the step begins the next
cycle and moves every agenda entry that is due in it to the cycle's work. A bundle whose slots have all run commits in the next
step: each effect that its slots have started joins the work of its cycle, nothing that waits is lost, and memory, the cores, the
clock and every other context stay as they are (spec/00_scope.md R4, spec/02_bundles_and_encoding.md R55; the agenda and the list
of work are the model's own, log 2). -/
def Obligations.AdvanceBringsDueWork : Prop :=
  (∀ (s : State) (d : Due), s.cur.open_ = false → s.todo = [] → d ∈ s.agenda → d.rank ∈ allRanks →
    ∃ t, step s = .next t ∧ t.now = s.now + 1 ∧ (d.at_ ≤ s.now + 1 → d ∈ t.todo) ∧
      (s.now + 1 < d.at_ → d ∈ t.agenda)) ∧
  ∀ s : State, s.cur.open_ = true → s.cur.words.length ≤ s.cur.idx →
    ∃ t, step s = .next t ∧ t.cur = {} ∧ t.now = s.now ∧ t.mem = s.mem ∧ t.cores = s.cores ∧
      (∀ d ∈ s.cur.buf, d ∈ if d.at_ ≤ s.now then t.todo else t.agenda) ∧ (∀ d ∈ s.todo, d ∈ t.todo) ∧
      (∀ d ∈ s.agenda, d ∈ t.agenda) ∧ ∀ k, k ≠ s.cur.ctx → t.ctxAt k = s.ctxAt k

/-- Every step has a next state: no form and no row of the table stops the machine. Where the spec leaves a value open
the step takes a free value (log 6). -/
def Obligations.EveryStepGoesOn : Prop := ∀ s : State, s.Steps

/-- HBM4 keeps its canonical form over every step. The form is the model's own (log 3). -/
def Obligations.MemoryStaysCanonical : Prop :=
  ∀ s t : State, Memory.wf s.mem = true → step s = .next t → Memory.wf t.mem = true

/-- After reset the device is in START (spec/20_bringup_power.md R393) with the end-to-end timer at its default of
260,000 cycles (spec/19_span_fabric.md R389). That no launch and no context runs, that no work waits and that the
memory lists nothing out of form are the model's choice of State.reset (log 3, 4). -/
def Obligations.ResetState : Prop :=
  State.reset.devState = .start ∧ State.reset.launches = [] ∧ State.reset.todo = [] ∧
    Memory.wf State.reset.mem = true ∧ State.reset.endTimer = 260000 ∧
    (∀ k, (State.reset.ctxAt k).stage = .idle)

/-! ### Registers -/

/-- R10: a0, b0 and l0 read as zero, p0 reads as 1, q0 reads as all ones; writes to them are discarded, and l0 is never
poisoned. -/
def Obligations.HardwiredRegisters : Prop :=
  ∀ (c : Context) (v : Reg) (p : Bool) (m : BitVec 8192),
    c.regA 0 = 0 ∧ c.regB 0 = 0 ∧ c.regL 0 = 0 ∧ c.pred 0 = true ∧ c.mask 0 = BitVec.allOnes 8192 ∧
      c.poisonL 0 = false ∧ c.applyWrite (.a 0 v) = c ∧ c.applyWrite (.b 0 v) = c ∧ c.applyWrite (.l 0 v p) = c ∧
      c.applyWrite (.pred 0 p) = c ∧ c.applyWrite (.mask 0 m) = c

/-- RESULT_LANDING always completes, and leaves HBM4 and every other context as it is. The named register takes the value, every
other register of its file keeps its value, and nothing else of the context or the device changes: a landing in the register
files, the predicates and masks, a special register of the context, the quiet record or a token changes that alone, one in a V
register the bytes of its cells in its core's pool alone, one in `$errw` or `$errt` that register of its core alone. a0, b0, l0,
p0 and q0 discard (O9); n0 and d0 are registers like any other. A predicate lands under the name that denotes it (R9, R10, R14,
R17, R19, R56, R129). -/
def Obligations.LandingWritesRegister : Prop :=
  ∀ (s : State) (o : Origin) (v : Reg),
    let c := s.ctxAt o.ctx
    let lands := fun (w : Write) (p : Context → Prop) => ∃ t, exec (.resultLanding o w) s = .next t ∧ p (t.ctxAt o.ctx) ∧
      t = { s with ctxs := t.ctxs } ∧ ∀ k, k ≠ o.ctx → t.ctxAt k = s.ctxAt k
    let inCore := fun (w : Write) (p : Core → Core → Prop) => ∃ t, exec (.resultLanding o w) s = .next t ∧
      p (s.coreAt (coreOf o.ctx)) (t.coreAt (coreOf o.ctx)) ∧ t = { s with cores := t.cores } ∧
      ∀ n, n ≠ coreOf o.ctx → t.coreAt n = s.coreAt n
    (∀ w, ∃ t, exec (.resultLanding o w) s = .next t ∧ t.mem = s.mem ∧ ∀ k, k ≠ o.ctx → t.ctxAt k = s.ctxAt k) ∧
    (∀ i, i ≠ 0 →
      lands (.a i v) (fun d => d = { c with ra := d.ra } ∧ d.regA i = v ∧ ∀ j, j ≠ i → d.regA j = c.regA j) ∧
      lands (.b i v) (fun d => d = { c with rb := d.rb } ∧ d.regB i = v ∧ ∀ j, j ≠ i → d.regB j = c.regB j) ∧
      (i < 32 → ∀ p, lands (.l i v p) (fun d => d = { c with rl := d.rl, lp := d.lp } ∧ d.regL i = v ∧ d.poisonL i = p ∧
        ∀ j, j ≠ i → d.regL j = c.regL j ∧ d.poisonL j = c.poisonL j))) ∧
    (∀ i,
      lands (.n i v) (fun d => d = { c with rn := d.rn } ∧ d.regN i = v ∧ ∀ j, j ≠ i → d.regN j = c.regN j) ∧
      lands (.d i v) (fun d => d = { c with rd := d.rd } ∧ d.regD i = v ∧ ∀ j, j ≠ i → d.regD j = c.regD j)) ∧
    (∀ (n : Nat) (w : Bool), n ≠ 0 → n < 16 → lands (.pred (c.physP n) w) (fun d => d = { c with preds := d.preds } ∧
      d.pred n = w ∧ ∀ m, m ≠ n → m < 16 → d.pred m = c.pred m)) ∧
    (∀ q m, q ≠ 0 → lands (.mask q m) (fun d => d = { c with masks := d.masks } ∧ d.mask q = m ∧
      ∀ j, j ≠ q → d.mask j = c.mask j)) ∧
    (∀ r cells, (cells.map (fun (e : Nat × Byte) => e.1)).Nodup →
      ∃ t, exec (.resultLanding o (.vec r cells)) s = .next t ∧ t = { s with cores := t.cores } ∧
        (∀ e ∈ cells, t.poolByte (coreOf o.ctx) (c.vBase r + e.1) = e.2) ∧
        (∀ b, (∀ e ∈ cells, b ≠ c.vBase r + e.1) → t.poolByte (coreOf o.ctx) b = s.poolByte (coreOf o.ctx) b) ∧
        ∀ n b, n ≠ coreOf o.ctx → t.poolByte n b = s.poolByte n b) ∧
    lands (.spec 0x008 v) (fun d => d = { c with
      vl := if v.toNat = 0 then 1 else if 2048 < v.toNat then 2048 else v.toNat }) ∧
    lands (.spec 0x009 v) (fun d => d = { c with rrb := v.setWidth 8 }) ∧
    lands (.spec 0x00A v) (fun d => d = { c with lk := v.setWidth 32 }) ∧
    lands (.spec 0x00E v) (fun d => d = { c with qmax := max (v.toNat % 65536) 1 }) ∧
    lands (.spec 0x010 v) (fun d => d = { c with tvec := d.tvec } ∧ d.tvec.toNat = v.toNat % 2 ^ 32 / 64 * 64) ∧
    lands (.spec 0x011 v) (fun d => d = { c with tpc := v.setWidth 32 }) ∧
    lands (.spec 0x012 v) (fun d => d = { c with tcause := v.setWidth 8 }) ∧
    lands (.spec 0x013 v) (fun d => d = { c with tinfo := v }) ∧
    inCore (.spec 0x018 v) (fun b d => d = { b with errw := v.setWidth 40 }) ∧
    inCore (.spec 0x019 v) (fun b d => d = { b with errt := v.setWidth 8 }) ∧
    (∀ n w, (n = 0x008 ∧ w = { c.record with vl := if v.toNat = 0 then 1 else if 2048 < v.toNat then 2048 else v.toNat }) ∨
        (n = 0x009 ∧ w = { c.record with rrb := v.setWidth 8 }) ∨ (n = 0x00A ∧ w = { c.record with lk := v.setWidth 32 }) ∨
        (n = 0x00B ∧ w = { c.record with fa := v.setWidth 32 }) ∨ (n = 0x00C ∧ w = { c.record with fb := v.setWidth 32 }) ∨
        (n = 0x00D ∧ w = { c.record with fc := v.setWidth 32 }) →
      lands (.record n v) (fun d => d = { c with record := w })) ∧
    (∀ e, e < 16 → lands (.record (0x20 + e) v) (fun d => d = { c with record := d.record } ∧
      d.record = { c.record with tol := d.record.tol } ∧ sget 0 d.record.tol e = v ∧
      ∀ j, j ≠ e → sget 0 d.record.tol j = sget 0 c.record.tol j)) ∧
    (∀ tk, lands (.token tk 1) (fun d => d = { c with toks := d.toks } ∧ d.token tk = { c.token tk with st := .busy } ∧
        ∀ j, j ≠ tk → d.token j = c.token j) ∧
      lands (.token tk 2) (fun d => d = { c with toks := d.toks } ∧ d.token tk = { c.token tk with st := .done } ∧
        ∀ j, j ≠ tk → d.token j = c.token j) ∧
      lands (.token tk 3) (fun d => d = { c with toks := d.toks } ∧ d.token tk = { c.token tk with st := .fault } ∧
        ∀ j, j ≠ tk → d.token j = c.token j) ∧
      lands (.token tk 0) (fun d => d = { c with toks := d.toks } ∧ d.token tk = {} ∧
        ∀ j, j ≠ tk → d.token j = c.token j)) ∧
    ∀ b w, lands (.barrierToken b w) (fun d => d = { c with bts := d.bts } ∧ sget 0 d.bts b = w ∧
      ∀ j, j ≠ b → sget 0 d.bts j = sget 0 c.bts j)

/-- R17: a write of x to `$vl` stores 1 when x = 0, 2,048 when x > 2,048 and x otherwise; a write to `$qmax` stores
max(x[15:0], 1); a write to `$tvec` ignores bits [5:0], which read as 0. -/
def Obligations.SpecialRegisterWrites : Prop :=
  ∀ (c : Context) (x : Reg),
    (c.applyWrite (.spec 0x008 x)).vl =
        (if x.toNat = 0 then 1 else if 2048 < x.toNat then 2048 else x.toNat) ∧
      (c.applyWrite (.spec 0x00E x)).qmax = max (x.toNat % 65536) 1 ∧
      (c.applyWrite (.spec 0x010 x)).tvec.toNat = x.toNat % 2 ^ 32 / 64 * 64

/-! ### A and B slots -/

/-- `add`, `sub`, their immediate form and the immediate loads: the exact sum or difference modulo 2^64, readable from
t+1; the multiply group writes 64 bits of the full 128-bit product, readable from t+3 (R143, R146, R147). -/
def Obligations.ScalarArithmetic : Prop :=
  ∀ (s : State) (u : AB) (g : Guard) (d x y : BitVec 5) (i : BitVec 9) (j : BitVec 16), s.me.passes g = true →
    let a := readX u s.me x.toNat
    let b := readX u s.me y.toNat
    exec (.add u g d x y) s = .next (s.land u.unit 1 (writeX u d.toNat
        (BitVec.ofNat 64 ((readX u s.me x.toNat).toNat + (readX u s.me y.toNat).toNat)))) ∧
      exec (.sub u g d x y) s = .next (s.land u.unit 1 (writeX u d.toNat
        (BitVec.ofInt 64 ((readX u s.me x.toNat).toNat - (readX u s.me y.toNat).toNat)))) ∧
      exec (.addImm u g d x i) s = .next (s.land u.unit 1 (writeX u d.toNat
        (BitVec.ofInt 64 ((readX u s.me x.toNat).toNat + i.toInt)))) ∧
      exec (.li u d j) s = .next (s.land u.unit 1 (writeX u d.toNat (BitVec.ofInt 64 j.toInt))) ∧
      exec (.lui u d j) s = .next (s.land u.unit 1 (writeX u d.toNat
        (BitVec.ofInt 64 (j.toInt * 65536 + ((readX u s.me d.toNat).toNat % 65536 : Nat))))) ∧
      (∃ v, exec (.mul u g d x y) s = .next (s.land u.unit 3 (writeX u d.toNat v)) ∧
        v.toNat = a.toNat * b.toNat % 2 ^ 64) ∧
      (∃ v, exec (.mulh u g d x y) s = .next (s.land u.unit 3 (writeX u d.toNat v)) ∧
        v.toInt = a.toInt * b.toInt / 2 ^ 64) ∧
      (∃ v, exec (.mulhn u g d x y) s = .next (s.land u.unit 3 (writeX u d.toNat v)) ∧
        v.toNat = a.toNat * b.toNat / 2 ^ 64)

/-- The bitwise forms act on each of the 64 bits, an immediate with its sign extended; the minimum and
maximum forms order their operands signed and unsigned (R143). -/
def Obligations.ScalarLogic : Prop :=
  ∀ (s : State) (u : AB) (g : Guard) (d x y : BitVec 5) (i : BitVec 9), s.me.passes g = true →
    let a := readX u s.me x.toNat
    let b := readX u s.me y.toNat
    let imm := fun (k : Nat) => i.getLsbD (if k < 9 then k else 8)
    (∃ v, exec (.and u g d x y) s = .next (s.land u.unit 1 (writeX u d.toNat v)) ∧
        ∀ k, k < 64 → v.getLsbD k = (a.getLsbD k && b.getLsbD k)) ∧
      (∃ v, exec (.or u g d x y) s = .next (s.land u.unit 1 (writeX u d.toNat v)) ∧
        ∀ k, k < 64 → v.getLsbD k = (a.getLsbD k || b.getLsbD k)) ∧
      (∃ v, exec (.xor u g d x y) s = .next (s.land u.unit 1 (writeX u d.toNat v)) ∧
        ∀ k, k < 64 → v.getLsbD k = (a.getLsbD k != b.getLsbD k)) ∧
      (∃ v, exec (.andn u g d x y) s = .next (s.land u.unit 1 (writeX u d.toNat v)) ∧
        ∀ k, k < 64 → v.getLsbD k = (a.getLsbD k && !b.getLsbD k)) ∧
      (∃ v, exec (.andImm u g d x i) s = .next (s.land u.unit 1 (writeX u d.toNat v)) ∧
        ∀ k, k < 64 → v.getLsbD k = (a.getLsbD k && imm k)) ∧
      (∃ v, exec (.orImm u g d x i) s = .next (s.land u.unit 1 (writeX u d.toNat v)) ∧
        ∀ k, k < 64 → v.getLsbD k = (a.getLsbD k || imm k)) ∧
      (∃ v, exec (.xorImm u g d x i) s = .next (s.land u.unit 1 (writeX u d.toNat v)) ∧
        ∀ k, k < 64 → v.getLsbD k = (a.getLsbD k != imm k)) ∧
      (∃ v, exec (.min u g d x y) s = .next (s.land u.unit 1 (writeX u d.toNat v)) ∧ v.toInt = min a.toInt b.toInt) ∧
      (∃ v, exec (.max u g d x y) s = .next (s.land u.unit 1 (writeX u d.toNat v)) ∧ v.toInt = max a.toInt b.toInt) ∧
      (∃ v, exec (.minn u g d x y) s = .next (s.land u.unit 1 (writeX u d.toNat v)) ∧ v.toNat = min a.toNat b.toNat) ∧
      (∃ v, exec (.maxn u g d x y) s = .next (s.land u.unit 1 (writeX u d.toNat v)) ∧ v.toNat = max a.toNat b.toNat)

/-- The shifts by a register and by an immediate: the register amount is not reduced modulo 64 except by `rol` (R144).
-/
def Obligations.ScalarShifts : Prop :=
  ∀ (s : State) (u : AB) (g : Guard) (d x y : BitVec 5) (n : BitVec 6), s.me.passes g = true →
    let a := readX u s.me x.toNat
    let b := (readX u s.me y.toNat).toNat
    let shl := fun (k : Nat) (v : Reg) => v.toNat = a.toNat * 2 ^ k % 2 ^ 64
    let shr := fun (k : Nat) (v : Reg) => v.toNat = a.toNat / 2 ^ k
    let sar := fun (k : Nat) (v : Reg) => v.toInt = a.toInt / (2 ^ k : Nat)
    let rol := fun (k : Nat) (v : Reg) => ∀ j, j < 64 → v.getLsbD ((j + k) % 64) = a.getLsbD j
    (∃ v, exec (.shl u g d x y) s = .next (s.land u.unit 1 (writeX u d.toNat v)) ∧ shl b v) ∧
      (∃ v, exec (.shr u g d x y) s = .next (s.land u.unit 1 (writeX u d.toNat v)) ∧ shr b v) ∧
      (∃ v, exec (.sar u g d x y) s = .next (s.land u.unit 1 (writeX u d.toNat v)) ∧ sar b v) ∧
      (∃ v, exec (.rol u g d x y) s = .next (s.land u.unit 1 (writeX u d.toNat v)) ∧ rol b v) ∧
      (∃ v, exec (.shlImm u g d x n) s = .next (s.land u.unit 1 (writeX u d.toNat v)) ∧ shl n.toNat v) ∧
      (∃ v, exec (.shrImm u g d x n) s = .next (s.land u.unit 1 (writeX u d.toNat v)) ∧ shr n.toNat v) ∧
      (∃ v, exec (.sarImm u g d x n) s = .next (s.land u.unit 1 (writeX u d.toNat v)) ∧ sar n.toNat v) ∧
      (∃ v, exec (.rolImm u g d x n) s = .next (s.land u.unit 1 (writeX u d.toNat v)) ∧ rol n.toNat v)

/-- The counts and the reversal (R144), and the bit-field forms: the descriptor gives lo and w, a field past bit 63 is
cut there, `bfxs` extends the cut field's top bit, and `bfi` keeps every bit of its destination outside the field
(R145). -/
def Obligations.ScalarBits : Prop :=
  ∀ (s : State) (u : AB) (g : Guard) (d x y : BitVec 5), s.me.passes g = true →
    let a := readX u s.me x.toNat
    let t := (readX u s.me y.toNat).toNat
    let lo := t % 64
    let w := min (t / 256 % 64 + 1) (64 - lo)
    (∃ v, exec (.bfx u g d x y) s = .next (s.land u.unit 1 (writeX u d.toNat v)) ∧
        v.toNat = a.toNat / 2 ^ lo % 2 ^ w) ∧
      (∃ v, exec (.bfxs u g d x y) s = .next (s.land u.unit 1 (writeX u d.toNat v)) ∧
        ∀ k, k < 64 → v.getLsbD k = a.getLsbD (lo + min k (w - 1))) ∧
      (∃ v, exec (.bfi u g d x y) s = .next (s.land u.unit 1 (writeX u d.toNat v)) ∧
        ∀ k, k < 64 → v.getLsbD k =
          if lo ≤ k ∧ k < lo + w then a.getLsbD (k - lo) else (readX u s.me d.toNat).getLsbD k) ∧
      (∃ v, exec (.popc u g d x) s = .next (s.land u.unit 1 (writeX u d.toNat v)) ∧
        v.toNat = ((List.range 64).filter (fun k => a.getLsbD k)).length) ∧
      (∃ v, exec (.clz u g d x) s = .next (s.land u.unit 1 (writeX u d.toNat v)) ∧
        v.toNat ≤ 64 ∧ a.toNat < 2 ^ (64 - v.toNat) ∧ (v.toNat < 64 → 2 ^ (63 - v.toNat) ≤ a.toNat)) ∧
      (∃ v, exec (.brev u g d x) s = .next (s.land u.unit 1 (writeX u d.toNat v)) ∧
        ∀ k, k < 64 → v.getLsbD k = a.getLsbD (63 - k))

/-- The compare forms write pd := 1 when the relation holds and 0 otherwise, with registers and with immediates
(R148). -/
def Obligations.ScalarCompares : Prop :=
  ∀ (s : State) (u : AB) (g : Guard) (pd : BitVec 4) (x y : BitVec 5) (i : BitVec 6), s.me.passes g = true →
    let a := readX u s.me x.toNat
    let b := readX u s.me y.toNat
    let c : Reg := BitVec.ofInt 64 i.toInt
    let out := fun (p : Prop) (r : Out) =>
      ∃ v, r = .next (s.land u.unit 1 (.pred (s.me.physP pd.toNat) v)) ∧ (v = true ↔ p)
    out (a = b) (exec (.eq u g pd x y) s) ∧ out (a ≠ b) (exec (.ne u g pd x y) s) ∧
      out (a.toInt < b.toInt) (exec (.lt u g pd x y) s) ∧ out (a.toNat < b.toNat) (exec (.ltn u g pd x y) s) ∧
      out (a.toInt ≤ b.toInt) (exec (.le u g pd x y) s) ∧ out (a.toNat ≤ b.toNat) (exec (.len u g pd x y) s) ∧
      out (a = c) (exec (.eqImm u g pd x i) s) ∧ out (a ≠ c) (exec (.neImm u g pd x i) s) ∧
      out (a.toInt < c.toInt) (exec (.ltImm u g pd x i) s) ∧ out (a.toNat < c.toNat) (exec (.ltnImm u g pd x i) s) ∧
      out (a.toInt ≤ c.toInt) (exec (.leImm u g pd x i) s) ∧ out (a.toNat ≤ c.toNat) (exec (.lenImm u g pd x i) s)

/-- R149 and R150: the predicate-logic forms and `sel`. -/
def Obligations.PredicateLogic : Prop :=
  ∀ (s : State) (u : AB) (g : Guard) (pd ps pt : BitVec 4) (d x y : BitVec 5), s.me.passes g = true →
    let p := s.me.pred ps.toNat
    let q := s.me.pred pt.toNat
    exec (.pand u g pd ps pt) s = .next (s.land u.unit 1 (.pred (s.me.physP pd.toNat) (p && q))) ∧
      exec (.por u g pd ps pt) s = .next (s.land u.unit 1 (.pred (s.me.physP pd.toNat) (p || q))) ∧
      exec (.pxor u g pd ps pt) s = .next (s.land u.unit 1 (.pred (s.me.physP pd.toNat) (p != q))) ∧
      exec (.pandn u g pd ps pt) s = .next (s.land u.unit 1 (.pred (s.me.physP pd.toNat) (p && !q))) ∧
      exec (.sel u g d x y ps) s = .next (s.land u.unit 1 (writeX u d.toNat
        (if p then readX u s.me x.toNat else readX u s.me y.toNat)))

/-- `get` copies a register of another file, readable from t+2; `rsr` reads a special register that its mode may read,
readable from t+1; a poisoned l source and a register that user mode may not read take their traps (R152, R153). The number of
each register of Table 05-5 reads its value, zero-extended, `$mode` with its three bits, `$conc` on a deterministic core as the
retired-bundle count, which a `k.hold` of the bundle sets (R18, R113, R127). -/
def Obligations.ScalarCopies : Prop :=
  ∀ (s : State) (u : AB) (g : Guard) (d x : BitVec 5) (y : BitVec 4) (n : BitVec 10), s.me.passes g = true →
    exec (.getOther u g d x) s = .next (s.land u.unit 2 (writeX u d.toNat
        (match u with
         | .a => s.me.regB x.toNat
         | .b => s.me.regA x.toNat))) ∧
      exec (.getN u g d y) s = .next (s.land u.unit 2 (writeX u d.toNat (s.me.regN y.toNat))) ∧
      exec (.getD u g d y) s = .next (s.land u.unit 2 (writeX u d.toNat (s.me.regD y.toNat))) ∧
      (s.me.poisonL x.toNat = false →
        exec (.getL u g d x) s = .next (s.land u.unit 2 (writeX u d.toNat (s.me.regL x.toNat)))) ∧
      (s.me.poisonL x.toNat = true →
        exec (.getL u g d x) s = .next (s.issueTrap 0x07 (infoShelf x.toNat 0 0 4 u.unit 0 0 0))) ∧
      (s.me.sup = true ∨ userReads n.toNat = true →
        exec (.rsr u d n) s = .next (s.land u.unit 1 (writeX u d.toNat (s.special s.cur.ctx n.toNat)))) ∧
      (let c := s.me
       let b := s.coreAt (coreOf s.cur.ctx)
       let reads := fun (m : Nat) (v : Reg) => n.toNat = m →
         exec (.rsr u d n) s = .next (s.land u.unit 1 (writeX u d.toNat v))
       reads 0x000 (BitVec.ofNat 64 (if b.det then s.cur.holdR.getD c.retired else s.conc)) ∧
         reads 0x001 (BitVec.ofNat 64 ((if c.il then 1 else 0) + (if c.sup then 2 else 0) + if b.det then 4 else 0)) ∧
         reads 0x002 (BitVec.ofNat 64 c.cls.toNat) ∧ reads 0x003 (BitVec.ofNat 64 c.partWord.toNat) ∧
         (∀ i, i < 4 → reads (0x004 + i) (BitVec.ofNat 64 (sget (0 : Word) c.ix i).toNat)) ∧
         reads 0x008 (BitVec.ofNat 64 c.vl) ∧ reads 0x009 (BitVec.ofNat 64 c.rrb.toNat) ∧
         reads 0x00A (BitVec.ofNat 64 c.lk.toNat) ∧ reads 0x00B (BitVec.ofNat 64 c.fa.toNat) ∧
         reads 0x00C (BitVec.ofNat 64 c.fb.toNat) ∧ reads 0x00D (BitVec.ofNat 64 c.fc.toNat) ∧
         reads 0x00E (BitVec.ofNat 64 c.qmax) ∧ (∀ i, i < 16 → reads (0x020 + i) (sget 0 c.tol i)) ∧
         (c.sup = true → reads 0x010 (BitVec.ofNat 64 c.tvec.toNat) ∧ reads 0x011 (BitVec.ofNat 64 c.tpc.toNat) ∧
           reads 0x012 (BitVec.ofNat 64 c.tcause.toNat) ∧ reads 0x013 c.tinfo ∧ reads 0x014 c.qrec ∧
           reads 0x018 (BitVec.ofNat 64 b.errw.toNat) ∧ reads 0x019 (BitVec.ofNat 64 b.errt.toNat))) ∧
      (s.me.sup = false → userReads n.toNat = false →
        exec (.rsr u d n) s = .next (s.issueTrap 0x03 (infoPrivilege s.slotWord s.slotNo 1 n.toNat)))

/-- The no-op words of the units have no effect (R53), and every guarded form of every unit whose guard fails, whose
privilege condition holds, has none (R49). That a `v.nop` needs no free V datapath, where R57 would trap another V slot, is the
model's choice (log 115). -/
def Obligations.NoEffect : Prop :=
  ∀ (s : State),
    exec .kNop s = .next s ∧ (∀ u, exec (.nop u) s = .next s) ∧ exec .vNop s = .next s ∧ exec .lNop s = .next s ∧
      exec .mNop s = .next s ∧ exec .nNop s = .next s ∧ exec .dNop s = .next s ∧
      ∀ (i : Instr) (g : Guard), i.guard = some g → s.me.passes g = false →
        privilegeOf s.me.sup s.me.gM s.me.gD s.me.gN i = none → exec i s = .next s

/-- What a slot of any unit leaves alone: no slot form writes HBM4, a pool, a pseudo-channel, an errata entry, a
barrier, another context or the clock in its issue cycle; its effects wait for the bundle's commit (R55, R59; R337).
The re-timing and quiet forms may take a pending event or a record in their own context, which releases nothing here.
-/
def Obligations.SlotFrame : Prop :=
  ∀ (s t : State) (i : Instr), i.unit < 8 → exec i s = .next t →
    t.mem = s.mem ∧ t.badCols = s.badCols ∧ t.cores = s.cores ∧ t.pcs = s.pcs ∧ t.errata = s.errata ∧ t.bars = s.bars ∧
      t.now = s.now ∧ t.todo = s.todo ∧ t.agenda = s.agenda ∧ t.launches = s.launches ∧ t.latches = s.latches ∧
      ∀ k, k ≠ s.cur.ctx → t.ctxAt k = s.ctxAt k

/-! ### K slots -/

/-- The transfers: a taken form goes to PC + 4 × sext(off), to the register or link address with bits [1:0] and bits
above 31 ignored, and a `k.call` also writes `$lk`, readable from t+1 (R51, R118 to R120). At the commit of a bundle the transfer
of its own slots comes behind those of the two bundles before it, and the next bundle is at the address that the third bundle before
it has asked for, or with no transfer due and no loop that goes on, at the bundle that follows (R63). -/
def Obligations.Transfers : Prop :=
  (∀ s : State, s.cur.open_ = true → s.cur.words.length ≤ s.cur.idx → ∃ t, step s = .next t ∧
    (let c := s.me
     let d := t.ctxAt s.cur.ctx
     d.xfers = c.xfers.drop 1 ++ [s.cur.xfer] ∧ (∀ pc, c.xfers.headD .no = .to pc → d.pc = pc) ∧
       (c.xfers.headD .no = .no → (c.endBundle s.cur.pc s.cur.brk).2 = none →
         d.pc = s.cur.pc + BitVec.ofNat 32 (4 * s.cur.words.length)))) ∧
  ∀ (s : State) (g : Guard) (off : BitVec 19) (o : BitVec 14) (p : BitVec 12) (r : BitVec 5) (grp : BitVec 3)
    (m : BitVec 4), s.me.passes g = true →
    let goes := fun (t : State) (pc : Word) => ({ t with cur := { t.cur with xfer := .to pc } } : State)
    let rel := fun (n : Int) => s.cur.pc + BitVec.ofInt 32 (4 * n)
    let link := s.me.after (s.me.after (s.me.after (s.cur.pc + BitVec.ofNat 32 (4 * s.cur.words.length))))
    exec (.kBr g off) s = .next (goes s (rel off.toInt)) ∧
      exec (.kCall g off) s = .next (goes (s.land unitK 1 (.spec 0x00A (link.setWidth 64))) (rel off.toInt)) ∧
      exec (.kJr g r o) s = .next (goes s (BitVec.ofInt 32
        (((s.me.regA r.toNat).toNat + 4 * o.toInt) / 4 * 4))) ∧
      exec (.kRet g) s = .next (goes s (BitVec.ofNat 32 (s.me.lk.toNat / 4 * 4))) ∧
      ((∃ i, i < 4 ∧ m.getLsbD i = true ∧ s.me.poisonL (4 * grp.toNat + i) = true) →
        exec (.kChk grp m p) s = .next (goes s (rel p.toInt))) ∧
      ((∀ i, i < 4 → m.getLsbD i = true → s.me.poisonL (4 * grp.toNat + i) = false) →
        exec (.kChk grp m p) s = .next s)

/-- `k.trap n` raises cause 0x15 at its bundle: no slot of the bundle takes effect, and user code stops with n in
`$tinfo` (R134; spec/17_traps_preemption.md R337); in supervisor mode the context stops for good (R344). `k.quiet` with nothing
pending and no event: the bundle goes on and takes the record at its commit; with a pending result it traps in exposed mode and
waits in interlocked mode (R34, R41, R125), and in a delay position it traps (R64). With an event pending the record is taken, no
slot of the bundle takes effect, and the first event in the order of R345 is taken: a repair or a pre-emption leaves for the save
area, a refresh-rate change or a host interrupt enters the handler (R67). The record holds the registers of the context before the
bundle, with the format writes still in their shadow, at the bundle's PC, and `$qrec` its `$conc`; the loan log and the marks of
changed shelves are empty then. A quiet bundle that issues again after a resumption keeps the record, as one of supervisor mode
does (R33 to R35). -/
def Obligations.TrapAndQuiet : Prop :=
  ∀ (s : State) (n : BitVec 8),
    let k := s.cur.ctx
    let c := s.me
    let w := c.shadowed
    let takes := fun (d : Context) =>
      let r := d.record
      r.pc = s.cur.pc ∧ r.preds = c.preds ∧ r.lk = c.lk ∧ r.loops = c.loops ∧ r.bts = c.bts ∧ r.rrb = c.rrb ∧ r.ra = c.ra ∧
        r.rb = c.rb ∧ r.rn = c.rn ∧ r.rd = c.rd ∧ r.rl = c.rl ∧ r.lp = c.lp ∧ r.vl = c.vl ∧ r.shelves = c.shelves ∧
        r.fa = w.fa ∧ r.fb = w.fb ∧ r.fc = w.fc ∧ r.tol = w.tol ∧ r.stat = c.stat ∧ r.toks = c.toks ∧ r.qmax = c.qmax ∧
        r.stamp = s.special k 0 ∧ d.qrec = s.special k 0 ∧ d.log = [] ∧ d.changed = 0
    let keeps := fun (d : Context) => d.record = c.record ∧ d.qrec = c.qrec ∧ d.log = c.log ∧ d.changed = c.changed
    let quiets := fun (d : Context) => if c.reissue then keeps d else takes d
    (c.sup = true → ∃ t, exec (.kTrap n) s = .next t ∧ t.cur = {} ∧ (t.ctxAt k).stage = .stopped ∧
      (t.ctxAt k).trap.map (fun x => (x.cause, x.pc, x.info)) = some (0x15, s.cur.pc, n.setWidth 64) ∧ t.mem = s.mem ∧
      t.agenda = s.agenda ∧ ∀ j, j ≠ k → t.ctxAt j = s.ctxAt j) ∧
    (c.inDelay = true → exec .kQuiet s = .next (s.issueTrap 0x04 (infoTiming 5 s.slotNo 0))) ∧
    (c.inDelay = false → s.pending k = false →
      (c.sup = true → exec .kQuiet s = .next { s with cur := { s.cur with quiet := true } }) ∧
      (c.sup = false →
        let goes := fun (p : State → Prop) => ∃ t, exec .kQuiet s = .next t ∧ t.cur = {} ∧ quiets (t.ctxAt k) ∧ t.mem = s.mem ∧
          t.agenda = s.agenda ∧ (∀ j, j ≠ k → t.ctxAt j = s.ctxAt j) ∧ p t
        let saves := fun (cause : Nat) (t : State) => (t.ctxAt k).stage = .saving ∧ (t.ctxAt k).saveCause = cause
        let traps := fun (cause : Nat) (info : Reg) (more : Bool) (t : State) => (t.ctxAt k).stage = .trap ∧
          (t.ctxAt k).trap = some { cause := cause, dfr := false, more := more, pc := s.cur.pc, info := info, at_ := s.now }
        let e := c.ev
        (e.repair ≠ none → goes (fun t => saves 0x23 t ∧
          (t.ctxAt k).ev = { e with repair := none, repairMore := false })) ∧
        (e.repair = none → e.preempt = true → goes (fun t => saves 0x21 t ∧
          (t.ctxAt k).ev = { e with preempt := false, preemptMore := false })) ∧
        (∀ v, e.repair = none → e.preempt = false → e.refresh = some v → goes (fun t => traps 0x22 v e.refreshMore t ∧
          (t.ctxAt k).ev = { e with refresh := none, refreshMore := false })) ∧
        ∀ v, e.repair = none → e.preempt = false → e.refresh = none → e.host = some v →
          goes (fun t => traps 0x20 (v.setWidth 64) e.hostMore t ∧
            (t.ctxAt k).ev = { e with host := none, hostMore := false }))) ∧
    (s.cur.open_ = true → s.cur.words.length ≤ s.cur.idx → ∃ t, step s = .next t ∧
      (s.cur.quiet = true → c.sup = false → quiets (t.ctxAt k) ∧ (t.ctxAt k).qcount = 1 ∧
        (c.reissue = false → ∀ l ∈ t.loans, l.owner = .context k → l.afterRec = false)) ∧
      (s.cur.quiet = true → c.sup = true → keeps (t.ctxAt k) ∧ (t.ctxAt k).qcount = 1) ∧
      (s.cur.quiet = false → keeps (t.ctxAt k) ∧ (t.ctxAt k).qcount = c.qcount + 1)) ∧
    (s.me.sup = false →
      ∃ t, exec (.kTrap n) s = .next t ∧ t.cur = {} ∧ (t.ctxAt s.cur.ctx).stage = .trap ∧
        (t.ctxAt s.cur.ctx).trap = some { cause := 0x15, dfr := false, more := false, pc := s.cur.pc,
                                          info := n.setWidth 64, at_ := s.now } ∧
        t.mem = s.mem ∧ t.agenda = s.agenda ∧ ∀ k, k ≠ s.cur.ctx → t.ctxAt k = s.ctxAt k) ∧
    (s.me.inDelay = false →
      (s.pending s.cur.ctx = false → s.me.ev = {} →
        exec .kQuiet s = .next { s with cur := { s.cur with quiet := true } }) ∧
      (s.pending s.cur.ctx = true → s.me.il = false →
        exec .kQuiet s = .next (s.issueTrap 0x04 (infoTiming 4 s.slotNo (s.concAt (s.pendingUntil s.cur.ctx))))) ∧
      (s.pending s.cur.ctx = true → s.me.il = true → exec .kQuiet s = .next { s with cur := {} }))

/-- The loop forms, by a count and by a register: an end before the next bundle is refused with detail 1; a count of 0 skips to
the bundle after the end, at any depth; then a vector rotation without all V granules is refused with detail 2, and a full stack
traps with its depth; otherwise the bundle asks for the entry (count, 0, the next bundle, the end bundle), a rotating one with its
rotation bits. `k.brk` pops the innermost entry and transfers past its end bundle; at depth 0 it traps (R121, R123, R124). -/
def Obligations.Loops : Prop :=
  ∀ (s : State) (c : BitVec 8) (n : BitVec 6) (r : BitVec 5) (e : BitVec 11) (v : Bool) (g : Guard),
    let next := s.cur.pc + BitVec.ofNat 32 (4 * s.cur.words.length)
    let stop := s.cur.pc + BitVec.ofNat 32 (4 * e.toNat)
    let starts := fun (i : Instr) (k : Word) (rot vrot : Bool) =>
      (stop.toNat < next.toNat → exec i s = .next (s.illegal { why := 7, detail := 1 })) ∧
      (next.toNat ≤ stop.toNat →
        (k = 0 → exec i s = .next { s with cur := { s.cur with xfer := .to (s.me.after stop) } }) ∧
        (k ≠ 0 → vrot = true → s.me.vg < 8 → exec i s = .next (s.illegal { why := 7, detail := 2 })) ∧
        (k ≠ 0 → (vrot = true → 8 ≤ s.me.vg) →
          (6 ≤ s.me.loops.length → exec i s = .next (s.issueTrap 0x11 (BitVec.ofNat 64 s.me.loops.length))) ∧
          (s.me.loops.length < 6 → exec i s = .next { s with cur := { s.cur with
            push := some { count := k, index := 0, start := next, stop := stop, rot := rot, vrot := vrot }
            rot := if rot then some vrot else none } })))
    let a := (s.me.regA r.toNat).setWidth 32
    starts (.kLoop c e) (c.setWidth 32) false false ∧ starts (.kLoopReg r e) a false false ∧
    starts (.kRot v n e) (n.setWidth 32) true v ∧ starts (.kRotReg v r e) a true v ∧
    (s.me.passes g = true → ∀ l r, s.me.loops = l :: r →
      exec (.kBrk g) s = .next { s with cur := { s.cur with brk := true, xfer := .to (s.me.after l.stop) } }) ∧
    (s.me.passes g = true → s.me.loops = [] → exec (.kBrk g) s = .next (s.issueTrap 0x12 0))

/-- The end-bundle rule: at the end bundle of the innermost entry a count above 1 falls by 1, its index rises by 1 and
the loop's start is next; a count of 1 pops the entry; at any other bundle the stack stands (R122). The commit of a bundle applies
it, goes to the loop's start where no transfer is due (R63), and then takes what the bundle's own form asks for: the new entry, the
pop of a `k.brk`, which the rule leaves alone, and the start of a rotation, with the laps at 0, p8 at 1 and p9 to p15 at 0 (R121,
R123, R124). -/
def Obligations.EndBundleRule : Prop :=
  (∀ s : State, s.cur.open_ = true → s.cur.words.length ≤ s.cur.idx → ∃ t, step s = .next t ∧
    (let u := s.cur
     let x := s.me.endBundle u.pc false
     let d := t.ctxAt u.ctx
     (u.brk = true → u.push = none → d.loops = s.me.loops.drop 1) ∧
       (u.brk = false → u.push = none → d.loops = x.1.loops) ∧
       (∀ l, u.brk = false → u.push = some l → d.loops = l :: x.1.loops) ∧
       (∀ pc, s.me.xfers.headD .no = .no → u.brk = false → x.2 = some pc → d.pc = pc) ∧
       (∀ v, u.rot = some v → d.plap = 0 ∧ (u.brk = false → d.vlap = if v then 0 else x.1.vlap) ∧
         d.preds.getLsbD 8 = true ∧ (∀ i, 8 < i → d.preds.getLsbD i = false) ∧
         ∀ i, u.brk = false → i < 8 → d.preds.getLsbD i = x.1.preds.getLsbD i) ∧
       (u.rot = none → u.brk = false → d.rrb = x.1.rrb ∧ d.preds = x.1.preds))) ∧
  ∀ (c : Context) (l : LoopEntry) (r : List LoopEntry) (pc : Word), c.loops = l :: r →
    (l.stop ≠ pc → c.endBundle pc false = (c, none)) ∧
    (l.stop = pc → l.count.toNat ≤ 1 → (c.endBundle pc false).1.loops = r ∧ (c.endBundle pc false).2 = none) ∧
    (l.stop = pc → 1 < l.count.toNat →
      (c.endBundle pc false).2 = some l.start ∧
      (c.endBundle pc false).1.loops = { l with count := l.count - 1, index := l.index + 1 } :: r ∧
      (l.rot = false → (c.endBundle pc false).1.preds = c.preds ∧ (c.endBundle pc false).1.rrb = c.rrb) ∧
      (l.rot = true → (c.endBundle pc false).1.plap = (c.plap + 1) % 8 ∧
        (c.endBundle pc false).1.pred 8 = true ∧
        (c.endBundle pc false).1.vlap = if l.vrot then (c.vlap + 1) % 32 else c.vlap))

/-- The re-timing points: the bundle issues once its condition holds and is held before. A `k.wait` is held while a covered token
is BUSY, traps on the lowest covered FAULT token, with its index and status, and frees the covered tokens at its commit; a `k.hold`
issues in the cycle that its register named at its presentation, traps when that has passed and is held before it, and on a
deterministic core compares it with the retired-bundle count and becomes the bundle of that number; a `k.bwait` refuses an invalid
token and an unconfigured barrier, is held while the phase is the token's and issues when it has changed; a `k.yield` waits for
each other context that is ready at its presentation, and not at all on a deterministic core. In a delay position of a taken
transfer each of them traps (R64, R126 to R130, R133, R335). That a frozen core sees the phases of its turns is the model's choice
(log 130), as is which contexts of a higher index are ready (log 113). -/
def Obligations.RetimingPoints : Prop :=
  (∀ s : State, s.cur.open_ = true → s.cur.words.length ≤ s.cur.idx → ∃ t, step s = .next t ∧
    (let c := s.me
     let d := t.ctxAt s.cur.ctx
     d.held = none ∧ d.issued = c.issued + 1 ∧ d.retired = s.cur.holdR.getD c.retired + 1 ∧
       ∀ i, i < 8 → d.token i = if s.cur.freed.getLsbD i then {} else c.token i)) ∧
  ∀ (s : State) (m : BitVec 8) (r : BitVec 5) (b : BitVec 2),
    let late := .next (s.issueTrap 0x04 (infoTiming 5 s.slotNo 0))
    (s.me.inDelay = true → exec (.kWait m) s = late ∧ exec (.kHold r) s = late ∧ exec (.kBwait b) s = late ∧
      exec .kYield s = late) ∧
    (s.me.inDelay = false →
    let core := coreOf s.cur.ctx
    let waits := fun (i : Instr) (p : Held → Prop) => ∃ t h, exec i s = .next t ∧ t.cur = {} ∧
      (t.ctxAt s.cur.ctx).held = some h ∧ p h ∧ (∀ x, s.me.held = some x → h = x) ∧ (s.me.held = none → h.t0 = s.conc) ∧
      t.mem = s.mem ∧ t.cores = s.cores ∧ ∀ k, k ≠ s.cur.ctx → t.ctxAt k = s.ctxAt k
    let covers := fun (i : Nat) (x : TokenState) => i < 8 ∧ m.getLsbD i = true ∧ (s.me.token i).st = x
    ((∃ i, covers i .busy) → waits (.kWait m) (fun _ => True)) ∧
    ((∀ i, ¬ covers i .busy) →
      (∀ i, covers i .fault → (∀ j, j < i → ¬ covers j .fault) → exec (.kWait m) s = .next (s.issueTrap
        (if (s.me.token i).status = 7 then 0x0E else 0x0D) (BitVec.ofNat 64 (i + (s.me.token i).status % 256 * 256)))) ∧
      ((∀ i, ¬ covers i .fault) →
        exec (.kWait m) s = .next { s with cur := { s.cur with freed := s.cur.freed ||| m } })) ∧
    (let h := (s.me.held.map (fun x => x.h)).getD (s.me.regA r.toNat)
     ((s.coreAt core).det = false →
      (h.toNat = s.conc → exec (.kHold r) s = .next s) ∧
      (h.toNat < s.conc → exec (.kHold r) s = .next (s.issueTrap 0x08 h)) ∧
      (s.conc < h.toNat → waits (.kHold r) (fun x => x.h = h))) ∧
     ((s.coreAt core).det = true →
      (h.toNat < s.me.retired → exec (.kHold r) s = .next (s.issueTrap 0x08 h)) ∧
      (s.me.retired ≤ h.toNat → exec (.kHold r) s = .next { s with cur := { s.cur with holdR := some h.toNat } }) ∧
      exec .kYield s = .next s)) ∧
    ((s.coreAt core).det = false →
      (s.me.held = none → s.readyOthers s.cur.ctx = [] → exec .kYield s = .next s) ∧
      (s.me.held = none → s.readyOthers s.cur.ctx ≠ [] → waits .kYield (fun x => x.others = s.readyOthers s.cur.ctx)) ∧
      ∀ x, s.me.held = some x →
        ((∀ o ∈ x.others, s.yieldedTo o = true) → exec .kYield s = .next s) ∧
        ((∃ o ∈ x.others, s.yieldedTo o = false) → waits .kYield (fun _ => True))) ∧
    (let bt := sget 0 s.me.bts b.toNat
     let key := barKey s.cur.ctx (bt.toNat % 256)
     (bt.getLsbD 16 = false → exec (.kBwait b) s = .next (s.illegal { why := 7, detail := b.toNat })) ∧
      (bt.getLsbD 16 = true →
        ((s.barrier key).expected = 0 → exec (.kBwait b) s = .next (s.illegal { why := 7, detail := bt.toNat % 256 })) ∧
        ((s.barrier key).expected ≠ 0 →
          (s.seenPhase core key ≠ BitVec.ofNat 8 (bt.toNat / 256) → exec (.kBwait b) s = .next s) ∧
          (s.seenPhase core key = BitVec.ofNat 8 (bt.toNat / 256) → waits (.kBwait b) (fun _ => True))))))

/-- Arrival and spawn: both act at t+1, at which the barrier is advanced and the token written, or the record read; an
unconfigured barrier is refused with its id. The arrival raises the count; the one that makes it the expected count
clears it and advances the phase (R129). The read of a spawn's record reserves a free entry of the die's launch pool with its 64
bytes and writes 1 to its predicate; where the 64 entries are taken it writes 0, and where the shelf does not allow the read it is a
deferred trap that reserves nothing (R28, R131). -/
def Obligations.ArriveAndSpawn : Prop :=
  (∀ (s : State) (o : Origin) (sh idx pd : Nat), pd ≠ 0 → pd < 16 →
    let acc : Access := { sh := sh, off := ((64 * idx : Nat) : Int), size := 64 }
    let die := dieOf (coreOf o.ctx)
    let c := s.ctxAt o.ctx
    let reads := fun (p : State → Prop) => ∃ t,
      step { s with cur := {}, todo := ⟨s.now, rankLand, .micro (.spawnRead o sh idx pd)⟩ :: s.todo } = .next t ∧ p t ∧
        t.mem = s.mem ∧ ∀ k, k ≠ o.ctx → t.ctxAt k = s.ctxAt k
    (∀ f, (s.readCheck o.ctx acc 64).2 = some f → c.stage = .run → reads (fun t => t.lpool = s.lpool ∧
      ((t.ctxAt o.ctx).deferred.drop c.deferred.length).map (fun d => (d.cause, d.pc)) = [(f.cause, o.pc)] ∧
      (t.ctxAt o.ctx).preds = c.preds)) ∧
    ((s.readCheck o.ctx acc 64).2 = none →
      (64 ≤ (s.poolOf die).length → reads (fun t => t.lpool = s.lpool ∧ (t.ctxAt o.ctx).preds.getLsbD pd = false)) ∧
      ((s.poolOf die).length < 64 → reads (fun t => (t.ctxAt o.ctx).preds.getLsbD pd = true ∧
        ∃ e, t.poolOf die = s.poolOf die ++ [e] ∧ e.raw = BitVec.ofNat 512 (leNat (s.shelfBytes o.ctx acc)) ∧ e.ctx = o.ctx ∧
          e.launch = c.launch ∧ e.part = c.part ∧ e.released = false ∧ (t.ctxAt o.ctx).reserved = c.reserved ++ [e.id])))) ∧
  ∀ (s : State) (g : Guard) (b : BitVec 2) (bar : BitVec 8) (pd : BitVec 4) (sh : BitVec 6) (i : BitVec 9),
    s.me.passes g = true →
    ((s.barrier (barKey s.cur.ctx bar.toNat)).expected ≠ 0 →
      exec (.kArrive b bar) s =
        .next (s.emit 1 rankLand (.micro (.barrierArrive (s.here unitK) b.toNat bar.toNat)))) ∧
    ((s.barrier (barKey s.cur.ctx bar.toNat)).expected = 0 →
      exec (.kArrive b bar) s = .next (s.illegal { why := 7, detail := bar.toNat })) ∧
    exec (.kSpawn g pd sh i) s = .next (s.emit 1 rankLand
      (.micro (.spawnRead (s.here unitK) sh.toNat i.toNat (s.me.physP pd.toNat)))) ∧
    (∀ (o : Origin) (bt n : Nat),
      let key := barKey o.ctx n
      let b := s.barrier key
      let t := s.barrierArrive o bt n
      (b.arrivals + 1 = b.expected → (t.barrier key).arrivals = 0 ∧ (t.barrier key).phase = b.phase + 1) ∧
      (b.arrivals + 1 ≠ b.expected → (t.barrier key).arrivals = b.arrivals + 1 ∧ (t.barrier key).phase = b.phase) ∧
      (t.barrier key).expected = b.expected ∧
      sget 0 (t.ctxAt o.ctx).bts bt = BitVec.ofNat 17 (n + 256 * b.phase.toNat + 65536) ∧ t.mem = s.mem ∧
      t.cores = s.cores)

/-- The privileged K forms in supervisor mode, and `k.msr` where the mode may write: each has its effect (R135 to
R140). At the commit a `k.halt` has the context end, a `k.mode` sets its mode, and a `k.rti` whose delay bundles have issued has it
return to user mode by its record. The start of an invalidation makes its token BUSY and leaves no translation of the partition that
covers the address, or none of the partition, in use; it is complete once those still pinned are free (R138). A `k.inval` on a token
that is not FREE is refused with the token's index. -/
def Obligations.PrivilegedControls : Prop :=
  (∀ s : State, s.cur.open_ = true → s.cur.words.length ≤ s.cur.idx → ∃ t, step s = .next t ∧
    (let c := s.me
     let d := t.ctxAt s.cur.ctx
     (s.cur.halt = true → d.stage = .ending ∧ d.halted = true) ∧ d.il = s.cur.il.getD c.il ∧
       (c.xfers.headD .no = .rti → s.cur.halt = false → d.stage = .resume ∧ d.sup = false) ∧
       (c.xfers.headD .no ≠ .rti → s.cur.halt = false → d.stage = c.stage ∧ d.sup = c.sup))) ∧
  (∀ (s : State) (o : Origin) (tk : Nat) (va : Option Nat), (∀ l ∈ s.loans, l.stage ≠ .walking) →
    let core := coreOf o.ctx
    let old := (s.coreAt core).cache
    let hit := fun (x : Trans1) => !x.dropped && x.part == (s.ctxAt o.ctx).part &&
      (match va with
       | none => true
       | some a => decide (x.va ≤ a) && decide (a < x.va + x.size))
    let pinned := old.filter (fun x => hit x && decide (0 < x.pins))
    ∃ t, step { s with cur := {}, todo := ⟨s.now, rankLand, .micro (.invalStart o tk va)⟩ :: s.todo } = .next t ∧
      (t.ctxAt o.ctx).token tk = { st := .busy, loan := s.nextId } ∧ (∀ x ∈ (t.coreAt core).cache, hit x = false) ∧
      (∀ x ∈ old, hit x = false → x ∈ (t.coreAt core).cache) ∧
      (∀ x ∈ pinned, { x with dropped := true } ∈ (t.coreAt core).cache) ∧
      (∃ i ∈ t.invals, i.id = s.nextId ∧ i.ctx = some (o.ctx, tk) ∧ i.waits = pinned.map (fun x => (core, x.id))) ∧
      (pinned = [] → ⟨s.now, rankUntimed, .op (.invalidationComplete s.nextId)⟩ ∈ t.todo) ∧ t.mem = s.mem ∧
      (∀ n, n ≠ core → t.coreAt n = s.coreAt n) ∧ ∀ k, k ≠ o.ctx → t.ctxAt k = s.ctxAt k) ∧
  ∀ (s : State) (r : BitVec 5) (num : BitVec 10) (tk : BitVec 3) (il : Bool), s.me.sup = true →
    exec .kRti s = .next { s with cur := { s.cur with xfer := .rti } } ∧
      exec .kHalt s = .next { s with cur := { s.cur with halt := true } } ∧
      (s.pending s.cur.ctx = false → exec (.kMode il) s = .next { s with cur := { s.cur with il := some il } }) ∧
      ((s.me.token tk.toNat).st = .free →
        exec (.kInval r tk) s = .next (s.emit 1 rankLand (.micro (.invalStart (s.here unitK) tk.toNat
          (some ((s.me.regA r.toNat).toNat % 2 ^ 48))))) ∧
        exec (.kInvalAll tk) s = .next (s.emit 1 rankLand (.micro (.invalStart (s.here unitK) tk.toNat none)))) ∧
      ((s.me.token tk.toNat).st ≠ .free →
        exec (.kInval r tk) s = .next (s.illegal { why := 7, detail := tk.toNat }) ∧
        exec (.kInvalAll tk) s = .next (s.illegal { why := 7, detail := tk.toNat })) ∧
      (msrAllowed true num.toNat = true →
        exec (.kMsr r num) s = .next (s.land unitK 1 (.spec num.toNat (s.me.regA r.toNat)))) ∧
      (8 ≤ num.toNat → num.toNat ≤ 10 →
        exec (.kMrs r num) s = .next (s.land unitK 1 (.record num.toNat (s.me.regA r.toNat)))) ∧
      (11 ≤ num.toNat → num.toNat ≤ 13 → formatInvalid ((s.me.regA r.toNat).toNat % 2 ^ 32) = false →
        exec (.kMrs r num) s = .next (s.land unitK 1 (.record num.toNat (s.me.regA r.toNat)))) ∧
      (32 ≤ num.toNat → num.toNat ≤ 47 → tolValid (s.me.regA r.toNat) = true →
        exec (.kMrs r num) s = .next (s.land unitK 1 (.record num.toNat (s.me.regA r.toNat))))

/-- The privileged forms of every unit in user mode raise the privilege trap of kind 0, whatever their guard; `k.msr`
to a register that user mode may not write raises the one of kind 1 (the kind is the model's choice, log 54), and `k.msr`
to `$vl` and `$lk` has its effect. Without their engine grants `m.zero`, `m.fmt`, `m.tol`, `n.send`, `n.recv`, `n.fwd`,
`d.act`, `d.get` and `d.pre` raise the trap of kind 2, whatever their guard; `d.mrs` and `d.win` do so in supervisor mode
without the D grant (R40, R136, R196, R216, R239). -/
def Obligations.PrivilegeTraps : Prop :=
  (∀ (s : State) (g : Guard) (r : BitVec 5) (num : BitVec 10) (tk : BitVec 3) (il : Bool) (sh : BitVec 6)
    (d : BitVec 4), s.me.sup = false →
    let trap : Out := .next (s.issueTrap 0x03 (infoPrivilege s.slotWord s.slotNo 0 0))
    exec .kRti s = trap ∧ exec .kHalt s = trap ∧ exec (.kMode il) s = trap ∧ exec (.kMrs r num) s = trap ∧
      exec (.kInval r tk) s = trap ∧ exec (.kInvalAll tk) s = trap ∧ exec (.lClaimDecl g r sh) s = trap ∧
      exec (.dMrs g d r) s = trap ∧ exec (.dWin g d r) s = trap ∧
      (num = 0x008 ∨ num = 0x00A →
        exec (.kMsr r num) s = .next (s.land unitK 1 (.spec num.toNat (s.me.regA r.toNat)))) ∧
      (num ≠ 0x008 → num ≠ 0x00A →
        exec (.kMsr r num) s = .next (s.issueTrap 0x03 (infoPrivilege s.slotWord s.slotNo 1 num.toNat))) ∧
      (∀ (z e : BitVec 4) (l : BitVec 5) (f : BitVec 5) (u : BitVec 2) (off : BitVec 10) (w : BitVec 17),
        s.me.gM = false → s.me.gN = false → s.me.gD = false →
        let kind2 : Out := .next (s.issueTrap 0x03 (infoPrivilege s.slotWord s.slotNo 2 0))
        exec (.mZero g z) s = kind2 ∧ exec (.mFmt g u w) s = kind2 ∧ exec (.mTol g e l) s = kind2 ∧
          exec (.nSend g e l off) s = kind2 ∧ exec (.nRecv g e l off) s = kind2 ∧ exec (.nFwd g e z) s = kind2 ∧
          exec (.dAct g d u f) s = kind2 ∧ exec (.dGet d f) s = kind2 ∧ exec (.dPre g d u f) s = kind2)) ∧
    ∀ (s : State) (g : Guard) (r : BitVec 5) (d : BitVec 4), s.me.sup = true → s.me.gD = false →
      exec (.dMrs g d r) s = .next (s.issueTrap 0x03 (infoPrivilege s.slotWord s.slotNo 2 0)) ∧
        exec (.dWin g d r) s = .next (s.issueTrap 0x03 (infoPrivilege s.slotWord s.slotNo 2 0))

/-! ### L slots -/

/-- Loads and stores: a form with clean address and data registers samples or performs at t+2, at its shelf and its
exact offset; the first poisoned one, address registers before the data, takes the poison-consumed trap with its number (R184 to
R187). -/
def Obligations.ScratchpadAccesses : Prop :=
  ∀ (s : State) (g : Guard) (d r x : BitVec 5) (z : BitVec 2) (b sc : Bool) (off : BitVec 6), s.me.passes g = true →
    let a := (s.me.regL r.toNat).toNat
    let at_ := fun (disp : Int) =>
      ({ sh := a / 2 ^ 26 % 64, off := (a % 2 ^ 26 : Nat) + disp, size := 2 ^ z.toNat } : Access)
    let imm : Int := off.toInt * (2 ^ z.toNat : Nat)
    let idx : Int := (s.me.regL x.toNat).toInt * (if sc then 64 else (2 ^ z.toNat : Nat))
    let load := fun (acc : Access) (x spec : Bool) => (Host.Outcome.next
      (s.emit 2 rankSample (.op (.scalarLoadSample (s.here unitL) acc d.toNat x spec))) : Out)
    let store := fun (acc : Access) => (Host.Outcome.next
      (s.emit 2 (rankPerform unitL) (.op (.scalarStorePerform (s.here unitL) acc (s.me.regL d.toNat)))) : Out)
    let clean := fun (y : BitVec 5) => s.me.poisonL y.toNat = false
    let traps := fun (y : BitVec 5) (i : Instr) => exec i s = .next (s.issueTrap 0x07 (infoShelf y.toNat 0 0 4 unitL 0 0 0))
    (clean r → exec (.lLd g d r z b off) s = load (at_ imm) b false ∧ exec (.lLdS g d r z b off) s = load (at_ imm) b true) ∧
      (clean r → clean x → exec (.lLdx g d r x z b sc) s = load (at_ idx) b false) ∧
      (clean r → clean d → exec (.lSt g d r z off) s = store (at_ imm)) ∧
      (clean r → clean x → clean d → exec (.lStx g d r x z sc) s = store (at_ idx)) ∧
      (¬ clean r → traps r (.lLd g d r z b off) ∧ traps r (.lLdS g d r z b off) ∧ traps r (.lLdx g d r x z b sc) ∧
        traps r (.lSt g d r z off) ∧ traps r (.lStx g d r x z sc)) ∧
      (clean r → ¬ clean x → traps x (.lLdx g d r x z b sc) ∧ traps x (.lStx g d r x z sc)) ∧
      (clean r → ¬ clean d → traps d (.lSt g d r z off)) ∧
      (clean r → clean x → ¬ clean d → traps d (.lStx g d r x z sc))

/-- SCALAR_LOAD_SAMPLE on a front half that may be read: the value is the little-endian number of the bytes read, with
its sign when x is set, readable two cycles on; a speculative load that fails poisons its destination instead of
trapping. The read counts each 8 bytes whose error the code corrects and changes nothing else. SCALAR_STORE_PERFORM on a back
half in FILLING: the stored bytes are the little-endian bytes of the value at the address of the access, and every other byte
of every pool and all of HBM4 keep their values (R185 to R187, R28, R354). Two things about corrected errors are the model's
choice: a read that takes any of the eight bytes counts (log 52), and the error stays stored, so that each read counts it, until the
word is written (log 28). A load that is not speculative, or a store, that fails its check is a deferred trap with the place of
the access and writes nothing: of a read the half is FULL or DRAINING, then the access lies in it, then no flag and no uncorrectable
error poisons it; of a write the half is FILLING, then the access lies in it (R28, R30, R184, R338). -/
def Obligations.LoadSamplesAndStores : Prop :=
  ∀ (s : State) (o : Origin) (acc : Access) (d : Nat) (x spec : Bool) (w : Reg),
    acc.size = 1 ∨ acc.size = 2 ∨ acc.size = 4 ∨ acc.size = 8 →
    (let e := (s.ctxAt o.ctx).shelf acc.sh
     let inside := 0 ≤ acc.off ∧ acc.off % acc.size = 0 ∧ acc.off + acc.size ≤ 64 * e.len.toNat
     let a := (s.ctxAt o.ctx).accessAddr acc false
     let bad := (∃ n ∈ (s.coreAt (coreOf o.ctx)).poolBad, 8 * n < a + acc.size ∧ a < 8 * n + 8) ∨ e.poisonAt false = true
     let front := e.stateAt false = .full ∨ e.stateAt false = .draining
     let fails := fun (i : Instr) (access : Nat) (f : ShelfFail) => (s.ctxAt o.ctx).stage = .run → ∃ t, exec i s = .next t ∧
       ((t.ctxAt o.ctx).deferred.drop (s.ctxAt o.ctx).deferred.length).map (fun y => (y.cause, y.pc, y.info)) =
         [(f.cause, o.pc, f.info acc.sh access unitL 0 0 acc.off)] ∧
       (∀ c b, t.poolByte c b = s.poolByte c b) ∧ (t.ctxAt o.ctx).rl = (s.ctxAt o.ctx).rl ∧ t.mem = s.mem ∧
       (∀ y ∈ t.agenda, y ∈ s.agenda) ∧ ∀ k, k ≠ o.ctx → t.ctxAt k = s.ctxAt k
     let reads := (s.readCheck o.ctx acc acc.size).2
     let writes := s.writeCheck o.ctx acc acc.size
     (∀ f, reads = some f → spec = false → fails (.scalarLoadSample o acc d x spec) 0 f) ∧
       (∀ f, writes = some f → fails (.scalarStorePerform o acc w) 1 f) ∧
       (¬ front → reads.map (fun f => f.cause) = some 0x05) ∧
       (front → ¬ inside → reads.map (fun f => f.cause) = some 0x06) ∧
       (front → inside → bad → reads.map (fun f => f.cause) = some 0x07) ∧ (front → inside → ¬ bad → reads = none) ∧
       (e.stateAt true ≠ .filling → writes.map (fun f => f.cause) = some 0x05) ∧
       (e.stateAt true = .filling → ¬ inside → writes.map (fun f => f.cause) = some 0x06) ∧
       (e.stateAt true = .filling → inside → writes = none)) ∧
    ((s.readCheck o.ctx acc acc.size).2 = none →
      let bs := s.shelfBytes o.ctx acc
      let a := (s.ctxAt o.ctx).accessAddr acc false
      let core := coreOf o.ctx
      ∃ (v : Reg) (u : State), exec (.scalarLoadSample o acc d x spec) s =
          .next ((u.after 2 rankLand (.op (.resultLanding o (.l d v false)))).touch o.ctx) ∧
        (x = false → v.toNat = leNat bs) ∧
        (x = true → v.toInt = if 2 ^ (8 * acc.size - 1) ≤ leNat bs then (leNat bs : Int) - (2 ^ (8 * acc.size) : Nat)
          else leNat bs) ∧
        u = { s with cores := u.cores } ∧ (∀ c b, u.poolByte c b = s.poolByte c b) ∧
        (u.coreAt core).corrected = (s.coreAt core).corrected +
          ((s.coreAt core).poolSoft.filter (fun n => decide (8 * n < a + acc.size) && decide (a < 8 * n + 8))).length) ∧
    (∀ f, (s.readCheck o.ctx acc acc.size).2 = some f → spec = true →
      exec (.scalarLoadSample o acc d x spec) s = .next
        (((s.readCheck o.ctx acc acc.size).1.after 2 rankLand (.op (.resultLanding o (.l d 0 true)))).touch o.ctx)) ∧
    (s.writeCheck o.ctx acc acc.size = none →
      let a := (s.ctxAt o.ctx).accessAddr acc true
      ∃ t, exec (.scalarStorePerform o acc w) s = .next t ∧
        (∀ i, i < acc.size → t.poolByte (coreOf o.ctx) (a + i) = BitVec.ofNat 8 (w.toNat / 256 ^ i)) ∧
        (∀ b, b < a ∨ a + acc.size ≤ b → t.poolByte (coreOf o.ctx) b = s.poolByte (coreOf o.ctx) b) ∧
        (∀ c b, c ≠ coreOf o.ctx → t.poolByte c b = s.poolByte c b) ∧ t.mem = s.mem ∧
        ∀ k, k ≠ o.ctx → t.ctxAt k = s.ctxAt k)

/-- Address arithmetic, register copies, shelf transitions and the descriptor sample: each names its value or its
transition and its cycle; a declaration from a poisoned register traps (R188 to R194). The sample takes the descriptor as it stood
before every transition of its cycle, as the word of Table 01-6, 0 for an undeclared shelf, readable two cycles later (R29, R194). -/
def Obligations.AddressesAndShelves : Prop :=
  (∀ (s : State) (o : Origin) (d sh : Nat), (s.ctxAt o.ctx).older = [] →
    let c := s.ctxAt o.ctx
    let samples := fun (e : Shelf) => ∃ t v,
      step { s with cur := {}, todo := ⟨s.now, rankSample, .micro (.sstSample o d sh)⟩ :: s.todo } = .next t ∧
        ⟨s.now + 2, rankLand, .op (.resultLanding o (.l d v false))⟩ ∈ t.agenda ∧ (e.len = 0 → v = 0) ∧
        (e.len ≠ 0 → v.toNat = e.base.toNat + e.len.toNat * 2 ^ 16 + (if e.dbl then 2 ^ 32 else 0) + (if e.fh then 2 ^ 33 else 0) +
          e.fs.code * 2 ^ 34 + e.bs.code * 2 ^ 36 + (if e.fp then 2 ^ 38 else 0) + if e.bp then 2 ^ 39 else 0) ∧
        t.mem = s.mem ∧ t.cores = s.cores ∧ (t.ctxAt o.ctx).shelves = c.shelves ∧ ∀ k, k ≠ o.ctx → t.ctxAt k = s.ctxAt k
    ((∀ e ∈ c.was, e.1 ≠ s.now ∨ e.2.1 ≠ sh) → samples (c.shelf sh)) ∧
    ∀ e, c.was.filter (fun e => e.1 == s.now && e.2.1 == sh) = [e] → samples e.2.2) ∧
  ∀ (s : State) (g : Guard) (d r x : BitVec 5) (i : BitVec 7) (n : BitVec 4) (sh : BitVec 6), s.me.passes g = true →
    let l := fun (w : Write) (k : Nat) => (Host.Outcome.next (s.land unitL k w) : Out)
    let shelf := fun (t : Trans) => (Host.Outcome.next
      (s.emit 2 (rankShelf unitL) (.op (.shelfTransitionApply (s.here unitL) sh.toNat t))) : Out)
    exec (.lAdd g d r x) s = l (.l d.toNat (s.me.regL r.toNat + s.me.regL x.toNat)
        (s.me.poisonL r.toNat || s.me.poisonL x.toNat)) 1 ∧
      exec (.lAddImm g d r i) s = l (.l d.toNat
        (BitVec.ofInt 64 ((s.me.regL r.toNat).toNat + i.toInt)) (s.me.poisonL r.toNat)) 1 ∧
      exec (.lAddImm64 g d r i) s = l (.l d.toNat
        (BitVec.ofInt 64 ((s.me.regL r.toNat).toNat + 64 * i.toInt)) (s.me.poisonL r.toNat)) 1 ∧
      exec (.lGetA g d r) s = l (.l d.toNat (s.me.regA r.toNat) false) 2 ∧
      exec (.lGetB g d r) s = l (.l d.toNat (s.me.regB r.toNat) false) 2 ∧
      exec (.lGetN g d n) s = l (.l d.toNat (s.me.regN n.toNat) false) 2 ∧
      exec (.lGetD g d n) s = l (.l d.toNat (s.me.regD n.toNat) false) 2 ∧
      exec (.lClaim g sh) s = shelf .claim ∧ exec (.lPub g sh) s = shelf .pub ∧ exec (.lDrain g sh) s = shelf .drain ∧
      exec (.lRel g sh) s = shelf .rel ∧ exec (.lRelB g sh) s = shelf .relB ∧
      exec (.lSst g d sh) s = .next (s.emit 2 rankSample (.micro (.sstSample (s.here unitL) d.toNat sh.toNat))) ∧
      (s.me.sup = true → s.me.poisonL r.toNat = false →
        exec (.lClaimDecl g r sh) s = shelf (.decl (s.me.regL r.toNat))) ∧
      (s.me.sup = true → s.me.poisonL r.toNat = true →
        exec (.lClaimDecl g r sh) s = .next (s.issueTrap 0x07 (infoShelf r.toNat 0 0 4 unitL 0 0 0)))

/-- SHELF_TRANSITION_APPLY on a shelf of a running context (R190 to R193, Table 09-2). A single declared shelf walks EMPTY,
FILLING, FULL, DRAINING, EMPTY, each transition in its state only. On a double shelf a claim and a rel.b act on the back
half, a drain and a rel on the front half, and a publish exchanges the halves. A half that becomes EMPTY loses its poison. A
declaration of a shelf whose halves are EMPTY writes the descriptor given, where it fits. The end of a read-out empties the
half that it named, if that half is DRAINING. A transition in another state, or of an undeclared shelf, is a deferred
shelf-state trap, a declaration that does not fit a shelf-range trap; the descriptor then stands. Every other shelf, every
other context and memory stand. -/
def Obligations.ShelfTransitions : Prop :=
  ∀ (s : State) (o : Origin) (sh : Nat), (s.ctxAt o.ctx).stage = .run →
    let c := s.ctxAt o.ctx
    let d := c.shelf sh
    let frame := fun (u : State) => (∀ j, j ≠ sh → (u.ctxAt o.ctx).shelf j = c.shelf j) ∧
      (∀ k, k ≠ o.ctx → u.ctxAt k = s.ctxAt k) ∧ u.mem = s.mem ∧ u.cores = s.cores
    let becomes := fun (t : Trans) (e : Shelf) => ∃ u, exec (.shelfTransitionApply o sh t) s = .next u ∧
      (u.ctxAt o.ctx).shelf sh = e ∧ (u.ctxAt o.ctx).deferred = c.deferred ∧ frame u
    let traps := fun (t : Trans) (cause : Nat) => ∃ u, exec (.shelfTransitionApply o sh t) s = .next u ∧
      (u.ctxAt o.ctx).shelf sh = d ∧
      ((u.ctxAt o.ctx).deferred.drop c.deferred.length).map (fun f => f.cause) = [cause] ∧ frame u
    let goes := fun (t : Trans) (p : Bool) (e : Shelf) => if p then becomes t e else traps t 0x05
    (d.len ≠ 0 → d.dbl = false →
      goes .claim (d.fs == .empty) { d with fs := .filling } ∧ goes .pub (d.fs == .filling) { d with fs := .full } ∧
      goes .drain (d.fs == .full) { d with fs := .draining } ∧
      goes .rel (d.fs == .full || d.fs == .draining) { d with fs := .empty, fp := false } ∧
      goes .relB (d.fs == .filling) { d with fs := .empty, fp := false } ∧
      becomes (.readOut false) (if d.fs = .draining then { d with fs := .empty, fp := false } else d)) ∧
    (d.len ≠ 0 → d.dbl = true →
      goes .claim (d.bs == .empty) { d with bs := .filling } ∧
      goes .pub (d.bs == .filling) { d with fh := !d.fh, fs := .full, fp := d.bp, bs := if d.fs = .draining then .draining else .empty,
                                            bp := if d.fs = .draining then d.fp else false } ∧
      goes .drain (d.fs == .full) { d with fs := .draining } ∧
      goes .rel (d.fs == .full || d.fs == .draining) { d with fs := .empty, fp := false } ∧
      goes .relB (d.bs == .filling) { d with bs := .empty, bp := false } ∧
      becomes (.readOut d.fh) (if d.fs = .draining then { d with fs := .empty, fp := false } else d) ∧
      becomes (.readOut !d.fh) (if d.bs = .draining then { d with bs := .empty, bp := false } else d)) ∧
    (d.len = 0 → traps .claim 0x05 ∧ traps .pub 0x05 ∧ traps .drain 0x05 ∧ traps .rel 0x05 ∧ traps .relB 0x05 ∧
      ∀ half, traps (.readOut half) 0x05) ∧
    ∀ w : Reg,
      let e : Shelf := { base := BitVec.ofNat 16 w.toNat, len := BitVec.ofNat 16 (w.toNat / 2 ^ 16),
                         dbl := w.getLsbD 32 }
      let top := fun (x : Shelf) => x.base.toNat + x.len.toNat * (1 + x.dbl.toNat)
      let free := d.len = 0 ∨ (d.fs = .empty ∧ (d.dbl = true → d.bs = .empty))
      let fits := top e ≤ 1024 * c.sg ∧ ∀ j, j < 64 → j ≠ sh → (c.shelf j).len ≠ 0 →
        top e ≤ (c.shelf j).base.toNat ∨ top (c.shelf j) ≤ e.base.toNat
      (¬ free → traps (.decl w) 0x05) ∧ (free → e.len = 0 → becomes (.decl w) {}) ∧
        (free → e.len ≠ 0 → fits → becomes (.decl w) e) ∧ (free → e.len ≠ 0 → ¬ fits → traps (.decl w) 0x06)

/-! ### V slots -/

/-- Every V form whose operands pass its tests starts in its issue cycle when the datapath is free: the operation holds
the form, its element count, its quarters and the physical registers that its names denote at issue. A compare names
its mask, `v.qp` reads its predicate at t, and a clean l register gives its value at t; a poisoned one traps (R19, R57,
R155, R157, R164, R175 to R179). Within an occupancy a V form of the context takes the issue-timing trap (R57). The start occupies
the datapath for the form's quarters. In each of their cycles the operation takes the next 2,048 bytes of every source register, both
of a pair, from the pool as it then stands, and as many bits of its mask and of the segment-start mask; the last one ends it with
what its form does with all that it has read (R157). -/
def Obligations.VectorFormsStart : Prop :=
  (∀ (s : State) (k : Nat) (v : VOp),
    let core := coreOf k
    let c := s.ctxAt k
    let lanes := fun (bs : List Byte) (r : Nat) => bs ++ s.poolRead core (c.vBase r + 2048 * v.quarter) 2048
    let bits := fun (bs : List Bool) (q : Nat) =>
      bs ++ (List.range 2048).map (fun i => (c.mask q).getLsbD (2048 * v.quarter + i))
    let starts := match v.i with
      | .vScan _ _ _ _ sq sg _ _ => if sg then sq.toNat else 0
      | _ => 0
    let w : VOp := { v with
      quarter := v.quarter + 1, vs := lanes v.vs v.src, vs1 := lanes v.vs1 v.src1, vt := lanes v.vt v.tsrc
      vt1 := lanes v.vt1 v.tsrc1, vd := lanes v.vd v.dst, q := bits v.q v.mq, seg := bits v.seg starts }
    let reads := fun (m : Micro) (free ctx : Nat) => ∃ t,
      step { s with cur := {}, todo := ⟨s.now, rankSample, .micro m⟩ :: s.todo } = .next t ∧ t.mem = s.mem ∧
        (t.coreAt core).vFree = free ∧ (t.coreAt core).vCtx = ctx ∧ (∀ n b, t.poolByte n b = s.poolByte n b) ∧
        (∀ j, j ≠ k → t.ctxAt j = s.ctxAt j) ∧
        (w.quarter < w.quarters → (t.ctxAt k).vop = some w ∧ ⟨s.now + 1, rankSample, .micro (.quarter k)⟩ ∈ t.agenda) ∧
        (w.quarters ≤ w.quarter → (t.ctxAt k).vop = none ∧ ∃ u : State, t = u.finishV w ∧ u.now = s.now)
    reads (.vStart k v) (s.now + v.quarters) k ∧
      (c.vop = some v → reads (.quarter k) (s.coreAt core).vFree (s.coreAt core).vCtx)) ∧
  (∀ (s : State) (i : Instr), i.unit = unitV → i ≠ .vNop → (∀ a b c d, i ≠ .vQuant a b c d) →
    (∀ t q d l o, i ≠ .vLdt t q d l o) → s.now < (s.coreAt (coreOf s.cur.ctx)).vFree →
    exec i s = .next (s.issueTrap 0x04 (infoTiming 1 s.slotNo (s.concAt (s.coreAt (coreOf s.cur.ctx)).vFree)))) ∧
  ∀ (s : State) (t w : ElemType) (q sq qd : BitVec 2) (vd vs vt a : BitVec 6) (p z gr : BitVec 4) (m : BitVec 3)
    (sg ex : Bool) (op : BitVec 2) (l : BitVec 5), (s.coreAt (coreOf s.cur.ctx)).vFree ≤ s.now →
    let begins := fun (i : Instr) (quarters mask : Nat) (p : VOp → Prop) =>
      ∃ v : VOp, exec i s = .next (s.emit 0 rankSample (.micro (.vStart s.cur.ctx v))) ∧ v.i = i ∧ v.o = s.here unitV ∧
        v.cnt = s.me.vl ∧ v.quarter = 0 ∧ v.quarters = quarters ∧ v.mq = mask ∧ v.vs = [] ∧ v.vs1 = [] ∧ v.vt = [] ∧
        v.vt1 = [] ∧ v.vd = [] ∧ v.q = [] ∧ v.seg = [] ∧ p v
    let all := (s.me.vl + 511) / 512
    let starts := fun (i : Instr) (dst src src2 : BitVec 6) => begins i all q.toNat (fun v =>
      v.dst = s.me.physV dst.toNat ∧ v.src = s.me.physV src.toNat ∧ v.tsrc = s.me.physV src2.toNat)
    let masks := fun (i : Instr) (src src2 : BitVec 6) (b : Bool) => begins i all q.toNat (fun v =>
      v.mqd = qd.toNat ∧ v.predVal = b ∧ v.src = s.me.physV src.toNat ∧ v.tsrc = s.me.physV src2.toNat)
    let memory := fun (i : Instr) (dst src : BitVec 6) =>
      (s.me.poisonL l.toNat = false → begins i all q.toNat (fun v =>
        v.lReg = s.me.regL l.toNat ∧ v.dst = s.me.physV dst.toNat ∧ v.src = s.me.physV src.toNat)) ∧
      (s.me.poisonL l.toNat = true →
        exec i s = .next (s.issueTrap 0x07 (infoShelf l.toNat 0 0 4 unitV 0 0 0)))
    starts (.vAdd t q vd vs vt) vd vs vt ∧ starts (.vSub t q vd vs vt) vd vs vt ∧
      starts (.vMul t q vd vs vt) vd vs vt ∧ starts (.vFma t q vd vs vt) vd vs vt ∧
      starts (.vMin t q vd vs vt) vd vs vt ∧ starts (.vMax t q vd vs vt) vd vs vt ∧
      starts (.vAbs t q vd vs) vd vs 0 ∧ starts (.vNeg t q vd vs) vd vs 0 ∧ starts (.vNot t q vd vs) vd vs 0 ∧
      starts (.vExp2 t q vd vs) vd vs 0 ∧ starts (.vRcp t q vd vs) vd vs 0 ∧ starts (.vRsqrt t q vd vs) vd vs 0 ∧
      starts (.vAnd t q vd vs vt) vd vs vt ∧ starts (.vOr t q vd vs vt) vd vs vt ∧
      starts (.vXor t q vd vs vt) vd vs vt ∧ starts (.vAndn t q vd vs vt) vd vs vt ∧
      starts (.vShl t q vd vs a) vd vs 0 ∧ starts (.vShr t q vd vs a) vd vs 0 ∧ starts (.vSar t q vd vs a) vd vs 0 ∧
      starts (.vSel t q vd vs vt) vd vs vt ∧ starts (.vCvt t q vd vs m w) vd vs 0 ∧
      starts (.vCvtSr t q vd vs vt) vd vs vt ∧ begins (.vHash q vd vs vt) all q.toNat (fun v =>
        v.dst = s.me.physV vd.toNat ∧ v.src = s.me.physV vs.toNat ∧ v.tsrc = s.me.physV vt.toNat ∧
        v.tsrc1 = s.me.physV (vt.toNat + 1)) ∧
      starts (.vScan t q vd vs sq sg op ex) vd vs 0 ∧ starts (.vRed t q vd vs op) vd vs 0 ∧
      starts (.vPerm t q vd vs vt) vd vs vt ∧ starts (.vBcast t q vd vs a) vd vs 0 ∧
      begins (.vWiden t q vd vs) all q.toNat (fun v => v.dst = s.me.physV vd.toNat ∧ v.dst1 = s.me.physV (vd.toNat + 1) ∧
        v.src = s.me.physV vs.toNat) ∧
      begins (.vNarrow t q vd vs) all q.toNat (fun v => v.dst = s.me.physV vd.toNat ∧ v.src = s.me.physV vs.toNat ∧
        v.src1 = s.me.physV (vs.toNat + 1)) ∧
      begins (.vLdz t q vd z gr) 2 q.toNat (fun v => v.dst = s.me.physV vd.toNat) ∧
      (s.me.vl % 32 = 0 → begins (.vQuant vd vs op p) all 0 (fun v => v.dst = s.me.physV vd.toNat ∧
        v.src = s.me.physV vs.toNat)) ∧
      (s.me.vl % 32 ≠ 0 → exec (.vQuant vd vs op p) s = .next (s.illegal { why := 7, detail := 2 })) ∧
      masks (.vEq t q qd vs vt) vs vt false ∧ masks (.vNe t q qd vs vt) vs vt false ∧
      masks (.vLt t q qd vs vt) vs vt false ∧ masks (.vLe t q qd vs vt) vs vt false ∧
      masks (.vQp t q qd p) 0 0 (s.me.pred p.toNat) ∧ memory (.vGet t q vd l) vd 0 ∧ memory (.vLd t q vd l a) vd 0 ∧
      memory (.vLdS t q vd l a) vd 0 ∧ memory (.vSt t q l vs a) 0 vs ∧
      (s.me.vl * 4 / t.width % 1024 = 0 → memory (.vLdt t q vd l a) vd 0) ∧
      (s.me.vl * 4 / t.width % 1024 ≠ 0 →
        exec (.vLdt t q vd l a) s = .next (s.illegal { why := 7, detail := 3 }))

/-- What each V form puts into the elements of its destination, or the bits of its mask, and after how many cycles (R156,
R160 to R175, Table 08-1). Integer elements wrap modulo their width, with the orders of two's complement. Floating ones are
the exact result of R101 rounded once to nearest even (R96), a NaN in its canonical form (R88); the sign forms act on the
sign bit. `v.exp2`, `v.rcp` and `v.rsqrt` take the special cases of R162 and the exact powers of two. `v.scan` and `v.red`
fold the active elements in ascending order. Each write lands the form's latency after its last quarter. A load samples two cycles
after it, a store performs three cycles after it with the bytes of its active elements, both at the l register's shelf and offset
plus 64 times the field over `$vl` × 4 bytes, and `v.ldz` reads its rows in the next (R176 to R180). -/
def Obligations.VectorElements : Prop :=
  ∀ (v : VOp) (t u : ElemType) (q sq qd md : BitVec 2) (a b c : BitVec 6) (p : BitVec 4) (mode : BitVec 3) (op : BitVec 2)
    (l : BitVec 5) (seg ex : Bool),
    let w := t.width
    let n := v.cnt * 4 / w
    let m := 2 ^ (8 * w)
    let el := fun (w : Nat) (bs : List Byte) (k : Nat) => leNat ((bs.drop (w * k)).take w)
    let act := fun (w n : Nat) => (List.range n).map (fun k => v.q.getD (w * k) false)
    let writes := fun (lat w n : Nat) (f : Nat → Nat) => ∃ xs, v.results = (lat, [.vec v.dst (cellsOf w 0 (act w n) xs)]) ∧
      xs.length = n ∧ ∀ k, k < n → xs[k]? = some (f k)
    let marks := fun (f : Nat → Bool) => ∃ x : BitVec 8192, v.results = (2, [.mask v.mqd x]) ∧
      ∀ j, j < 8192 → x.getLsbD j = (decide (j / w < n) && v.q.getD (w * (j / w)) false && f (j / w))
    let sg := fun (x : Nat) => (BitVec.ofNat (8 * w) x).toInt
    let nan := fun (x : Nat) => t.isFloat && vVal t x == .nan
    let gives := fun (i : Int) (f : Sys2Proof.Machine.Num) => if t.isFloat then vRound t f .rne false 0 else (i % (m : Nat)).toNat
    let add := fun (x y : Nat) => gives (sg x + sg y) ((vVal t x).add (vVal t y))
    let less := fun (x y : Nat) => if t.isFloat then (vVal t x).lt true (vVal t y) else decide (sg x < sg y)
    let least := fun (x y : Nat) => if nan x || nan y then vNaN t else if less y x then y else x
    let most := fun (x y : Nat) => if nan x || nan y then vNaN t else if less x y then y else x
    let fold := fun (l : List Nat) => match l.map (fun k => if nan (el w v.vs k) then vNaN t else el w v.vs k) with
      | [] => if op = 0 then 0
        else if t.isFloat then vRound t (.inf (op == 1)) .rne false 0 else if op = 1 then m / 2 else m / 2 - 1
      | x :: r => r.foldl (if op = 0 then add else if op = 1 then most else least) x
    let one := fun (f : Nat → Nat) => writes 2 w n (fun k => f (el w v.vs k))
    let two := fun (f : Nat → Nat → Nat) => writes 2 w n (fun k => f (el w v.vs k) (el w v.vt k))
    let arith := fun (f : Nat → Nat → Nat) => writes (if t.isFloat then 4 else 2) w n (fun k => f (el w v.vs k) (el w v.vt k))
    let slow := fun (p : Nat → Nat → Prop) => ∃ f : Nat → Nat, writes 10 w n (fun k => f (el w v.vs k)) ∧ ∀ x, p x (f x)
    let truth := fun (f : Nat → Nat → Bool) => marks (fun k => f (el w v.vs k) (el w v.vt k))
    vNaN .f32 = 0x7FC00000 ∧ vNaN .bf16 = 0x7FC0 ∧ vNaN .f16 = 0x7E00 ∧
    (∀ e ∈ v.results.2, ∀ s : State, 0 < v.results.1 →
      ⟨s.now + v.results.1, rankLand, .op (.resultLanding v.o e)⟩ ∈ (s.finishV v).agenda) ∧
    (let acc : Access := { sh := v.lReg.toNat / 2 ^ 26 % 64, off := (v.lReg.toNat % 2 ^ 26 : Nat) + 64 * c.toInt, size := 4 * v.cnt }
     let load := fun (kind : VLoadKind) => ∀ s : State, ∃ x : VLoad,
       ⟨s.now + 2, rankSample, .op (.vectorLoadSample v.o x)⟩ ∈ (s.finishV v).agenda ∧ x.kind = kind ∧ x.acc = acc ∧
         x.vd = v.dst ∧ x.w = w ∧ x.n = n ∧ x.active = act w n ∧ x.q = v.mq
     (v.i = .vLd t q a l c → load .ld) ∧ (v.i = .vLdS t q a l c → load .lds) ∧ (v.i = .vLdt t q a l c → load .ldt) ∧
       (v.i = .vSt t q l b c → ∀ s : State, ∃ xs : List Nat, xs.length = n ∧ (∀ k, k < n → xs[k]? = some (el w v.vs k)) ∧
         ⟨s.now + 3, rankPerform unitV, .op (.vectorStorePerform v.o acc (cellsOf w 0 (act w n) xs))⟩ ∈ (s.finishV v).agenda) ∧
       ∀ z g : BitVec 4, v.i = .vLdz t q a z g → ∀ s : State,
         ⟨s.now + 1, rankSample, .micro (.ldzRead v.o v.dst z.toNat g.toNat 4 (act 4 1024))⟩ ∈ (s.finishV v).agenda) ∧
    (v.i = .vAdd t q a b c → arith add) ∧
    (v.i = .vSub t q a b c → arith (fun x y => gives (sg x - sg y) ((vVal t x).add (vVal t y).negate))) ∧
    (v.i = .vMul t q a b c → arith (fun x y => gives (sg x * sg y) ((vVal t x).mul (vVal t y)))) ∧
    (v.i = .vFma t q a b c → writes 5 w n (fun k =>
      let x := el w v.vs k
      let y := el w v.vt k
      let z := el w v.vd k
      gives (sg x * sg y + sg z) (((vVal t x).mul (vVal t y)).add (vVal t z)))) ∧
    (v.i = .vMin t q a b c → two least) ∧ (v.i = .vMax t q a b c → two most) ∧
    (v.i = .vAbs t q a b → one (fun x => if nan x then vNaN t else if t.isFloat then x % (m / 2)
      else (sg x).natAbs % m)) ∧
    (v.i = .vNeg t q a b → one (fun x => if nan x then vNaN t else if t.isFloat then (x + m / 2) % m
      else (-(sg x) % (m : Nat)).toNat)) ∧
    (v.i = .vNot t q a b → one (fun x => m - 1 - x)) ∧ (v.i = .vAnd t q a b c → two (fun x y => x &&& y)) ∧
    (v.i = .vOr t q a b c → two (fun x y => x ||| y)) ∧ (v.i = .vXor t q a b c → two (fun x y => x ^^^ y)) ∧
    (v.i = .vAndn t q a b c → two (fun x y => x &&& (m - 1 - y))) ∧
    (v.i = .vShl t q a b c → one (fun x => x * 2 ^ c.toNat % m)) ∧
    (v.i = .vShr t q a b c → one (fun x => x / 2 ^ c.toNat)) ∧
    (v.i = .vSar t q a b c → one (fun x => (sg x / (2 ^ c.toNat : Nat) % (m : Nat)).toNat)) ∧
    (v.i = .vEq t q qd b c → truth (fun x y => if t.isFloat then (vVal t x).eq (vVal t y) else x == y)) ∧
    (v.i = .vNe t q qd b c → truth (fun x y => !(if t.isFloat then (vVal t x).eq (vVal t y) else x == y))) ∧
    (v.i = .vLt t q qd b c → truth (fun x y => if t.isFloat then (vVal t x).lt false (vVal t y) else decide (sg x < sg y))) ∧
    (v.i = .vLe t q qd b c → truth (fun x y => if t.isFloat then (vVal t x).lt false (vVal t y) || (vVal t x).eq (vVal t y)
      else decide (sg x ≤ sg y))) ∧
    (v.i = .vQp t q qd p → marks (fun _ => v.predVal)) ∧ (v.i = .vGet t q a l → writes 2 w n (fun _ => v.lReg.toNat % m)) ∧
    (v.i = .vSel t q a b c → ∃ xs, v.results = (2, [.vec v.dst (cellsOf w 0 (List.replicate n true) xs)]) ∧ xs.length = n ∧
      ∀ k, k < n → xs[k]? = some (if v.q.getD (w * k) false then el w v.vs k else el w v.vt k)) ∧
    (t.isFloat = true → v.i = .vExp2 t q a b → slow (fun x r =>
      (vVal t x = .nan → r = vNaN t) ∧ (vVal t x = .inf true → r = 0) ∧
      (vVal t x = .inf false → r = vRound t (.inf false) .rne false 0) ∧
      ∀ k : Int, (vVal t x).eq (.ofInt k) = true → r = vRound t (.fin false 1 k) .rne false 0)) ∧
    (t.isFloat = true → v.i = .vRcp t q a b → slow (fun x r =>
      (vVal t x = .nan → r = vNaN t) ∧ (∀ s, vVal t x = .inf s → r = vRound t (.fin s 0 0) .rne false 0) ∧
      (∀ s e, vVal t x = .fin s 0 e → r = vRound t (.inf s) .rne false 0) ∧
      ∀ (s : Bool) (i : Nat) (e : Int), vVal t x = .fin s (2 ^ i) e → r = vRound t (.fin s 1 (-(e + i))) .rne false 0)) ∧
    (t.isFloat = true → v.i = .vRsqrt t q a b → slow (fun x r =>
      (vVal t x = .nan → r = vNaN t) ∧ (vVal t x = .inf true → r = vNaN t) ∧ (vVal t x = .inf false → r = 0) ∧
      (∀ s e, vVal t x = .fin s 0 e → r = vRound t (.inf s) .rne false 0) ∧
      (∀ i e, i ≠ 0 → vVal t x = .fin true i e → r = vNaN t) ∧
      ∀ (i : Nat) (e j : Int), vVal t x = .fin false (2 ^ i) e → e + i = 2 * j → r = vRound t (.fin false 1 (-j)) .rne false 0)) ∧
    (v.i = .vCvt t q a b mode u → writes 4 u.width (v.cnt * 4 / max w u.width) (fun k =>
      vRound u (vVal t (el w v.vs k)) (modeOf mode.toNat) (!u.isFloat) 0)) ∧
    (v.i = .vCvtSr t q a b c → writes 4 w v.cnt (fun k =>
      vRound t (vVal .f32 (el 4 v.vs k)) .sr (!t.isFloat) (el 4 v.vt k))) ∧
    (v.i = .vQuant a b md p →
      let fw := [0x005, 0x006, 0x007, 0x008, 0x009, 0x00A, 0x04D, 0x06D, 0x08D, 0x0AD, 0x0CD, 0x0ED, 0x10D].getD p.toNat 0
      let block := fun (i : Nat) => quantBlock fw ((List.range 32).map (fun j => vVal .f32 (el 4 v.vs (32 * i + j))))
        (modeOf md.toNat)
      v.cnt % 32 = 0 → ∃ codes scales, v.results = (6, [.vec v.dst
          (cellRun 0 (leBytes (v.cnt * elemBits fw / 8) (packRun (elemBits fw) codes)) ++ cellRun 4096 scales)]) ∧
        codes.length = v.cnt ∧ scales.length = v.cnt / 32 ∧
        ∀ i, i < v.cnt / 32 → scales[i]? = some (BitVec.ofNat 8 (block i).1) ∧
          ∀ j, j < 32 → codes[32 * i + j]? = (block i).2[j]?) ∧
    (v.i = .vHash q a b c → writes 3 4 v.cnt (fun k =>
      let key := BitVec.ofNat 32 (el 4 v.vt k)
      let ctr := BitVec.ofNat 32 (el 4 v.vs k + k)
      let x := (ctr ^^^ key) * 0x9E3779B1
      let y := ((x ^^^ (x >>> 15)) + BitVec.ofNat 32 (el 4 v.vt1 k)) * 0x85EBCA77
      (y ^^^ (y >>> 13)).toNat)) ∧
    (v.i = .vScan t q a b sq seg op ex → ∃ xs, v.results = (8, [.vec v.dst (cellsOf w 0 (act w n) xs)]) ∧ xs.length = n ∧
      ∀ k, k < n → v.q.getD (w * k) false = true →
        let start := fun (j : Nat) => j == 0 || (seg && v.seg.getD (w * j) false)
        let mine := (List.range (k + 1)).filter (fun j => v.q.getD (w * j) false && !(ex && j == k) &&
          (List.range (k + 1)).all (fun i => decide (i ≤ j) || !start i))
        xs[k]? = some (fold mine)) ∧
    (v.i = .vRed t q a b op →
      let mine := (List.range n).filter (fun j => v.q.getD (w * j) false)
      (mine = [] → v.results = (8, [])) ∧ (mine ≠ [] → writes 8 w n (fun _ => fold mine))) ∧
    (v.i = .vPerm t q a b c → writes 4 w n (fun k =>
      let j := if w = 1 then 256 * (k / 256) + el w v.vt k else el w v.vt k
      if j < n then el w v.vs j else 0)) ∧
    (v.i = .vBcast t q a b c → writes 4 w n (fun k => el w v.vs (k - k % 2 ^ c.toNat))) ∧
    (v.i = .vWiden t q a b → t.widens = true → ∃ lo hi, v.results = (2,
        [.vec v.dst (cellsOf (2 * w) 0 ((act w n).take (n / 2)) lo), .vec v.dst1 (cellsOf (2 * w) 0 ((act w n).drop (n / 2)) hi)]) ∧
      lo.length = n / 2 ∧ ∀ k, k < n → (lo ++ hi)[k]? = some (vRound (wideType t) (vVal t (el w v.vs k)) .rne
        (!t.isFloat) 0)) ∧
    (v.i = .vNarrow t q a b → t.widens = true → writes 2 w n (fun k =>
      vRound t (vVal (wideType t) (if k < n / 2 then el (2 * w) v.vs k else el (2 * w) v.vs1 (k - n / 2))) .rne
        (!t.isFloat) 0)) ∧
    ∀ (s : State) (o : Origin) (vd z g : Nat) (act : List Bool), ∃ u xs, s.ldzRead o vd z g act = u ∧ u.mem = s.mem ∧
      (∀ k x, u.poolByte k x = s.poolByte k x) ∧
      ⟨s.now + 4, rankLand, .op (.resultLanding o (.vec vd (cellsOf 4 0 act xs)))⟩ ∈ u.agenda ∧ xs.length = 1024 ∧
      ∀ r c, r < 8 → c < 128 → xs[128 * r + c]? =
        some (el 4 (s.poolRead (coreOf o.ctx) ((s.ctxAt o.ctx).zBase z + 512 * (8 * g)) 4096) (128 * r + c))

/-- An element whose mask bit is 0 is not written, and no byte past the elements given is: each byte that a V result
writes belongs to an active element (R52, R156). -/
def Obligations.InactiveElementsKept : Prop :=
  ∀ (w : Nat) (as : List Bool) (xs : List Nat) (e : Nat × Byte), 0 < w → e ∈ cellsOf w 0 as xs →
    e.1 / w < xs.length ∧ as[e.1 / w]? = some true

/-- VECTOR_STORE_PERFORM and VECTOR_LOAD_SAMPLE on a half that may be accessed: the store writes its cells and leaves
every other byte alone; the load's bytes become readable at t_last + 5, for `v.ldt` one cycle later and in the order of its
tiles. A `v.ld.s` that fails writes zeros and clears its mask; a load or store that fails otherwise is a deferred trap
(R176 to R179). -/
def Obligations.VectorMemoryPerforms : Prop :=
  ∀ (s : State) (o : Origin) (acc : Access) (cells : List (Nat × Byte)) (l : VLoad),
    (s.writeCheck o.ctx acc 64 = none →
      let a := (s.ctxAt o.ctx).accessAddr acc true
      ∃ t, exec (.vectorStorePerform o acc cells) s = .next t ∧ t.mem = s.mem ∧
        (∀ b, (∀ e ∈ cells, b ≠ a + e.1) → t.poolByte (coreOf o.ctx) b = s.poolByte (coreOf o.ctx) b) ∧
        (∀ c b, c ≠ coreOf o.ctx → t.poolByte c b = s.poolByte c b) ∧
        ((cells.map (fun e => e.1)).Nodup →
          ∀ e ∈ cells, t.poolByte (coreOf o.ctx) (a + e.1) = e.2)) ∧
    (∀ f, s.writeCheck o.ctx acc 64 = some f → exec (.vectorStorePerform o acc cells) s =
      .next ((s.fault o 0 f.cause (f.info acc.sh 1 unitV 0 0 acc.off)).touch o.ctx)) ∧
    let r := s.readCheck o.ctx l.acc 64
    (r.2 = none → ∃ xs, exec (.vectorLoadSample o l) s = .next ((r.1.after (if l.kind = .ldt then 4 else 3) rankLand
        (.op (.resultLanding o (.vec l.vd (cellsOf l.w 0 l.active xs))))).touch o.ctx) ∧ xs.length = l.n ∧
      (∀ c b, r.1.poolByte c b = s.poolByte c b) ∧
      ∀ k, k < l.n →
        let j := if l.kind = .ldt then 1024 * (k / 1024) + 32 * (k % 32) + k / 32 % 32 else k
        (j < l.n → xs[k]? = some (leNat ((s.shelfBytes o.ctx l.acc).drop (l.w * j) |>.take l.w)))) ∧
    (∀ f, r.2 = some f → l.kind = .lds → exec (.vectorLoadSample o l) s =
      .next (((r.1.after 3 rankLand (.op (.resultLanding o (.vec l.vd (cellsOf l.w 0 l.active (List.replicate l.n 0)))))).after
        3 rankLand (.op (.resultLanding o (.mask l.q 0)))).touch o.ctx)) ∧
    (∀ f, r.2 = some f → l.kind ≠ .lds → exec (.vectorLoadSample o l) s =
      .next ((r.1.fault o 0 f.cause (f.info l.acc.sh 0 unitV 0 0 l.acc.off)).touch o.ctx))

/-! ### M slots -/

/-- The M forms with the grant and a guard that holds: formats and tolerances go into the shadow, `m.zero` performs at
t+1, `m.chain` is in force from t+1, and the loads, multiplies, drains and `m.chk` start in their issue cycle when the
array input or the drain path is free and their operands are admitted (R196 to R212). `m.zero` then clears the 64 KiB of its
accumulator and what stands beside them and no other byte; `m.chain` sets the two forwarding bits of the descriptor and no other
(R204, R207). -/
def Obligations.MatrixForms : Prop :=
  (∀ (s : State) (o : Origin) (z : Nat) (af pf : Bool),
    let c := s.ctxAt o.ctx
    let runs := fun (rank : Nat) (m : Micro) (p : State → Prop) => ∃ t,
      step { s with cur := {}, todo := ⟨s.now, rank, .micro m⟩ :: s.todo } = .next t ∧ p t ∧ t.mem = s.mem ∧
        ∀ k, k ≠ o.ctx → t.ctxAt k = s.ctxAt k
    runs (rankPerform unitM + 1) (.zeroZ o z) (fun t => (t.ctxAt o.ctx).side z = {} ∧
      (∀ j, j ≠ z → (t.ctxAt o.ctx).side j = c.side j) ∧
      (∀ b, t.poolByte (coreOf o.ctx) b = if c.zBase z ≤ b ∧ b < c.zBase z + 65536 then 0 else s.poolByte (coreOf o.ctx) b) ∧
      ∀ n b, n ≠ coreOf o.ctx → t.poolByte n b = s.poolByte n b) ∧
    runs rankLand (.setChain o af pf) (fun t => t.cores = s.cores ∧ ∃ d : Reg, t.ctxAt o.ctx = { c with stat := d } ∧
      ∀ i, i < 64 → d.getLsbD i = if i = 53 then af else if i = 52 then pf else c.stat.getLsbD i)) ∧
  ∀ (s : State) (g : Guard) (sel asrc : BitVec 2) (word : BitVec 17) (l r : BitVec 5) (gen : Bool) (off : BitVec 13)
    (z e pq : BitVec 4) (af pf wide pub : Bool), s.me.passes g = true → s.me.gM = true →
    let starts := fun (i : Instr) (m : Micro → Prop) =>
      ∃ x, m x ∧ exec i s = .next (s.emit 0 rankSample (.micro x))
    let shadow := fun (n : Nat) (v : Reg) =>
      (Host.Outcome.next (s.emit 0 rankSample (.micro (.shadowWrite s.cur.ctx { num := n, v := v, left := 3 }))) : Out)
    exec (.mFmt g sel word) s = shadow (0xB + sel.toNat) (word.setWidth 64) ∧
      exec (.mZero g z) s = .next (s.emit 1 (rankPerform unitM + 1) (.micro (.zeroZ (s.here unitM) z.toNat))) ∧
      ((af = false ∧ pf = false) ∨ s.nextInPart s.cur.ctx = true →
        exec (.mChain g af pf) s = .next (s.emit 1 rankLand (.micro (.setChain (s.here unitM) af pf)))) ∧
      (s.me.poisonL l.toNat = false → tolValid (s.me.regL l.toNat) = true →
        exec (.mTol g e l) s = shadow (0x20 + e.toNat) (s.me.regL l.toNat)) ∧
      ((s.coreAt (coreOf s.cur.ctx)).inFree ≤ s.now → s.me.poisonL l.toNat = false →
        starts (.mLdb g l gen off) (fun x => ∃ d : LoadOp, x = .loadStart d ∧ d.tr = false ∧ d.gen = gen ∧
          d.fb = s.me.fb ∧ d.acc.sh = addrShelf (s.me.regL l.toNat) ∧
          d.acc.off = (addrOffset (s.me.regL l.toNat) : Int) + 64 * off.toInt) ∧
        starts (.mLdbt g l gen off) (fun x => ∃ d : LoadOp, x = .loadStart d ∧ d.tr = true ∧ d.gen = gen ∧
          d.fb = s.me.fb ∧ d.acc.sh = addrShelf (s.me.regL l.toNat) ∧
          d.acc.off = (addrOffset (s.me.regL l.toNat) : Int) + 64 * off.toInt)) ∧
      ((s.coreAt (coreOf s.cur.ctx)).inFree ≤ s.now → (asrc = 0 → s.me.poisonL r.toNat = false) →
        let mul := fun (i : Instr) (pin : Nat) => starts i (fun x => ∃ m : MulOp, x = .mulStart m ∧ m.z = z.toNat ∧
          m.pin = pin ∧ m.wide = wide ∧ m.fa = s.me.fa ∧ m.op = (s.coreAt (coreOf s.cur.ctx)).array)
        (s.mulDetail s.cur.ctx z.toNat 0 wide asrc.toNat r.toNat 0 = none → mul (.mMulSet g z asrc wide r) 0) ∧
        (s.mulDetail s.cur.ctx z.toNat 1 wide asrc.toNat r.toNat 0 = none → mul (.mMulAcc g z asrc wide r) 1) ∧
        (s.mulDetail s.cur.ctx z.toNat 2 wide asrc.toNat r.toNat 0 = none → mul (.mMulPch g z asrc wide r) 2) ∧
        (s.mulDetail s.cur.ctx z.toNat 3 wide asrc.toNat r.toNat pq.toNat = none →
          mul (.mMulPq g z asrc wide r pq) 3)) ∧
      ((s.coreAt (coreOf s.cur.ctx)).drFree ≤ s.now → (wide = true → (s.me.side z.toNat).grpI = true) →
        let drain := fun (i : Instr) (chk pub : Bool) (lq : Option Nat) => starts i (fun x => ∃ d : DrainOp,
          x = .drainStart d ∧ d.z = z.toNat ∧ d.chk = chk ∧ d.wide = wide ∧ d.pub = pub ∧ d.lq = lq ∧ d.fc = s.me.fc ∧
          d.tol = sget 0 s.me.tol e.toNat)
        drain (.mChk g z e wide) true false none ∧
        (s.me.poisonL l.toNat = false → drain (.mDrain g z l e wide pub) false pub none) ∧
        (s.viewMine s.cur.ctx = true → viewTxv (s.viewEntry (coreOf s.cur.ctx) pq.toNat) = true →
          512 % elemBits s.me.fc.toNat = 0 → drain (.mDrainQueue g z pq e wide) false false (some pq.toNat)))

/-- A shadowed write of `$fa`, `$fb`, `$fc`, a tolerance entry or a queue's format words stays unseen by the three bundles
after its own and is in force for the fourth, whatever other writes are in their shadow (R65). The key of a queue's words is
the model's: link times 16 plus queue, from 0x100 on. -/
def Obligations.FormatShadow : Prop :=
  ∀ (s : State) (k num : Nat) (v : Reg),
    (s.ctxAt k).shadow.filter (fun w => w.num == num) = [{ num := num, v := v, left := 3 }] →
    let s0 := s.endShadow k
    let s1 := (s0.tickShadow k).endShadow k
    let s2 := (s1.tickShadow k).endShadow k
    let s3 := (s2.tickShadow k).endShadow k
    let stands := fun (t : State) =>
      (num = 0x00B → (t.ctxAt k).fa = (s.ctxAt k).fa) ∧ (num = 0x00C → (t.ctxAt k).fb = (s.ctxAt k).fb) ∧
        (num = 0x00D → (t.ctxAt k).fc = (s.ctxAt k).fc) ∧
        (∀ e, e < 16 → num = 0x20 + e → sget 0 (t.ctxAt k).tol e = sget 0 (s.ctxAt k).tol e) ∧
        ∀ l q, q < 16 → num = 0x100 + 16 * l + q → (t.queue l q).fs = (s.queue l q).fs ∧ (t.queue l q).fk = (s.queue l q).fk
    stands s0 ∧ stands s1 ∧ stands s2 ∧ (num = 0x00B → (s3.ctxAt k).fa = v.setWidth 32) ∧
      (num = 0x00C → (s3.ctxAt k).fb = v.setWidth 32) ∧ (num = 0x00D → (s3.ctxAt k).fc = v.setWidth 32) ∧
      (∀ e, e < 16 → num = 0x20 + e → sget 0 (s3.ctxAt k).tol e = v) ∧
      ∀ l q, q < 16 → num = 0x100 + 16 * l + q →
        (s3.queue l q).fs = v.setWidth 17 ∧ (s3.queue l q).fk = (v >>> 32).setWidth 17

/-! ### N slots -/

/-- The N forms with the grant and a guard that holds: a send, a forward and an anthology step whose entry may be sent
on and whose departure cycle is owned and free commit that cycle and start at t+1; a receive pops at t+1 (R239 to
R249). A pop of a queue that has been popped in the cycle, that has overflowed or whose first flit is not yet due traps with its kind,
and an anthology step's also on a flit that is no row; only an overflow is forgotten so. Else the first flit leaves its queue. A
receive delivers a plain flit three cycles later, or traps where its sum is wrong, which the link reports; a forward sends what it
popped on at its departure with its new queue and cycle; an anthology step sends the sums of the popped words and the shelf's, each
rounded once, with the margin of both; a send takes the 64 bytes of its shelf with their sum (R242 to R249, R352, R353). Where pop
and sample both fail the pop's trap is reported (log 125). -/
def Obligations.LinkForms : Prop :=
  (∀ (s : State) (o : Origin) (e m : Nat) (acc : Access) (dep : Int) (ty : Bool), (s.ctxAt o.ctx).stage = .run →
    let c := s.ctxAt o.ctx
    let v := s.viewEntry (coreOf o.ctx) e
    let w := s.viewEntry (coreOf o.ctx) m
    let l := viewRxl v
    let q := s.queue l (viewRxq v)
    let reads := (s.readCheck o.ctx acc 64).2
    let bytes := s.shelfBytes o.ctx acc
    let runs := fun (m : Micro) (p : State → Prop) => ∃ t,
      step { s with cur := {}, todo := ⟨s.now, rankPopN, .micro m⟩ :: s.todo } = .next t ∧ p t ∧ t.mem = s.mem ∧
        ∀ k, k ≠ o.ctx → t.ctxAt k = s.ctxAt k
    let traps := fun (cause : Nat) (info : Reg) (t : State) =>
      ((t.ctxAt o.ctx).deferred.drop c.deferred.length).map (fun d => (d.cause, d.pc, d.info)) = [(cause, o.pc, info)]
    let left := fun (fs : List (Int × Flit)) (t : State) => (t.queue l (viewRxq v)).flits = fs
    let early := fun (kind : Nat) (fs : List (Int × Flit)) (m : Micro) => runs m (fun t =>
      traps 0x08 (infoNet kind e l (viewRxq v) s.concI) t ∧ left fs t)
    let any := fun (kind : Nat) (fs : List (Int × Flit)) =>
      early kind fs (.popRecv o e acc) ∧ early kind fs (.popFwd o e m dep) ∧ early kind fs (.popRed o e m acc ty dep)
    let sends := fun (n : Nat) (t : State) (link : Nat) (g : Flit) =>
      ⟨s.now + n, rankDepart, .op (.flitDeparture link g)⟩ ∈ t.agenda ∧ (flitDep g : Int) = dep % 2 ^ 16
    (q.popAt = some s.now → any 5 q.flits) ∧
    (q.popAt ≠ some s.now → q.ovf = true → any 2 q.flits) ∧
    (q.popAt ≠ some s.now → q.ovf = false → q.flits = [] → any 1 []) ∧
    (∀ nom f r, q.popAt ≠ some s.now → q.ovf = false → q.flits = (nom, f) :: r →
      (s.concI < nom + q.slack → any 1 q.flits) ∧
      (nom + q.slack ≤ s.concI →
        (flitKind f = 0 → wordSum f.data = flitMargin f → runs (.popRecv o e acc) (fun t => left r t ∧
          ⟨s.now + 3, rankPerform unitN, .op (.recvShelfWrite o acc f.data)⟩ ∈ t.agenda ∧ t.ctxAt o.ctx = c)) ∧
        (flitKind f = 0 → wordSum f.data ≠ flitMargin f → runs (.popRecv o e acc) (fun t => left r t ∧
          traps 0x0F (infoPop 5 f) t ∧ t.linkReports = s.linkReports ++ [(l, 5)])) ∧
        runs (.popFwd o e m dep) (fun t => left r t ∧ ∃ g, sends 5 t (viewTxl w) g ∧ g.data = f.data ∧ g.side = f.side ∧
          flitKind g = flitKind f ∧ flitIndex g = flitIndex f ∧ flitJv g = flitJv f ∧ flitTxq g = viewTxq w % 16) ∧
        (flitKind f ≠ 1 → early 7 r (.popRed o e m acc ty dep)))) ∧
    (∀ f, (s.pop o.ctx e (some (1, none)) false).2 = .ok f →
      (q.fs = q.fk → q.flits.head?.map (fun x => x.2) = some f) ∧
      (∀ x, reads = some x → runs (.popRed o e m acc ty dep) (traps x.cause (x.info acc.sh 0 unitN 0 0 acc.off))) ∧
      (reads = none →
        let b := if ty then 16 else 32
        let fmt := if ty then bfloat16 else binary32
        let at_ := fun (x k : Nat) => fmt.decode (x / 2 ^ (b * k) % 2 ^ b)
        runs (.popRed o e m acc ty dep) (fun t => ∃ g out, sends 13 t (viewTxl w) g ∧ out.length = 512 / b ∧
          (∀ k, k < 512 / b → out[k]? = some (fmt.round ((at_ f.data.toNat k).add (at_ (leNat bytes) k)) .rne false 0)) ∧
          g.data = BitVec.ofNat 512 (packRun b out) ∧ flitKind g = 1 ∧ flitIndex g = flitIndex f ∧ flitTxq g = viewTxq w % 16 ∧
          flitMargin g = rne32 ((val32 (flitMargin f)).add (val32 (rne32 (sumNum ((List.range (512 / b)).map
            (fun k => at_ (leNat bytes) k)))))) % 2 ^ 32))) ∧
    (∀ x, reads = some x → runs (.sendSample o e acc dep) (traps x.cause (x.info acc.sh 0 unitN 0 0 acc.off))) ∧
    (reads = none → runs (.sendSample o e acc dep) (fun t => ∃ g, sends 5 t (viewTxl v) g ∧
      g.data = BitVec.ofNat 512 (leNat bytes) ∧ flitMargin g = wordSum g.data ∧ flitKind g = 0 ∧
      flitTxq g = viewTxq v % 16))) ∧
  ∀ (s : State) (g : Guard) (e m : BitVec 4) (l : BitVec 5) (off : BitVec 10) (ty : Bool), s.me.passes g = true →
    s.me.gN = true → s.me.poisonL l.toNat = false →
    let core := coreOf s.cur.ctx
    let at_ := fun (x : Int) => ({
      sh := addrShelf (s.me.regL l.toNat)
      off := (addrOffset (s.me.regL l.toNat) : Int) + 64 * x
      size := 64 } : Access)
    let v := s.viewEntry core e.toNat
    let w := s.viewEntry core m.toNat
    let departs := fun (x n : Nat) => (s.holdDeparture (viewTxl x) n (s.concI + n))
    (viewRxv v = true → exec (.nRecv g e l off) s =
      .next (s.emit 1 rankPopN (.micro (.popRecv (s.here unitN) e.toNat (at_ off.toInt))))) ∧
    (viewTxv v = true → s.departFault s.me.part (viewTxl v) (s.concI + 6) = none →
      exec (.nSend g e l off) s = .next ((departs v 6).emit 1 rankSample
        (.micro (.sendSample (s.here unitN) e.toNat (at_ off.toInt) (s.concI + 6))))) ∧
    (viewRxv v = true → viewTxv w = true → s.departFault s.me.part (viewTxl w) (s.concI + 6) = none →
      exec (.nFwd g m e) s = .next ((departs w 6).emit 1 rankPopN
        (.micro (.popFwd (s.here unitN) e.toNat m.toNat (s.concI + 6))))) ∧
    (viewRxv v = true → viewTxv w = true → viewRxl v / 12 = viewTxl w / 12 →
      (s.queue (viewRxl v) (viewRxq v)).fk.toNat = (if ty then 1 else 0) →
      s.departFault s.me.part (viewTxl w) (s.concI + 14) = none →
      exec (.nRed g m e l ty) s = .next ((departs w 14).emit 1 rankPopN
        (.micro (.popRed (s.here unitN) e.toNat m.toNat (at_ 0) ty (s.concI + 14)))))

/-- The bay bus, queue settings, copies, loans and fences of the N unit (R250 to R253, R259, R268). The sample of a loan's record
tests what it reads in the order of Table 12-4 and traps with the detail of the first test that fails, or, at ordinal 256, with the
quiet bound; else the token is BUSY with the new loan, which has the record, its ordinal and what the log holds for it, and the
ordinal counts on, which it does not in supervisor mode. A fence names the loans of the context that are not complete; a slack stands
in its queue from t+1 and a clearing empties the queue and its overflow (R31, R37, R252, R255 to R259, R268). The tests count scope 7
as a reserved field (log 127), and of an atomic dims other than 0 (log 138). -/
def Obligations.NetworkSettings : Prop :=
  (∀ (s : State) (o : Origin) (acc : Access) (sup : Bool) (e n : Nat),
    let c := s.ctxAt o.ctx
    let r : LoanRec := BitVec.ofNat 512 (leNat (s.shelfBytes o.ctx acc))
    let op := recOp r
    let reads := (s.readCheck o.ctx acc 64).2
    let runs := fun (m : Micro) (p : State → Prop) => ∃ t,
      step { s with cur := {}, todo := ⟨s.now, rankSample, .micro m⟩ :: s.todo } = .next t ∧ p t ∧ t.mem = s.mem ∧
        ∀ k, k ≠ o.ctx → t.ctxAt k = s.ctxAt k
    let traps := fun (cause : Nat) (info : Reg) => c.stage = .run → runs (.loanRecord o acc sup) (fun t =>
      ((t.ctxAt o.ctx).deferred.drop c.deferred.length).map (fun d => (d.cause, d.pc, d.info)) = [(cause, o.pc, info)] ∧
        t.loans = s.loans ∧ (t.ctxAt o.ctx).toks = c.toks ∧ (t.ctxAt o.ctx).ordinal = c.ordinal)
    let refused := fun (d : Nat) => traps 0x01 (infoIllegal o.word o.slot { why := 7, detail := d })
    let quietFree := (List.range 8).all (fun i => (sget ({} : Token) c.record.toks i).st == .free)
    let fields := knownOp op = true ∧ recBits r 27 5 = 0 ∧ recScope r ≠ 7 ∧ shapeOk r = true ∧ (recPub r = true → pubOk op = true) ∧
      (recRel r = true → relOk op = true) ∧ (recNr r = true → isAtomic op = true) ∧ (srcKinds op = [] → recSrc r = 0) ∧
      unusedClean r = true ∧ depositOk r sup quietFree = true
    let unused := (c.token (recTk r)).st = .free
    let places := addrOk (recSrc r) (srcKinds op) = true ∧ addrOk (recDst r) (dstKinds op) = true ∧
      (isAtomic op = true → recNr r = true → recSrc r = 0) ∧ (op = 2 ∨ op = 3 ∨ op = 4 → addrOk (recOpnd r) [0] = true)
    let order := recOrd r ≠ 3 ∧ (recOrd r = 1 → opReads op = true) ∧ (recOrd r = 2 → opWrites op = true)
    (∀ f, reads = some f → traps f.cause (f.info acc.sh 0 unitN 0 0 acc.off)) ∧
    (reads = none →
      (¬ fields → refused 16) ∧ (fields → ¬ unused → refused 17) ∧ (fields → unused → ¬ places → refused 18) ∧
      (fields → unused → places → ¬ order → refused 19) ∧
      (fields → unused → places → order →
        (sup = false → 256 ≤ c.ordinal → traps 0x10 (BitVec.ofNat 64 (1 + c.qcount % 2 ^ 32 * 2 ^ 32))) ∧
        (sup = true ∨ c.ordinal < 256 → runs (.loanRecord o acc sup) (fun t =>
          ((t.ctxAt o.ctx).token (recTk r)).st = .busy ∧ ((t.ctxAt o.ctx).token (recTk r)).loan = s.nextId ∧
          (∀ i, i ≠ recTk r → (t.ctxAt o.ctx).token i = c.token i) ∧
          (t.ctxAt o.ctx).ordinal = (if sup then c.ordinal else c.ordinal + 1) ∧
          (∃ l, t.loans = s.loans ++ [l] ∧ l.id = s.nextId ∧ l.owner = .context o.ctx ∧ l.raw = r ∧ l.core = coreOf o.ctx ∧
            l.part = c.part ∧ l.cls = max (recClass r) c.cls.toNat ∧ l.fence = c.fence.map (fun f => f.1) ∧
            l.ordinal = (if sup then none else some c.ordinal) ∧
            l.fromLog = (if sup then none else (c.log.find? (fun x => x.ordinal == c.ordinal)).filter (fun x => x.same r))) ∧
          ∃ i, 0 < i ∧ ⟨s.now + i, rankUntimed, .micro (.kick s.nextId)⟩ ∈ t.agenda)))) ∧
    runs (.fenceFrom o.ctx n) (fun t => t.loans = s.loans ∧ ∀ x, x ∈ (t.ctxAt o.ctx).fence ↔
      ∃ l ∈ s.loans, l.owner = .context o.ctx ∧ l.stage ≠ .finished ∧ x = (l.id, n)) ∧
    (let v := s.viewEntry (coreOf o.ctx) e
     let q := s.queue (viewRxl v) (viewRxq v)
     runs (.qslApply o e false n) (fun t => t.queue (viewRxl v) (viewRxq v) = { q with slack := n }) ∧
       runs (.qslApply o e true n) (fun t =>
         t.queue (viewRxl v) (viewRxq v) = { q with flits := [], ovf := false, sums := none }))) ∧
  ∀ (s : State) (g : Guard) (c sc : BitVec 3) (e d x : BitVec 4) (l : BitVec 5) (off : BitVec 14)
    (k : BitVec 6), s.me.passes g = true → s.me.poisonL l.toNat = false →
    let core := coreOf s.cur.ctx
    let y := s.latch (bayOf core) c.toNat
    exec (.nLoan g l off) s = .next (s.emit 1 rankSample (.micro (.loanRecord (s.here unitN)
        { sh := addrShelf (s.me.regL l.toNat), off := (addrOffset (s.me.regL l.toNat) : Int) + 64 * off.toInt,
          size := 64 } s.me.sup))) ∧
      exec (.nFence g sc) s = .next (s.emit 1 rankLand (.micro (.fenceFrom s.cur.ctx sc.toNat))) ∧
      exec (.nGetA g d l) s = .next (s.land unitN 2 (.n d.toNat (s.me.regA l.toNat))) ∧
      exec (.nGetB g d l) s = .next (s.land unitN 2 (.n d.toNat (s.me.regB l.toNat))) ∧
      exec (.nGetL g d l) s = .next (s.land unitN 2 (.n d.toNat (s.me.regL l.toNat))) ∧
      exec (.nGetD g d x) s = .next (s.land unitN 2 (.n d.toNat (s.me.regD x.toNat))) ∧
      (s.me.gN = true → y.assigned = true → y.part = s.me.part →
        exec (.nBlatch g d c) s = .next (s.land unitN 2 (.n d.toNat y.v)) ∧
        exec (.nBsend g c x) s = .next (s.emit 3 rankDepart
          (.op (.bayLatchWrite (s.here unitN) (bayOf core) c.toNat (s.me.regN x.toNat))))) ∧
      (s.me.gN = true → viewRxv (s.viewEntry core e.toNat) = true →
        exec (.nQsl g e false k) s =
          .next (s.emit 1 rankLand (.micro (.qslApply (s.here unitN) e.toNat false k.toNat))) ∧
        exec (.nQsl g e true k) s =
          .next ((s.emit 1 rankLand (.micro (.qslApply (s.here unitN) e.toNat false k.toNat))).emit 1 (rankPopN + 1)
            (.micro (.qslApply (s.here unitN) e.toNat true k.toNat))) ∧
        (let w := (s.me.regN x.toNat).toNat
         let fs := w % 2 ^ 17
         let fk := w / 2 ^ 32 % 2 ^ 17
         formatInvalid fs = false → formatInvalid fk = false → elemBits fs = elemBits fk →
           elemBits fs = 4 ∨ elemBits fs = 8 ∨ elemBits fs = 16 ∨ elemBits fs = 32 →
           exec (.nQfmt g e x) s = .next (s.emit 0 rankSample (.micro (.shadowWrite s.cur.ctx
             { num := 0x100 + viewRxl (s.viewEntry core e.toNat) * 16 + viewRxq (s.viewEntry core e.toNat)
               v := s.me.regN x.toNat, left := 3 })))))

/-! ### D slots -/

/-- The D command forms with the grant, a guard that holds and a command that passes the rules of Table 11-2 at t+48:
the command is committed with the bundle, and the update that the form names follows. The updates of a d register: from
a clean l register at t+2, the row plus a signed field and the bank plus an unsigned field at t+1, each modulo its
field, the rest kept (R217 to R224, Table 11-1, R226). -/
def Obligations.DramCommands : Prop :=
  ∀ (s : State) (g : Guard) (d : BitVec 4) (u : BitVec 2) (f : BitVec 5), s.me.passes g = true → s.me.gD = true →
    let v := s.me.regD d.toNat
    let sends := fun (i : Instr) (kind : DKind) => ∀ c, (u = 1 → s.me.poisonL f.toNat = false) →
      s.testTimed s.me.part {
        kind := kind, pc := dPc (s.me.regD d.toNat), bank := dBank (s.me.regD d.toNat), row := dRow (s.me.regD d.toNat)
        col := 0, at_ := s.concI + 48, src := .timed (s.here unitD) 0 } 0 = .ok c →
      exec i s = .next ((s.emit 0 rankSample (.micro (.dCommit [c]))).updateD d u f)
    sends (.dAct g d u f) .act ∧ sends (.dPre g d u f) .pre ∧ sends (.dPrea g d u f) .prea ∧
      sends (.dRef g d u f) .ref ∧ sends (.dRefpb g d u f) .refpb ∧ sends (.dSre g d u f) .sre ∧
      sends (.dSrx g d u f) .srx ∧ sends (.dPde g d u f) .pde ∧ sends (.dPdx g d u f) .pdx ∧
      (s.me.poisonL f.toNat = false →
      exec (.dGet d f) s = .next (s.land unitD 2 (.d d.toNat (s.me.regL f.toNat))) ∧
        (∃ r, exec (.dIncRow d f) s = .next (s.land unitD 1 (.d d.toNat r)) ∧
          r.toNat / 2 ^ 24 = v.toNat / 2 ^ 24 ∧
          ((r.toNat % 2 ^ 24 : Nat) : Int) = ((v.toNat % 2 ^ 24 : Nat) + f.toInt) % (2 ^ 24 : Nat)) ∧
        (∃ r, exec (.dIncBank d f) s = .next (s.land unitD 1 (.d d.toNat r)) ∧
          r.toNat % 2 ^ 24 = v.toNat % 2 ^ 24 ∧ r.toNat / 2 ^ 30 = v.toNat / 2 ^ 30 ∧
          r.toNat / 2 ^ 24 % 64 = (v.toNat / 2 ^ 24 + f.toNat) % 64))

/-- The forms with data, the reservation and the controls of a D slot: each, when its commands pass the tests one after
another, commits them with the bundle. Burst j of a `d.rd` then lands at t + Λ_R + j × tCCD_L, burst j of a `d.wr` samples at
t + 1 + j × tCCD_L, each with its command's column and 32 bytes at its place in the shelf; the last burst of the instruction
carries the publish or the release (R228, R231 to R235). A window is in force from t+1 for its partition and pseudo-channel and
leaves every other as it is; of two of one cycle the later stands (R235, log 117). -/
def Obligations.DramData : Prop :=
  (∀ (s : State) (part pc : Nat) (w : BankWindow), pc < 512 → ∃ t,
    step { s with cur := {}, todo := ⟨s.now, rankLand, .micro (.window part pc w)⟩ :: s.todo } = .next t ∧
      t = { s with cur := {}, windows := t.windows } ∧ sget {} t.windows (part * 512 + pc) = w ∧
      ∀ p x, x < 512 → (p ≠ part ∨ x ≠ pc) → sget {} t.windows (p * 512 + x) = sget {} s.windows (p * 512 + x)) ∧
  ∀ (s : State) (g : Guard) (d : BitVec 4) (l : BitVec 5) (cnt : BitVec 6) (n : BitVec 8) (last : Bool)
    (ds : List DCmd), s.me.passes g = true → s.me.gD = true → s.me.poisonL l.toNat = false →
    let v := s.me.regD d.toNat
    let a := s.me.regL l.toNat
    let c := fun (kind : DKind) (n burst : Nat) => s.cmdOf kind v n burst
    let cols := fun (kind : DKind) => (List.range (cnt.toNat + 1)).map (fun j =>
      { c kind (j * s.timing.tCCDL) j with col := addrColumn a + j })
    let sent := s.emit 0 rankSample (.micro (.dCommit ds))
    let burst := fun (j : Nat) (x : DCmd) => ({
      acc := { sh := addrShelf a, off := ((addrOffset a + 32 * j : Nat) : Int), size := 32 }
      pc := x.pc, bank := x.bank, row := x.row, col := x.col, final := j + 1 == ds.length, flag := last, half := false } : Burst)
    let moves := fun (i : Instr) (kind : DKind) (e : Nat → DCmd → Due) =>
      s.testAll s.me.part (addrColumn a + cnt.toNat + 1) 0 (cols kind) = .ok ds →
      ∃ es, exec i s = .next { sent with cur := { sent.cur with buf := sent.cur.buf ++ es } } ∧ es.length = ds.length ∧
        ∀ j x, ds[j]? = some x → es[j]? = some (e j x)
    (∀ u f, (u = 1 → s.me.poisonL f.toNat = false) →
      s.testAll s.me.part 0 0 ((List.range n.toNat).map (fun i => c .reserve i 0)) = .ok ds →
      exec (.dNopReserve d u f n) s = .next (sent.updateD d u f)) ∧
    moves (.dRd g d l cnt last) .rd (fun j x => ⟨s.now + (s.timing.lambdaR + j * s.timing.tCCDL), rankPerform unitD,
      .op (.readBurstLanding (s.here unitD) j (burst j x) 0 false)⟩) ∧
    moves (.dWr g d l cnt last) .wr (fun j x => ⟨s.now + (1 + j * s.timing.tCCDL), rankSample,
      .op (.writeBurstSample (s.here unitD) j (burst j x))⟩) ∧
    (s.me.sup = true → 12 ≤ a.toNat / 2 ^ 8 % 32 → a.toNat / 2 ^ 8 % 32 ≤ 15 →
      s.testAll s.me.part 0 0 [{ c .mrs 0 0 with col := a.toNat / 2 ^ 8 % 32, row := a.toNat % 256 }] = .ok ds →
      exec (.dMrs g d l) s = .next sent) ∧
    (let w : BankWindow := { base := a.toNat % 2 ^ 24, count := a.toNat / 2 ^ 24 % 2 ^ 24 }
     s.me.sup = true → w.base + w.count ≤ 12288 → s.windowClash s.me.part (dPc v) w = false →
      exec (.dWin g d l) s = .next (s.emit 1 rankLand (.micro (.window s.me.part (dPc v) w))))

/-! ### Rows of the issue stage and of contexts -/

/-- ISSUE_SELECTION picks the only ready context of a core that is not deterministic, and its bundle opens;
RETIMING_RELEASE opens the bundle that was held; QUIET_BOUND_EXPIRY raises the quiet-bound trap instead (R34, R126, R326). -/
def Obligations.IssueRows : Prop :=
  ∀ (s : State) (core i : Nat), i < 4 →
    let k := 4 * core + i
    let c := s.ctxAt k
    let opens := fun (r : Out) => ∃ t, r = .next t ∧
      t.cur = { open_ := true, ctx := k, pc := c.pc, words := c.frame.1, idx := 0 } ∧ t.mem = s.mem ∧ t.cores = s.cores ∧
        t.agenda = s.agenda
    (c.bundleFault = none → opens (exec (.retimingRelease k) s)) ∧
    (c.sup = false → ∃ t, exec (.quietBoundExpiry k) s = .next t ∧ (t.ctxAt k).stage = .trap ∧
      (t.ctxAt k).trap = some { cause := 0x10, dfr := false, more := false, pc := c.pc,
                                info := BitVec.ofNat 64 (c.qcount % 2 ^ 32 * 2 ^ 32), at_ := s.now } ∧
      t.mem = s.mem ∧ ∀ j, j ≠ k → t.ctxAt j = s.ctxAt j) ∧
    ((s.coreAt core).det = false → (∀ j, j < 4 → j ≠ i → (s.ctxAt (4 * core + j)).stage = .idle) → c.stage = .run →
      c.resumeAt ≤ s.now → c.closes = [] → c.held = none → c.breaks = [] → c.ev = {} → c.il = false → c.inDelay = false →
      c.bundleFault = none → c.qcount < c.qmax → retiming (c.bundle.headD .kNop) = false → s.otherV k c.bundle = false →
      opens (exec (.issueSelection core) s))

/-- TRAP_ENTRY: `$tpc`, `$tcause` and `$tinfo` take their values, the mode becomes supervisor, the loop stack is empty,
`$rrb` is 0 and the next bundle stands at `$tvec` + 64 × cause; every other register of the context stays as it is, but for
format and tolerance writes that are still in their shadow, which come into force (R65, R339). -/
def Obligations.HandlerEntry : Prop :=
  ∀ (s : State) (k : Nat) (x : TrapInfo), (s.ctxAt k).trap = some x →
    ∃ t, exec (.trapEntry k) s = .next t ∧
      (let c := s.ctxAt k
       let d := t.ctxAt k
       d.stage = .run ∧ d.sup = true ∧ d.tpc = x.pc ∧ d.tinfo = x.info ∧
         d.tcause = BitVec.ofNat 8 (x.cause % 64 + 64 * x.dfr.toNat + 128 * x.more.toNat) ∧
         d.pc = c.tvec + BitVec.ofNat 32 (64 * x.cause) ∧ d.loops = [] ∧ d.rrb = 0 ∧ d.ra = c.ra ∧ d.rb = c.rb ∧
         d.rn = c.rn ∧ d.rd = c.rd ∧ d.rl = c.rl ∧ d.lp = c.lp ∧ d.preds = c.preds ∧ d.lk = c.lk ∧ d.vl = c.vl ∧
         d.shelves = c.shelves ∧ d.toks = c.toks ∧ d.record = c.record ∧ d.qrec = c.qrec ∧ d.tvec = c.tvec ∧
         d.masks = c.masks ∧ d.bts = c.bts ∧ d.qmax = c.qmax ∧ d.stat = c.stat ∧ d.sides = c.sides ∧ d.il = c.il ∧
         d.cls = c.cls ∧ d.partWord = c.partWord ∧ d.shadow = [] ∧
         ((∀ w ∈ c.shadow, w.num ≠ 0x00B) → d.fa = c.fa) ∧ ((∀ w ∈ c.shadow, w.num ≠ 0x00C) → d.fb = c.fb) ∧
         ((∀ w ∈ c.shadow, w.num ≠ 0x00D) → d.fc = c.fc) ∧
         (∀ e, e < 16 → (∀ w ∈ c.shadow, w.num ≠ 0x20 + e) → sget 0 d.tol e = sget 0 c.tol e) ∧
         (∀ w ∈ c.shadow, (c.shadow.filter (fun y => y.num == w.num)) = [w] →
           (w.num = 0x00B → d.fa = w.v.setWidth 32) ∧ (w.num = 0x00C → d.fb = w.v.setWidth 32) ∧
           (w.num = 0x00D → d.fc = w.v.setWidth 32) ∧ ∀ e, e < 16 → w.num = 0x20 + e → sget 0 d.tol e = w.v)) ∧
      (∀ j, j ≠ k → t.ctxAt j = s.ctxAt j) ∧ t.mem = s.mem ∧ t.cores = s.cores

/-- RESUMPTION_FROM_RECORD gives the context every item of its quiet record, in user mode, a shelf's descriptor only where the
context changed it, and nothing to its masks (R35); where it loads the stationary operand again from bytes whose error the code
does not correct, the half's poison flag is set besides (R354; the model's choice, log 28). CONTEXT_END frees the slot with its
loans (R139). CONTEXT_SAVE begins the write of the save area at the context's save address, under the root of its launch and at
its class; while that is under way it waits, and when it has ended the slot is free and the context is kept among the saved
ones; a page that refused ends the launch (R348). That the write is an access of the steward through the open-slot issuer is the
model's choice (log 11), and so are its bytes where Table 17-5 leaves them open (log 25). -/
def Obligations.ContextRows : Prop :=
  ∀ (s : State) (k : Nat),
    let c := s.ctxAt k
    (∃ t, exec (.resumptionFromRecord k) s = .next t ∧
      (let d := t.ctxAt k
       let r := c.record
       d.stage = .run ∧ d.sup = false ∧ d.pc = r.pc ∧ d.preds = r.preds ∧ d.lk = r.lk ∧ d.loops = r.loops ∧ d.bts = r.bts ∧
         d.rrb = r.rrb ∧ d.ra = r.ra ∧ d.rb = r.rb ∧ d.rn = r.rn ∧ d.rd = r.rd ∧ d.rl = r.rl ∧ d.lp = r.lp ∧ d.vl = r.vl ∧
         d.fa = r.fa ∧ d.fb = r.fb ∧ d.fc = r.fc ∧ d.tol = r.tol ∧ d.stat = r.stat ∧ d.toks = r.toks ∧ d.qmax = r.qmax ∧
         d.masks = c.masks ∧ d.tvec = c.tvec ∧ d.tpc = c.tpc ∧ d.tinfo = c.tinfo ∧
         ∀ i, i < 64 →
           let e := if c.changed.getLsbD i then sget {} r.shelves i else c.shelf i
           ((s.coreAt (coreOf k)).poolBad = [] → d.shelf i = e) ∧ { d.shelf i with fp := e.fp, bp := e.bp } = e ∧
             (e.fp = true → (d.shelf i).fp = true) ∧ (e.bp = true → (d.shelf i).bp = true)) ∧
      (∀ j, j ≠ k → t.ctxAt j = s.ctxAt j) ∧ t.mem = s.mem) ∧
    (∃ t, exec (.contextEnd k) s = .next t ∧ (t.ctxAt k).stage = .idle ∧ (∀ l ∈ t.loans, l.owner ≠ .context k) ∧
      (∀ j, j ≠ k → t.ctxAt j = s.ctxAt j) ∧ t.mem = s.mem) ∧
    (c.saveStatus = none → c.saveJob = none →
      let area := (s.flushShadow k).saveArea k
      ∃ t l, exec (.contextSave k) s = .next t ∧ t.mem = s.mem ∧ t.loans = s.loans ++ [l] ∧ l.owner = .job (.save k c.uid) ∧
        l.span = (c.saveVA, area.length) ∧ l.part = c.part ∧ l.root = s.rootOf k ∧ l.cls = c.cls.toNat ∧ l.phys = false ∧
        (∀ i b, area[i]? = some b → sget 0 l.data (c.saveVA + i) = b) ∧ (t.ctxAt k).saveJob = some l.id ∧
        (t.ctxAt k).stage = c.stage ∧ ∀ j, j ≠ k → t.ctxAt j = s.ctxAt j) ∧
    (c.saveStatus = none → c.saveJob ≠ none → exec (.contextSave k) s = .next s) ∧
    (c.saveStatus = some 0 → ∃ t, exec (.contextSave k) s = .next t ∧ (t.ctxAt k).stage = .idle ∧ t.mem = s.mem ∧
      (∀ j, j ≠ k → t.ctxAt j = s.ctxAt j) ∧ (∀ l ∈ t.loans, l.owner ≠ .context k) ∧
      ∃ v ∈ t.saved, v.key = k ∧ v.ctx.stage = .saved ∧ v.ctx.record = c.record ∧ v.ctx.launch = c.launch ∧
        v.ctx.log = c.log ∧ v.ctx.shelves = c.shelves ∧ v.ctx.masks = c.masks) ∧
    ∀ n l, c.saveStatus = some n → n ≠ 0 → s.launches.find? (fun l => l.id == c.launch) = some l →
      ∃ t, exec (.contextSave k) s = .next t ∧ t.mem = s.mem ∧ (∀ m ∈ t.launches, m.id = c.launch → m.forced = true) ∧
        (∀ v ∈ t.saved, v.ctx.launch ≠ c.launch) ∧
        ∀ j ∈ l.ctxs, (∀ v ∈ s.saved, v.ctx.launch = c.launch → v.key ≠ j) → (t.ctxAt j).stage = .stopped

/-! ### Rows of the array -/

/-- STATIONARY_LOAD_COMPLETE: the array holds a valid operand of the context, under the descriptor that the context now holds.
ARRAY_ROW_UPDATE of any `m.mul` whose operand and prior rows are there: the new row is the products, with `.acc` added to the
accumulator's row and with `.pch` or `.pq` to the row that comes in, rounded once in the F group and modulo its width in the I
group. Its 128 words go to the row's bytes and the last to the margin strip, the high halves of `.wide` to the next accumulator;
every other byte of the pools keeps its value. A result that is forwarded writes no accumulator; the last row of a chained A
takes the column margins that its partner has by then (R202, R205 to R207). What it multiplies comes so: the header of a shelf
operand is read under the four tests of R200 and gives the valid rows and columns; row i is the codes and block scales that the
folio then holds there, 0 past the valid rows, and row 128 its column margins; a chain operand takes its partner's row and traps
without one; a flit of a queue is a row of A, or of P with its margin, and the later flits hold sixteen column margins each. The
stationary operand has the codes of the folio's valid lines, transposed where the form does not say so, and zeros beside them;
in which cycle a load reads a line is a free choice of Config (R200 to R202, R205, R206, log 8); that the readers see no later
error is log 116. -/
def Obligations.ArrayRows : Prop :=
  (∀ (s : State) (o : Origin) (m : MulOp) (i : Nat), s.loadOf o = none → s.mulOf o = some m → (s.ctxAt o.ctx).stage = .run →
    let core := coreOf o.ctx
    let c := s.ctxAt o.ctx
    let bits := elemBits m.fa.toNat
    let field := fun (x w k : Nat) => x / 2 ^ (w * k) % 2 ^ w
    let runs := fun (x : Micro) (p : State → Prop) => ∃ t,
      step { s with cur := {}, todo := ⟨s.now, rankSample, .micro x⟩ :: s.todo } = .next t ∧ p t ∧ t.mem = s.mem ∧
        (∀ n b, t.poolByte n b = s.poolByte n b) ∧ ∀ k, k ≠ o.ctx → t.ctxAt k = s.ctxAt k
    let traps := fun (cause : Nat) (info : Reg) (t : State) =>
      ((t.ctxAt o.ctx).deferred.drop c.deferred.length).map (fun d => (d.cause, d.pc, d.info)) = [(cause, o.pc, info)]
    let takes := fun (rank : Nat) (next : Option Micro) (p : MulOp → Prop) (t : State) =>
      (∃ x, t.mulOf o = some x ∧ p x) ∧ ∀ e, next = some e → ⟨s.now + 1, rank, .micro e⟩ ∈ t.agenda
    let isRow := fun (a iv i : Nat) (r : MRow) => r.codes.length = 128 ∧
      (∀ j, j < 128 → r.codes[j]? = some (if i < iv then
        field (leNat (s.poolRead core (a + 64 + 16 * bits * i) (16 * bits))) bits j else 0)) ∧
      r.scales = if isBlock m.fa.toNat then (s.poolRead core (a + 64 + 2048 * bits + 4 * i) 4).map (fun b => b.toNat)
        else [0x7F, 0x7F, 0x7F, 0x7F]
    let more := if i < 128 then some (.streamRow o (i + 1)) else none
    (∀ acc, m.a = .shelf acc →
      (i < 128 → runs (.streamRow o i) (takes rankSample more (fun x => x = { m with arows := x.arows } ∧
        (∃ r, sget none x.arows i = some r ∧ isRow m.addr m.iv i r) ∧ ∀ j, j ≠ i → sget none x.arows j = sget none m.arows j))) ∧
      (i = 128 → runs (.streamRow o i) (takes rankSample none (fun x => x = { m with amargin := x.amargin } ∧
        x.amargin.length = 128 ∧ ∀ j, j < 128 → x.amargin[j]? = some (leNat (((s.poolRead core
          (m.addr + 64 + 2048 * bits + (if isBlock m.fa.toNat then 512 else 0) + 512) 512).drop (4 * j)).take 4))))) ∧
      (∀ f, (s.readCheck o.ctx acc 64).2 = some f →
        runs (.folioHeader o false) (traps f.cause (f.info acc.sh 0 o.unit 0 0 acc.off))) ∧
      ((s.readCheck o.ctx acc 64).2 = none →
        let a := c.accessAddr acc false
        let h := leNat ((s.poolRead core a 64).take 8)
        let rows := h / 2 ^ 32 % 256
        let cols := h / 2 ^ 40 % 256
        let good := h % 32 = fwCode m.fa.toNat ∧ 1 ≤ rows ∧ rows ≤ 128 ∧ 1 ≤ cols ∧ cols ≤ 128
        (¬ good → runs (.folioHeader o false) (traps 0x01 (infoIllegal o.word o.slot { why := 7, detail := 8 }))) ∧
        (good → runs (.folioHeader o false) (takes rankSample (some (.streamRow o 1)) (fun x =>
          x = { m with addr := a, kv := cols, iv := rows, amc := h.testBit 49, arows := x.arows } ∧
          ∃ r, sget none x.arows 0 = some r ∧ isRow a rows 0 r))))) ∧
    (m.a = .chain →
      (s.partner o = none → runs (.streamRow o i) (traps 0x08 (infoNet 6 0 0 0 s.concI))) ∧
      (∀ p, s.partner o = some p →
        (p.af = false → runs (.streamRow o i) (traps 0x08 (infoNet 6 0 0 0 s.concI))) ∧
        (i < 128 → sget none p.arows i = none → runs (.streamRow o i) (traps 0x08 (infoNet 6 0 0 0 s.concI))) ∧
        (∀ r, i < 128 → p.af = true → sget none p.arows i = some r → runs (.streamRow o i) (takes rankSample more (fun x =>
          x = { m with arows := x.arows, kv := p.kv, iv := p.iv } ∧ sget none x.arows i = some r))) ∧
        (i = 128 → p.af = true → runs (.streamRow o i) (takes rankSample none (fun x =>
          x = { m with amargin := p.amargin, amc := p.amc }))))) ∧
    (∀ (e : Nat) (second : Bool), (if second then m.p else m.a) = .queue e →
      let fw := if second then m.wp.2.toNat else m.fa.toNat
      let w := min 128 (512 / elemBits fw)
      let popped := (s.pop o.ctx e (some (if i < 128 then (1, some i) else (2, some (i - 128)))) false
        (some (if second then m.wp else m.wa))).2
      (∀ cause info, popped = .error (cause, info) → runs (.popRow o i second) (traps cause info)) ∧
      (∀ f, popped = .ok f → i < 136 → runs (.popRow o i second) (takes rankPop
        (if i + 1 = 128 + w / 16 then none else some (.popRow o (i + 1) second)) (fun x =>
          let code := fun (k : Nat) => field f.data.toNat (elemBits fw) k
          (i < 128 → second = false → ∃ r : MRow, sget none x.arows i = some r ∧ r.scales = flitScales f ∧
            ∀ k, k < 128 → r.codes[k]? = some (if k < w then code k else 0)) ∧
          (i < 128 → second = true → sget [] x.prows i = (List.range 128).map (fun k =>
            if k < w then rne32 (valOf fw (code k)) else 0) ++ [flitMargin f]) ∧
          (128 ≤ i → ∀ k, k < 16 → (if second then x.pmargin else x.amargin)[16 * (i - 128) + k]? =
            some (field f.data.toNat 32 k))))))) ∧
  (∀ (s : State) (o : Origin) (l : LoadOp) (i : Nat), s.loadOf o = some l →
    let core := coreOf o.ctx
    let bits := elemBits l.fb.toNat
    ∃ t x, step { s with cur := {}, todo := ⟨s.now, rankSample, .micro (.streamRow o i)⟩ :: s.todo } = .next t ∧
      t.loadOf o = some x ∧ t.mem = s.mem ∧ (i < 127 → ⟨s.now + 1, rankSample, .micro (.streamRow o (i + 1))⟩ ∈ t.agenda) ∧
      ∀ r, r < 128 →
        (Config.readCycle r % 128 = i → (sget [] x.lines r).length = 128 ∧ ∀ k, k < 128 → (sget [] x.lines r)[k]? =
          some (leNat (s.poolRead core (l.addr + 64 + 16 * bits * r) (16 * bits)) / 2 ^ (bits * k) % 2 ^ bits)) ∧
        (Config.readCycle r % 128 ≠ i → sget [] x.lines r = sget [] l.lines r)) ∧
  (∀ (s : State) (o : Origin) (l : LoadOp), s.loadOf o = some l → (∀ r, r < 128 → (sget [] l.lines r).length = 128) →
    l.rv ≤ 128 → l.cv ≤ 128 → ∃ t, exec (.stationaryLoadComplete o) s = .next t ∧
      ∀ j k, j < 128 → k < 128 → ∃ row, (t.coreAt (coreOf o.ctx)).array.codes[j]? = some row ∧
        row[k]? = if j < (if l.tr then l.rv else l.cv) ∧ k < (if l.tr then l.cv else l.rv) then
          (if l.tr then (sget [] l.lines j)[k]? else (sget [] l.lines k)[j]?) else some 0) ∧
  ∀ (s : State) (o : Origin),
    let core := coreOf o.ctx
    let c := s.ctxAt o.ctx
    (∀ l, s.loadOf o = some l →
      ∃ t, exec (.stationaryLoadComplete o) s = .next t ∧ (t.coreAt core).array.valid = true ∧
        (t.coreAt core).array.owner = c.uid ∧ (t.coreAt core).array.desc = (t.ctxAt o.ctx).stat ∧
        (t.coreAt core).array.kv = (if l.tr then l.cv else l.rv) ∧
        (t.coreAt core).array.jv = (if l.tr then l.rv else l.cv) ∧ (t.coreAt core).load = none ∧
        (∀ b, t.poolByte core b = s.poolByte core b) ∧ t.mem = s.mem ∧ ∀ j, j ≠ o.ctx → t.ctxAt j = s.ctxAt j) ∧
    (∀ n i p, s.mulOf o = some n →
      let m := if i = 128 then s.chainMargin n else n
      s.pRow m i = some p → i ≤ 128 →
      let ps := m.products i
      let w := if m.wide then 64 else 32
      let add := fun (x y : Nat) => if isInt m.fa.toNat then (x + y) % 2 ^ w else rne32 ((val32 x).add (val32 y))
      let out := if m.pin = 0 then ps else List.zipWith add (if m.pin = 1 then s.zRow o.ctx m.z i m.wide else p) ps
      let row := fun (z : Nat) => c.zBase z + 512 * i
      ∃ t, exec (.arrayRowUpdate o i) s = .next t ∧ t.mem = s.mem ∧ (∀ j, j ≠ o.ctx → t.ctxAt j = s.ctxAt j) ∧
        (∀ n b, n ≠ core → t.poolByte n b = s.poolByte n b) ∧
        (m.pf = true → (∀ b, t.poolByte core b = s.poolByte core b) ∧ t.ctxAt o.ctx = c ∧
          ∃ m', t.mulOf o = some m' ∧ m'.outs.lookup i = some out) ∧
        (m.pf = false →
          (∀ b, (i = 128 ∨ b < row m.z ∨ row m.z + 512 ≤ b) →
            (m.wide = true → i = 128 ∨ b < row (m.z + 1) ∨ row (m.z + 1) + 512 ≤ b) → t.poolByte core b = s.poolByte core b) ∧
          ∀ j x, out[j]? = some x →
            (i < 128 → j < 128 → (∀ b, b < 4 → t.poolByte core (row m.z + 4 * j + b) = BitVec.ofNat 8 (x % 2 ^ 32 / 256 ^ b)) ∧
              (m.wide = true → ∀ b, b < 4 →
                t.poolByte core (row (m.z + 1) + 4 * j + b) = BitVec.ofNat 8 (x / 2 ^ 32 / 256 ^ b))) ∧
            (∀ e, (i < 128 ∧ j = 128 ∧ e = i) ∨ (i = 128 ∧ j < 129 ∧ e = 128 + j) →
              sget 0 ((t.ctxAt o.ctx).side m.z).strip e = BitVec.ofNat 32 x ∧
              (m.wide = true → sget 0 ((t.ctxAt o.ctx).side (m.z + 1)).strip e = BitVec.ofNat 32 (x / 2 ^ 32)))))

/-- The rows of a drain: DRAIN_ROW_READ keeps the accumulator's row; DRAIN_VERDICT without disagreement lets the rows be
written from t+264 and reports nothing; ELEMENT_RECOMPUTE puts the value into the row and, unless an update prevails, into
the accumulator, of which it writes nothing else; DRAIN_ROW_WRITE stores the converted row, codes and block scales, at its place in
the folio, or sends it as a flit on the queue's link; DRAIN_COMPLETE stores the margins (R208 to R212). That a recompute reads the
header, one line's codes and its scales of each source, and finds errors by those bytes alone, is the model's choice (logs 28, 116). -/
def Obligations.DrainRows : Prop :=
  ∀ (s : State) (o : Origin) (d : DrainOp), s.drainOf o = some d →
    let core := coreOf o.ctx
    (∀ i, ∃ t, exec (.drainRowRead o i) s = .next t ∧
      (∃ e, t.drainOf o = some e ∧ e.rows.lookup i = some (s.zRow o.ctx d.z i d.wide)) ∧ t.mem = s.mem ∧
        (∀ n b, t.poolByte n b = s.poolByte n b) ∧ t.ctxs = s.ctxs) ∧
    (d.verdict = ([], [], false) → exec (.drainVerdict o) s =
      .next (if d.chk then s else s.after 128 (rankPerform unitM) (.op (.drainRowWrite o 0)))) ∧
    (∀ i j hs v, d.fix = some (i, j) → d.side.hist = some hs → (s.recompute o d.wide i j hs 0).2 = some v → i < 128 →
      let d' := { d with rows := sput d.rows i (((d.rows.lookup i).getD []).set j v) }
      let col := (List.range 129).map (fun k => (d'.row k).getD j Sys2Proof.Machine.Num.zero)
      d'.test ((d'.row i).take 128) ((d'.row i).getD 128 Sys2Proof.Machine.Num.zero) = false →
      d'.test (col.take 128) (col.getD 128 Sys2Proof.Machine.Num.zero) = false →
      ∃ t, exec (.elementRecompute o) s = .next t ∧ t.drainOf o = some d' ∧ t.mem = s.mem ∧
        (d.late.contains i = false → d.wide = false → j < 128 →
          let at_ := (s.ctxAt o.ctx).zBase d.z + 512 * i + 4 * j
          (∀ b, b < 4 → t.poolByte core (at_ + b) = BitVec.ofNat 8 (v % 2 ^ 32 / 256 ^ b)) ∧
          ∀ b, b < at_ ∨ at_ + 4 ≤ b → t.poolByte core b = s.poolByte core b)) ∧
    (∀ i, i < 128 → d.lq = none → s.writeCheck o.ctx d.acc 64 = none →
      let fc := d.fc.toNat
      let c := convertRow fc ((d.row i).take 128) d.side.grpI
      let at_ := fun (off : Nat) => (s.ctxAt o.ctx).accessAddr { d.acc with off := d.acc.off + (off : Int) } true
      c.ok = true →
      ∃ t, exec (.drainRowWrite o i) s = .next t ∧ t.mem = s.mem ∧ t.ctxs = s.ctxs ∧
        (∀ b, b < 16 * elemBits fc →
          t.poolByte core (at_ (rowOff fc i) + b) = BitVec.ofNat 8 (packRun (elemBits fc) c.codes / 256 ^ b)) ∧
        (isBlock fc = true → ∀ b, b < 4 →
          t.poolByte core (at_ (scaleOff fc i) + b) = BitVec.ofNat 8 (packRun 8 c.scales / 256 ^ b))) ∧
    (∀ e i, d.lq = some e →
      let fc := d.fc.toNat
      let v := s.viewEntry core e
      let x := s.link (viewTxl v)
      let c := convertRow fc ((d.row i).take 128) d.side.grpI
      let w := flitWidth fc
      let leaves := fun (f : Flit) => ∃ t, exec (.drainRowWrite o i) s = .next t ∧ t.mem = s.mem ∧ t.cores = s.cores ∧
        t.ctxs = s.ctxs ∧ (t.link (viewTxl v)).sent = x.sent ++ [sealFlit f x.seqOut] ∧ s.concI ∈ (t.link (viewTxl v)).departs
      x.st = 2 → s.departFault (s.ctxAt o.ctx).part (viewTxl v) s.concI = none →
      (i < 128 → c.ok = true → leaves (makeFlit (packRun (elemBits fc) (c.codes.take w))
        (marginOf (isInt fc) (d.valid i c.vals)) (c.scales.take (w / 32)) (viewTxq v) 1 i d.side.jv s.concI)) ∧
      (128 ≤ i → leaves (makeFlit (packRun 32 ((d.margins.drop (16 * (i - 120))).take 16))
        (if i - 127 = w / 16 then d.margins.getD 256 0 else 0) [] (viewTxq v) 2 (i - 128) d.side.jv s.concI))) ∧
    (d.chk = false → d.lq = none → s.writeCheck o.ctx d.acc 64 = none →
      let a := (s.ctxAt o.ctx).accessAddr { d.acc with off := d.acc.off + (marginOff d.fc.toNat 0 : Nat) } true
      ∃ t, exec (.drainComplete o) s = .next t ∧ t.drainOf o = none ∧ t.mem = s.mem ∧
        ∀ j x, d.margins[j]? = some x → ∀ b, b < 4 → t.poolByte core (a + 4 * j + b) = BitVec.ofNat 8 (x / 256 ^ b))

/-! ### Rows of HBM4 -/

/-- COMMAND_ARRIVAL of a timed write stores the burst's 32 bytes and nothing else, of a timed read gives the landing the 32
bytes as they stand, of a refresh lowers debts by 1 to no lower than −8. READ_BURST_LANDING stores the burst in the back
half; WRITE_BURST_SAMPLE keeps the bytes of the front half for the arrival, with a release the bytes of the half that its
first sample named. COMMAND_ARRIVAL of a granule request's column command performs the request in one step: a read answers
with the granule's bytes at its last column, a write stores its bytes, an atomic what Table 12-7 makes of the old value,
which it answers with, and an add the sum, at the first. OPEN_SLOT_ISSUE places the best command that the rules allow in the
next cycle when that cycle is the issuer's (R192, R231, R232, R262, R263, R278, R281, R296 to R299). That an atomic and an add take
effect whole at the first column command (log 51), that a write merges into the columns as they stand in that step (log 50), and
that each pseudo-channel has queues of its own and places its own command in a cycle (log 128), is the model's choice. -/
def Obligations.DramRows : Prop :=
  ∀ (s : State) (o : Origin) (j : Nat) (b : Burst) (c : DCmd),
    let dpa := dpaOf c.pc c.bank c.row c.col
    (∀ data bad, c.kind = .wr → c.src = .timed o j →
      s.wrData.find? (fun e => e.1 == o && e.2.1 == j) = some (o, j, data, bad) →
      ∃ t, exec (.commandArrival c) s = .next t ∧
        (∀ i, i < 32 → t.memByte (dpa + i) = BitVec.ofNat 8 (data.toNat / 256 ^ i)) ∧
        (∀ a, a < dpa ∨ dpa + 32 ≤ a → t.memByte a = s.memByte a) ∧ t.colBad dpa = bad ∧ t.ctxs = s.ctxs ∧
        t.cores = s.cores) ∧
    (∀ at_ rank, c.kind = .rd → c.src = .timed o j →
      ⟨at_, rank, .op (.readBurstLanding o j b 0 false)⟩ ∈ s.agenda →
      ∃ t, exec (.commandArrival c) s = .next t ∧ t.mem = s.mem ∧ t.ctxs = s.ctxs ∧ t.cores = s.cores ∧
        ⟨at_, rank, .op (.readBurstLanding o j b (BitVec.ofNat 256 (leNat (s.memRead dpa 32))) (s.colBad dpa))⟩ ∈
          t.agenda) ∧
    (c.kind = .refpb ∨ c.kind = .ref →
      ∃ t, exec (.commandArrival c) s = .next t ∧ t.mem = s.mem ∧
        ∀ n, n < 32 → (c.kind = .refpb → n = c.bank) →
          sget 0 (t.pseudo c.pc).debt n = max (sget 0 (s.pseudo c.pc).debt n - 1) (-8)) ∧
    (∀ data poison, s.writeCheck o.ctx b.acc 32 = none →
      let a := (s.ctxAt o.ctx).accessAddr b.acc true
      ∃ t, exec (.readBurstLanding o j b data poison) s = .next t ∧ t.mem = s.mem ∧
        (∀ i, i < 32 → t.poolByte (coreOf o.ctx) (a + i) = BitVec.ofNat 8 (data.toNat / 256 ^ i)) ∧
        (∀ n x, n ≠ coreOf o.ctx ∨ x < a ∨ a + 32 ≤ x → t.poolByte n x = s.poolByte n x) ∧
        ∀ k, k ≠ o.ctx → t.ctxAt k = s.ctxAt k) ∧
    (let half := if j = 0 then ((s.ctxAt o.ctx).shelf b.acc.sh).physical false else b.half
     (if b.flag && j != 0 then (s.readNamed o.ctx b.acc 32 half b.freed).2 else (s.readCheck o.ctx b.acc 32).2) = none →
      ∃ t, exec (.writeBurstSample o j b) s = .next t ∧ t.mem = s.mem ∧ (∀ n x, t.poolByte n x = s.poolByte n x) ∧
        t.wrData = s.wrData ++ [(o, j, BitVec.ofNat 256 (leNat (if b.flag then s.namedBytes o.ctx b.acc half
          else s.shelfBytes o.ctx b.acc)), false)] ∧
        ∀ k, k ≠ o.ctx → t.ctxAt k = s.ctxAt k) ∧
    (∀ id col r, c.kind = .rd ∨ c.kind = .wr → c.src = .request id col →
      (s.pseudo c.pc).queue.find? (fun r => r.id == id) = some r →
      let performs := fun (p : State → Prop) => ∃ t, exec (.commandArrival c) s = .next t ∧ p t ∧ t.ctxs = s.ctxs ∧
        t.cores = s.cores ∧ t.launches = s.launches
      let answers := fun (t : State) bs bad => ⟨s.now, rankUntimed, .micro (.answer r.owner id bs bad 0)⟩ ∈ t.todo
      (r.kind = .read → col = 1 → performs (fun t => t.mem = s.mem ∧
        answers t (s.memRead r.dpa 64) ([0, 1].filter (fun k => s.colBad (r.dpa + 32 * k))))) ∧
      (∀ bytes poison, r.kind = .write bytes poison → col = 0 → (bytes.map (fun e => e.1)).Nodup → (∀ e ∈ bytes, e.1 < 64) →
        performs (fun t => (∀ e ∈ bytes, t.memByte (r.dpa + e.1) = e.2) ∧
          (∀ a, (∀ e ∈ bytes, a ≠ r.dpa + e.1) → t.memByte a = s.memByte a) ∧ answers t [] [])) ∧
      (∀ op off z ty v cmp, r.kind = .atomic op off z ty v cmp → col = 0 → off + z ≤ 64 →
        let old := s.memRead (r.dpa + off) z
        performs (fun t =>
          (∀ a, a < r.dpa + off ∨ r.dpa + off + z ≤ a → t.memByte a = s.memByte a) ∧
          (∀ x, atomicNew op ty z (leNat old) v cmp = some x →
            ∀ i, i < z → t.memByte (r.dpa + off + i) = BitVec.ofNat 8 (x / 256 ^ i)) ∧
          (atomicNew op ty z (leNat old) v cmp = none → t.mem = s.mem) ∧
          ∃ bad, answers t old bad)) ∧
      ∀ off z ty v poison, r.kind = .accumulate z ty [(off, v)] poison → col = 0 → off + z ≤ 64 →
        let old := leNat (s.memRead (r.dpa + off) z)
        performs (fun t =>
          (∀ a, a < r.dpa + off ∨ r.dpa + off + z ≤ a → t.memByte a = s.memByte a) ∧
          ∀ i, i < z → t.memByte (r.dpa + off + i) = BitVec.ofNat 8
            ((if ty = 2 then rne32 ((val32 (old % 2 ^ (8 * z))).add (val32 (v % 2 ^ (8 * z))))
              else (old + v) % 2 ^ (8 * z)) / 256 ^ i))) ∧
    (∀ pc, s.slotFree pc (s.concI + 1) = true →
      (candidates pc (s.concI + 1) (s.pseudo pc) (s.channelOpen pc)).find? (fun x => (s.refusedBy x).isNone) = some c →
      exec (.openSlotIssue pc) s = .next ((s.modPseudo pc (fun p => progress p c)).commitCmd c))

/-- REFRESH_DEBT_GAIN: the debt of a bank below 8 rises by 1 unless its channel is in self-refresh, or leaves it in this very
cycle. SELF_REFRESH_TIMER: a channel whose timer has run out takes SRE in the next cycle where the rules allow it.
REFRESH_RATE_CHANGE: the new interval, the table's or half of it, holds from the next multiple of the half, and every live
context with the D grant gets the event (R298, R301, R302). That the timer counts from the start of the device where no command
has come, and that a channel whose SRE the rules refuse tries again in the next cycle, is the model's choice (logs 13 and 69). -/
def Obligations.RefreshRows : Prop :=
  ∀ s : State,
    (∃ t, exec .refreshDebtGain s = .next t ∧ t.mem = s.mem ∧
      ∀ pc b, pc < 512 → b < 32 → sget 0 (s.pseudo pc).debt b < 8 →
        inSelfRefresh ((s.pseudo pc).hist.filter (fun c => decide (c.at_ ≤ s.concI))) = false →
        inSelfRefresh ((s.pseudo pc).hist.filter (fun c => decide (c.at_ < s.concI))) = false →
        sget 0 (t.pseudo pc).debt b = sget 0 (s.pseudo pc).debt b + 1) ∧
    (∃ t, exec .selfRefreshTimer s = .next t ∧ t.mem = s.mem ∧
      ∀ ch, ch < 256 → s.idleLong ch = true →
        s.refusedBy { kind := .sre, pc := 2 * ch, bank := 0, row := 0, col := 0, at_ := s.concI + 1,
                      src := .request 0 0 } = none →
        ∃ x ∈ (t.pseudo (2 * ch)).hist, x.kind = .sre ∧ x.at_ = s.concI + 1) ∧
    ∀ double, ∃ t, exec (.refreshRateChange double) s = .next t ∧ t.mem = s.mem ∧
      (let half := s.timing.tREFI / 2
       let from_ := (s.conc / half + 1) * half
       t.refiNext = some ((from_ : Int), if double then half else s.timing.tREFI) ∧
       ∀ k, (s.ctxAt k).gD = true → (s.ctxAt k).present = true →
        (t.ctxAt k).ev.refresh = some (BitVec.ofNat 64 (double.toNat + from_ % 2 ^ 32 * 2 ^ 32)))

/-! ### Rows of the links -/

/-- Flits on a link that is up. FLIT_DEPARTURE sends the flit with the next sequence number and keeps it. FLIT_ARRIVAL of a
good first copy is acknowledged, and its sequence number enters the stage: with the flit and its nominal arrival where the in
entry is OWN, or FWD for another queue, or the flit is a packet's; without it where an OPEN entry drops the flit, which is
counted, where it comes too late for a FWD entry, or where it passes through, and then it departs 8 cycles later. A second
copy is only acknowledged, a bad one refused. REPLAY sends the waiting flit again; RECEIVE_ORDER_PASS moves the next flit to
its queue, which at 64 flits overflows. PASS_THROUGH of a held flit sends it with its payload as it is when the out entry is
its FWD entry and no departure takes the cycle, and lets it go otherwise. LINK_DOWN drops what is under way and keeps the
queues. A link that is not up carries nothing. RECV_SHELF_WRITE stores the 64 bytes of a flit; BAY_LATCH_WRITE changes the one
latch (R242, R244, R247, R250, R374, R376, R378 to R381, R384, R385). That a held flit whose out entry has changed is dropped,
and that the far device's room counts as none after a link down, is the model's choice (log 97). -/
def Obligations.LinkRows : Prop :=
  ∀ (s : State) (l : Nat) (f : Flit) (o : Origin),
    let x := s.link l
    (x.st = 2 →
      (∃ t, exec (.flitDeparture l f) s = .next t ∧ (t.link l).sent = x.sent ++ [sealFlit f x.seqOut] ∧
        (t.link l).unacked = x.unacked ++ [(x.seqOut, sealFlit f x.seqOut)] ∧ (t.link l).seqOut = x.seqOut + 1 ∧
        t.mem = s.mem ∧ t.ctxs = s.ctxs) ∧
      (flitGood f = true → x.taken (flitSeq f) = false →
        let nom := departureOf s.concI x.lam (flitDep f) + x.lam
        let e := inEntryAt x nom
        let enters := fun (kept : Option (Int × Flit)) (drops : Nat) (p : State → Prop) =>
          ∃ t, exec (.flitArrival l f) s = .next t ∧ (t.link l).acks = x.acks ++ [(flitSeq f, true)] ∧
            (t.link l).stage = x.stage ++ [(flitSeq f, kept)] ∧ (t.link l).dropped = x.dropped + drops ∧ p t ∧
            ⟨s.now, rankArrive, .op (.receiveOrderPass l)⟩ ∈ t.todo ∧ (t.link l).queues = x.queues ∧
            t.ctxs = s.ctxs ∧ t.mem = s.mem
        let stays := fun (t : State) => (t.link l).passing = x.passing
        (flitKind f = 3 ∨ e.kind = 0 ∨ (e.kind = 1 ∧ flitTxq f ≠ e.fq) → enters (some (nom, f)) 0 stays) ∧
        (flitKind f ≠ 3 → 1 < e.kind → enters none 1 stays) ∧
        (flitKind f ≠ 3 → e.kind = 1 → flitTxq f = e.fq →
          (s.concI ≠ nom → enters none 0 stays) ∧
          (s.concI = nom → enters none 0 (fun t => (t.link l).passing = x.passing ++ [(e.fl, s.now + 8, f)] ∧
            ⟨s.now + 8, rankDepart, .op (.passThrough e.fl f)⟩ ∈ t.agenda)))) ∧
      (flitGood f = true → x.taken (flitSeq f) = true → ∃ t, exec (.flitArrival l f) s = .next t ∧
        (t.link l).acks = x.acks ++ [(flitSeq f, true)] ∧ (t.link l).stage = x.stage ∧ t.mem = s.mem) ∧
      (flitGood f = false → ∃ t, exec (.flitArrival l f) s = .next t ∧
        (t.link l).acks = x.acks ++ [(flitSeq f, false)] ∧ (t.link l).stage = x.stage ∧ t.mem = s.mem) ∧
      (∀ q r, x.nacks = q :: r → ∃ t, exec (.replay l) s = .next t ∧ (t.link l).nacks = r ∧
        (t.link l).rpl = min (x.rpl + 1) 65535 ∧
        (t.link l).sent = x.sent ++ (x.unacked.filter (fun e => e.1 == q)).map (fun e => e.2) ∧ t.mem = s.mem)) ∧
    (x.st ≠ 2 → exec (.flitDeparture l f) s = .next s ∧ exec (.flitArrival l f) s = .next s ∧ exec (.replay l) s = .next s) ∧
    (s.passFrom l f = none → exec (.passThrough l f) s = .next s) ∧
    (∀ y, s.passFrom l f = some y →
      let e := outEntry x s.concI
      let mayGo := e.kind = 1 ∧ e.fl = y ∧ e.fq = flitTxq f ∧ s.departTaken l = false ∧ x.st = 2
      (mayGo → ∃ t g, exec (.passThrough l f) s = .next t ∧ (t.link l).sent = x.sent ++ [sealFlit g x.seqOut] ∧
        g.data = f.data ∧ g.side = f.side ∧ g.hdr.toNat % 2 ^ 22 = f.hdr.toNat % 2 ^ 22 ∧
        (flitDep g : Int) = s.concI % 2 ^ 16 ∧ t.mem = s.mem ∧ t.ctxs = s.ctxs) ∧
      (¬ mayGo → ∃ t, exec (.passThrough l f) s = .next t ∧ (t.link l).sent = x.sent ∧ t.mem = s.mem ∧ t.ctxs = s.ctxs)) ∧
    (∃ t, exec (.linkDown l) s = .next t ∧ (t.link l).st = 0 ∧ (t.link l).stage = [] ∧ (t.link l).unacked = [] ∧
      (t.link l).openBuf = [] ∧ (t.link l).passing = [] ∧ (t.link l).room = 0 ∧
      (t.link l).queues = x.queues ∧ t.linkReports = s.linkReports ++ [(l, 0)] ∧ t.mem = s.mem ∧ t.ctxs = s.ctxs) ∧
    (∀ nom, x.stage = [(x.seqIn, some (nom, f))] → flitKind f ≠ 3 →
      let q := x.queue (flitTxq f)
      ∃ t, exec (.receiveOrderPass l) s = .next t ∧ (t.link l).stage = [] ∧ (t.link l).seqIn = x.seqIn + 1 ∧ t.mem = s.mem ∧
        (q.flits.length < 64 → (t.queue l (flitTxq f)).flits = q.flits ++ [(nom, f)] ∧ (t.queue l (flitTxq f)).ovf = q.ovf) ∧
        (64 ≤ q.flits.length → (t.queue l (flitTxq f)).flits = q.flits ∧ (t.queue l (flitTxq f)).ovf = true)) ∧
    (∀ acc data, s.writeCheck o.ctx acc 64 = none →
      let a := (s.ctxAt o.ctx).accessAddr acc true
      ∃ t, exec (.recvShelfWrite o acc data) s = .next t ∧ t.mem = s.mem ∧
        (∀ i, i < 64 → t.poolByte (coreOf o.ctx) (a + i) = BitVec.ofNat 8 (data.toNat / 256 ^ i)) ∧
        ∀ n b, n ≠ coreOf o.ctx ∨ b < a ∨ a + 64 ≤ b → t.poolByte n b = s.poolByte n b) ∧
    (∀ bay c v, c < 8 → ∃ t, exec (.bayLatchWrite o bay c v) s = .next t ∧ (t.latch bay c).v = v ∧
      (t.latch bay c).part = (s.latch bay c).part ∧ (t.latch bay c).assigned = (s.latch bay c).assigned ∧
      (∀ n e, e < 8 → (n ≠ bay ∨ e ≠ c) → t.latch n e = s.latch n e) ∧ t.mem = s.mem ∧ t.cores = s.cores)

/-- Span time and packets. SPAN_MARKER_SEND puts the count on every link of the span that is up; SPAN_MARKER_RECEIVE of a
slipped marker raises the trap in every live context on the upstream link and has the count stepped before the next marker, and
is reported on any other; a device that joins takes the count from it; COUNT_STEP steps the count by −slip. PACKET_ROUTE keeps a
packet for this device and buffers any other on the link of its route, or for a route. PACKET_RESPONSE ends its request and
answers the loan, which keeps an answered part of a granule's adds while another part of them is outstanding;
END_TO_END_TIMER_EXPIRY sends the request again three times, with the answered parts of its granule (log 97), and then gives the
loan's requests up with status 10. HOME_REQUEST answers a repeated write from the cache and lets a request that is executing go
on; a fresh one executes: a granule access goes to the issuer once the token, the backing and a deposit's sum are found good and
is refused with status 7, 1 or 8 otherwise, its answer makes the response; a barrier arrive, a publish and token moves take
effect here (R264, R265, R312, R386 to R390). The model's choices here are the free cycle of a count step (log 17), the two
markers that a joining device waits for (log 17), what a request carries of its loan (log 21), packets that wait for a route
(log 88), and a release that waits for accesses (log 81). -/
def Obligations.SpanRows : Prop :=
  ∀ (s : State) (l : Nat) (p : Packet),
    (∃ t, exec .spanMarkerSend s = .next t ∧ t.mem = s.mem ∧
      (∀ n, n < 24 → (s.link n).st = 2 → (s.link n).open_ = false →
        (t.link n).markers = (s.link n).markers ++ [s.conc]) ∧
      ∀ n, (s.link n).st ≠ 2 → t.link n = s.link n) ∧
    (∀ c, (s.link l).st = 2 → (s.link l).open_ = false →
      let slip : Int := s.concI - ((c.toNat : Int) + (s.link l).lam)
      ((s.link l).upl = false → exec (.spanMarkerReceive l c) s = .next (if slip = 0 then s
        else { s with linkReports := s.linkReports ++ [(l, 1)] })) ∧
      ((s.link l).upl = true → s.joining = none → slip ≠ 0 → ∃ t, exec (.spanMarkerReceive l c) s = .next t ∧
        t.mem = s.mem ∧ t.skew = s.skew ∧
        (∀ k, (s.ctxAt k).present = true → (t.ctxAt k).ev.span = some (BitVec.ofInt 64 slip)) ∧
        ∃ n, n < 2 ^ 16 ∧ ⟨s.now + n, rankUntimed, .op (.countStep slip)⟩ ∈ (if n = 0 then t.todo else t.agenda)) ∧
      ((s.link l).upl = true → s.joining = none → slip = 0 → (s.link l).slipped = true →
        ∃ t, exec (.spanMarkerReceive l c) s = .next t ∧ t.linkReports = s.linkReports ++ [(l, 2)] ∧
          (t.link l).slipped = false ∧ t.ctxs = s.ctxs) ∧
      (∀ st, (s.link l).upl = true → s.joining = some st → ∃ t, exec (.spanMarkerReceive l c) s = .next t ∧ t.ctxs = s.ctxs ∧
        t.skew = s.skew - slip ∧
        t.starting = some { st with joins := if slip = 0 ∧ st.joins ≠ 0 then st.joins + 1 else 1 })) ∧
    (∀ slip, exec (.countStep slip) s = .next { s with skew := s.skew - slip }) ∧
    (p.dst = ownDevice → exec (.packetRoute p) s =
      .next (s.post ⟨s.now, rankUntimed, .op (if p.response then .packetResponse p else .homeRequest p)⟩)) ∧
    (p.dst ≠ ownDevice →
      (sget none s.routes p.dst = some l →
        ∃ t n, exec (.packetRoute p) s = .next t ∧ (t.link l).openBuf = (s.link l).openBuf ++ [(p.cls, n, flitsOf p)] ∧
          t.mem = s.mem) ∧
      (sget none s.routes p.dst = none → exec (.packetRoute p) s = .next { s with unrouted := s.unrouted ++ [p] })) ∧
    (∀ r, (s.outstanding p.engine p.src).find? (fun r => r.seq == p.seq && r.sent) = some r →
      ∃ t bytes bad, exec (.packetResponse p) s = .next t ∧ t.mem = s.mem ∧ (∀ x ∈ t.remoteReqs, x.id ≠ r.id) ∧
        (∀ x ∈ s.remoteReqs, x.id ≠ r.id → ∃ y ∈ t.remoteReqs, y.id = x.id) ∧
        ⟨s.now, rankUntimed, .micro (.answer (.loan r.loan) r.id bytes bad (recOp p.record))⟩ ∈ t.todo ∧
        (recOp r.packet.record < 0x20 → (pieceIn r.packet).kind = 0 → bytes = leBytes 64 (p.data.headD 0).toNat) ∧
        ((pieceIn r.packet).kind = 2 → bytes = leBytes 8 (recOpnd p.record)) ∧
        ∀ m, s.loan r.loan = some m → inParts r.packet = true →
          (∃ x ∈ s.remoteReqs, x.id ≠ r.id ∧ r.sameGranule x = true) →
          ∃ n, t.loan r.loan = some n ∧ n.answered = m.answered ++ [r]) ∧
    ((s.outstanding p.engine p.src).find? (fun r => r.seq == p.seq && r.sent) = none →
      exec (.packetResponse p) s = .next s) ∧
    (∀ r home engine seq, (s.outstanding engine home).find? (fun r => r.seq == seq && r.sent) = some r →
      ∃ t, exec (.endToEndTimerExpiry home engine seq) s = .next t ∧ t.mem = s.mem ∧
        (r.resends < 3 → (∃ x ∈ t.remoteReqs, x.id = r.id ∧ x.resends = r.resends + 1) ∧
          ⟨s.now, rankUntimed, .op (.packetRoute r.packet)⟩ ∈ t.todo ∧
          (∀ m, s.loan r.loan = some m → ∀ x ∈ m.answered, r.sameGranule x = true →
            ⟨s.now, rankUntimed, .op (.packetRoute x.packet)⟩ ∈ t.todo) ∧
          (0 < s.endTimer →
            ⟨s.now + s.endTimer, rankUntimed, .op (.endToEndTimerExpiry r.home r.engine r.seq)⟩ ∈ t.agenda)) ∧
        (3 ≤ r.resends → (∀ x ∈ t.remoteReqs, x.loan ≠ r.loan) ∧
          ∀ x ∈ s.remoteReqs, x.loan = r.loan →
            ⟨s.now, rankUntimed, .micro (.answer (.loan r.loan) x.id [] [] 10)⟩ ∈ t.todo)) ∧
    (∀ r, s.replies.find? (fun r => r.dev == p.src && r.engine == p.engine && r.seq == p.seq) = some r → r.writes = true →
      exec (.homeRequest p) s = .next (s.post ⟨s.now, rankUntimed, .op (.packetRoute r.response)⟩)) ∧
    (s.replies.find? (fun r => r.dev == p.src && r.engine == p.engine && r.seq == p.seq) = none →
      (s.peerActive p = true → exec (.homeRequest p) s = .next s) ∧
      (s.peerActive p = false →
        let op := recOp p.record
        let w := recDst p.record
        let dpa := accessDpa p
        let responds := fun (status old count : Nat) (q : State → Prop) => ∃ t r, exec (.homeRequest p) s = .next t ∧ q t ∧
          ⟨s.now, rankUntimed, .op (.packetRoute r)⟩ ∈ t.todo ∧ r.dst = p.src ∧ r.seq = p.seq ∧ r.engine = p.engine ∧
          r.response = true ∧ r.record = responseRecord status old count ∧ t.mem = s.mem
        (op < 0x20 → addrKind w ≠ 2 →
          let barred := needsToken op = true ∧ s.mayTouch p.src (regionOf dpa) = false
          let torn := op = 6 ∧ wordSum (p.data.getD 1 0) ≠ (pieceIn p).sum
          (barred → responds 7 0 0 (fun t => t.pcs = s.pcs)) ∧
          (¬ barred → backed dpa = false → responds 1 0 0 (fun t => t.pcs = s.pcs)) ∧
          (¬ barred → backed dpa = true → torn → responds 8 0 0 (fun t => t.pcs = s.pcs)) ∧
          (¬ barred → backed dpa = true → ¬ torn → (pieceIn p).kind < 3 → ∃ t, exec (.homeRequest p) s = .next t ∧
            t.mem = s.mem ∧ (∃ m ∈ t.loans, m.id = s.nextId ∧ m.owner = .peer p) ∧
            ∃ r ∈ (t.pseudo (dpaPc dpa)).queue, r.owner = .loan s.nextId ∧ r.dpa = dpa ∧ r.cls = p.cls ∧
              r.kind = (match (pieceIn p).kind with
                | 0 => .read
                | 1 => .write (maskedCells (pieceIn p).mask (p.data.getD 1 0).toNat) (columnList (pieceIn p).poison)
                | _ => .atomic op ((pieceIn p).addr % 64) (recSize p.record) (recAtype p.record) (recOpnd p.record)
                    (recCmp p.record)))) ∧
        (∀ k, op = 0x20 → s.peerMate p.src w = some k →
          ((s.ctxAt k).shelf (wordShelf w)).stateAt true = .filling → ((s.ctxAt k).shelf (wordShelf w)).dbl = false →
          responds 0 0 0 (fun t => ((t.ctxAt k).shelf (wordShelf w)).fs = .full)) ∧
        (op = 0x20 → s.peerMate p.src w = none → responds 6 0 0 (fun t => t.ctxs = s.ctxs)) ∧
        (let key := wordDie w * 256 + wordBarrier w
         op = 0x21 →
          ((s.barrier key).expected ≠ 0 → responds 0 0 0 (fun t => t.barrier key = (s.barrier key).arrive s.now)) ∧
          ((s.barrier key).expected = 0 → responds 12 0 0 (fun t => t.bars = s.bars))) ∧
        (let region := regionOf (pieceIn p).addr
         (op = 0x22 → s.holder region = none → ∃ t, exec (.homeRequest p) s = .next t ∧ t.holder region = some p.src ∧
            t.mem = s.mem) ∧
          (op = 0x23 → s.regionBusy p.src region = false → s.nextWanting region = none →
            (s.holder region = some p.src → responds 0 0 0 (fun t => t.holder region = none)) ∧
            (s.holder region ≠ some p.src → responds 7 0 0 (fun t => t.owners = s.owners)))))) ∧
    (∀ id a m bytes bad status, s.loan id = some m → m.owner = .peer p → (∀ x ∈ s.loans, x.frees = none) →
      recOp p.record ≠ 0x22 → status < 256 →
      ∃ r, ⟨s.now, rankUntimed, .op (.packetRoute r)⟩ ∈ (s.answerLoan id a bytes bad status).todo ∧ r.dst = p.src ∧
        r.seq = p.seq ∧ r.response = true ∧ recBits r.record 0 8 = status ∧
        (accessOf p = .read → r.data = responseData (some bytes) bad) ∧
        ∀ op off z ty v cmp, accessOf p = .atomic op off z ty v cmp → recBits r.record 64 64 = leNat bytes % 2 ^ 64)

/-! ### Rows of the loan engine -/

/-- The loans that move data, in their write stage. A copy, gather, scatter or fill into the context's own back half stores
the bytes of its elements and no others; a scatter-accumulate of one element adds there, an integer modulo its width and an
f32 by the rounding of R101. A copy, gather, scatter or fill into memory of this device, and a scatter-accumulate, makes one
request on each granule of memory, whichever addresses lead there. A deposit, like every other move to a peer's memory, sends one
request for each granule to the granule's home, with its bytes, and writes no byte here. A write into a shelf that the context
has published since the record's sample writes nothing and ends with status 3; a re-issued scatter-accumulate ends from the
log. One that carries release and has earlier loans of its context still under way waits for them (R37, R261, R262, R264, R268,
R277, R278, R284, R287). How a loan is cut into requests is the model's
choice (log 21), as is the order of its granules, which stays free (log 6); that scratchpad accesses see the descriptor with
which the cycle began is R29; log 78 names the checks before the first write, log 118 what R287 leaves open and log 119 what a
re-issued one repeats. -/
def Obligations.LoanMoves : Prop :=
  ∀ (s : State) (l : Loan) (k : Nat), s.loan s.loanNow = some l → l.owner = .context k → l.stage = .read →
    (s.mayWrite l = false → exec .loanCopy s = .next s ∧ exec .loanGather s = .next s ∧ exec .loanScatter s = .next s ∧
      exec .loanFill s = .next s ∧ exec .loanDeposit s = .next s ∧ exec .loanScatterAccumulate s = .next s) ∧
    (∀ e, l.fromLog = some e → s.mayWrite l = true → recOp l.raw = 4 → ∃ t m, exec .loanScatterAccumulate s = .next t ∧ t.mem = s.mem ∧
      t.cores = s.cores ∧ t.ctxs = s.ctxs ∧ t.pcs = s.pcs ∧ m ∈ t.loans ∧ m.id = l.id ∧ m.stage = .completing ∧
      (l.status = 0 → m.status = e.status)) ∧
    (l.fromLog = none → s.mayWrite l = true →
    let w := recDst l.raw
    let z := recSize l.raw
    let d := s.seen k (wordShelf w)
    let at_ := fun (a : Nat) => (s.ctxAt k).halfAddr d (d.physical true) a
    let stores := fun (i : Instr) => ∃ t, exec i s = .next t ∧ t.mem = s.mem ∧
      (∀ a b p, sget none l.cells a = some (b, p) → t.poolByte (coreOf k) (at_ a) = b) ∧
      (∀ x, (∀ a, (sget none l.cells a).isSome → x ≠ at_ a) → t.poolByte (coreOf k) x = s.poolByte (coreOf k) x) ∧
      (∀ n x, n ≠ coreOf k → t.poolByte n x = s.poolByte n x) ∧ ∀ j, j ≠ k → t.ctxAt j = s.ctxAt j
    let granules := granulesAt (l.spots.map (fun e => e.1))
    let ends := fun (i : Instr) => ∃ t m, exec i s = .next t ∧ t.mem = s.mem ∧ t.cores = s.cores ∧ t.ctxs = s.ctxs ∧
      m ∈ t.loans ∧ m.id = l.id ∧ m.stage = .completing ∧ (l.status = 0 → m.status = 3)
    let asks := fun (i : Instr) (gs : List Nat) (kind : Nat → ReqKind) => ∃ t, exec i s = .next t ∧ t.mem = s.mem ∧
      t.cores = s.cores ∧ t.ctxs = s.ctxs ∧
      ∀ g ∈ gs, ∃ r ∈ (t.pseudo (dpaPc (granuleDpa g))).queue, r.owner = .loan l.id ∧ r.dpa = granuleDpa g ∧ r.kind = kind g ∧ r.cls = l.cls
    let sends := fun (i : Instr) => ∃ t, ∃ p : List Nat, exec i s = .next t ∧ t.mem = s.mem ∧ t.cores = s.cores ∧
      t.ctxs = s.ctxs ∧ t.pcs = s.pcs ∧ p.Perm granules ∧
      t.remoteReqs.map (fun x => (some x.home, x.loan, x.packet.record, [x.packet.data])) =
        s.remoteReqs.map (fun x => (some x.home, x.loan, x.packet.record, [x.packet.data])) ++
          p.map (fun g => (l.granuleHome g, l.id, l.raw, requestsOf l.id (granuleDpa g) (granuleWriteOf l.spots g)))
    (addrKind w = 0 → s.shut l k (wordShelf w) = true → l.writes ≠ [] →
      ends .loanCopy ∧ ends .loanGather ∧ ends .loanScatter ∧ ends .loanFill ∧ ends .loanScatterAccumulate) ∧
    (addrKind w = 0 → s.writeStatus l k (wordShelf w) l.writes z = 0 →
      stores .loanCopy ∧ stores .loanGather ∧ stores .loanScatter ∧ stores .loanFill ∧
      (∀ src (dst : Nat), l.elems = [(some src, (dst : Int))] → s.backPoison k (wordShelf w) l.writes z = 0 →
        ∃ t, exec .loanScatterAccumulate s = .next t ∧ t.mem = s.mem ∧
          (let old := leNat (s.poolRead (coreOf k) (at_ dst) z)
           let v := leNat (sread 0 l.data src.toNat z)
           let new := if recAtype l.raw = 2 then rne32 ((val32 (old % 2 ^ (8 * z))).add (val32 (v % 2 ^ (8 * z))))
             else (old + v) % 2 ^ (8 * z)
           (∀ i, i < z → t.poolByte (coreOf k) (at_ dst + i) = BitVec.ofNat 8 (new / 256 ^ i)) ∧
             ∀ x, x < at_ dst ∨ at_ dst + z ≤ x → t.poolByte (coreOf k) x = s.poolByte (coreOf k) x))) ∧
    (addrKind w = 1 → (s.loans.map (fun m => m.id)).Nodup →
      s.engineOut l.core + granules.length + l.addGranules.length < Config.loanRequests →
      ((∀ g, (l.place g).dev = none) →
        asks .loanCopy granules (granuleWriteOf l.spots) ∧ asks .loanGather granules (granuleWriteOf l.spots) ∧
        asks .loanScatter granules (granuleWriteOf l.spots) ∧ asks .loanFill granules (granuleWriteOf l.spots) ∧
        asks .loanScatterAccumulate l.addGranules (fun g =>
          .accumulate z (recAtype l.raw) (l.adds g) (l.addPoison g))) ∧
      ((∀ g ∈ granules, ∃ h, l.granuleHome g = some h ∧ h ≠ ownDevice) →
        sends .loanDeposit ∧ sends .loanCopy ∧ sends .loanGather ∧ sends .loanScatter ∧ sends .loanFill)))

/-- The atomics on a value of the context's own back half: the old value is kept with the loan, the new one is stored in
place and no other byte changes; a comparison that fails stores nothing, and a shelf that the context has published since the
record's sample is not touched (status 3, R287, log 118). On f32 the sum is rounded as R101 says, and the
minimum and maximum are those of R160: any NaN gives the canonical NaN, and −0 is below +0 (R263, Table 12-7). -/
def Obligations.LoanAtomics : Prop :=
  ∀ (s : State) (l : Loan) (k : Nat), s.loan s.loanNow = some l → l.owner = .context k → l.stage = .read →
    l.fromLog = none → s.mayWrite l = true → addrKind (recDst l.raw) = 0 →
    let w := recDst l.raw
    let d := s.seen k (wordShelf w)
    let a := (s.ctxAt k).halfAddr d (d.physical true) (wordOff w)
    let z := recSize l.raw
    let old := leNat (s.poolRead (coreOf k) a z)
    let v := recOpnd l.raw % 2 ^ (8 * z)
    let less := fun (x y : Nat) =>
      if recAtype l.raw = 0 then (if x < 2 ^ (8 * z - 1) then (x : Int) else (x : Int) - (2 ^ (8 * z) : Nat)) <
        (if y < 2 ^ (8 * z - 1) then (y : Int) else (y : Int) - (2 ^ (8 * z) : Nat))
      else x < y
    let float := recAtype l.raw = 2
    let anyNan := val32 old = Sys2Proof.Machine.Num.nan ∨ val32 v = Sys2Proof.Machine.Num.nan
    let below := fun (x y : Nat) => Sys2Proof.Machine.Num.lt true (val32 x) (val32 y) = true
    let makes := fun (i : Instr) (new : Nat → Prop) => ∃ t n, exec i s = .next t ∧ new n ∧ t.mem = s.mem ∧
      (∀ m ∈ t.loans, m.id = l.id → m.old = BitVec.ofNat 64 old) ∧
      (∀ i, i < z → t.poolByte (coreOf k) (a + i) = BitVec.ofNat 8 (n / 256 ^ i)) ∧
      (∀ x, x < a ∨ a + z ≤ x → t.poolByte (coreOf k) x = s.poolByte (coreOf k) x) ∧
      ∀ j, j ≠ k → t.ctxAt j = s.ctxAt j
    (s.shut l k (wordShelf w) = true →
      ∀ i ∈ [Instr.atomicAdd, .atomicMin, .atomicMax, .atomicAnd, .atomicOr, .atomicXor, .atomicSwap, .atomicCas],
        ∃ t m, exec i s = .next t ∧ t.mem = s.mem ∧ t.cores = s.cores ∧ t.ctxs = s.ctxs ∧ m ∈ t.loans ∧ m.id = l.id ∧
          m.stage = .completing ∧ (l.status = 0 → m.status = 3)) ∧
    (s.writeStatus l k (wordShelf w) [wordBase w] z = 0 → s.backPoison k (wordShelf w) [wordBase w] z = 0 →
      makes .atomicAdd (fun n => n = if float then rne32 ((val32 old).add (val32 v)) else (old + v) % 2 ^ (8 * z)) ∧
      makes .atomicMin (fun n => (¬ float → (n = old ∨ n = v) ∧ ¬ less old n ∧ ¬ less v n) ∧
        (float → (anyNan → n = 0x7FC00000) ∧ (¬ anyNan → n = if below v old then v else old))) ∧
      makes .atomicMax (fun n => (¬ float → (n = old ∨ n = v) ∧ ¬ less n old ∧ ¬ less n v) ∧
        (float → (anyNan → n = 0x7FC00000) ∧ (¬ anyNan → n = if below v old then old else v))) ∧
      makes .atomicAnd (fun n => ∀ i, n.testBit i = (old.testBit i && v.testBit i)) ∧
      makes .atomicOr (fun n => ∀ i, n.testBit i = (old.testBit i || v.testBit i)) ∧
      makes .atomicXor (fun n => ∀ i, n.testBit i = (old.testBit i != v.testBit i)) ∧
      makes .atomicSwap (fun n => n = v) ∧
      ∃ t, exec .atomicCas s = .next t ∧ t.mem = s.mem ∧ (∀ m ∈ t.loans, m.id = l.id → m.old = BitVec.ofNat 64 old) ∧
        (old = recCmp l.raw % 2 ^ (8 * z) → ∀ i, i < z → t.poolByte (coreOf k) (a + i) = BitVec.ofNat 8 (v / 256 ^ i)) ∧
        (old ≠ recCmp l.raw % 2 ^ (8 * z) → ∀ x, t.poolByte (coreOf k) x = s.poolByte (coreOf k) x) ∧
        (∀ x, x < a ∨ a + z ≤ x → t.poolByte (coreOf k) x = s.poolByte (coreOf k) x) ∧ ∀ j, j ≠ k → t.ctxAt j = s.ctxAt j)

/-- The loans that signal, at this device, and the ends of loans. REMOTE_PUBLISH publishes a FILLING half and ends with status 3
where it is in another state, with 6 where the context named is none of the launch; REMOTE_BARRIER_ARRIVE counts at its barrier
and ends with status 12 where that is not configured; a release of a token not held ends with 7. OWNERSHIP_TOKEN_ACQUIRE takes a
free token and waits for one that is held or under release, OWNERSHIP_TOKEN_RELEASE gives one up once the accesses of this
device that came before it have performed; LOAN_COMPLETION and LOAN_DELIVERY make the BUSY token DONE or FAULT with the status,
and the loan is gone, but for one that a deterministic core delivers after a record that it was issued before;
INVALIDATION_COMPLETE makes its token DONE (R138, R263, R265, R267, R310, R312, R329, R331). The model's choices here: a page
without g has this device as its home (log 22), when an acquire or release waits (log 81), how a delivered loan is kept for a
restoration (log 95), that a request waits while the engine has all that it may have outstanding (log 98), and that loans behind
the one that ends look again in the next cycle (log 74). -/
def Obligations.LoanSignals : Prop :=
  ∀ (s : State) (l : Loan) (k : Nat), l.owner = .context k →
    let w := recDst l.raw
    let acts := fun (i : Instr) (p : State → Prop) => ∃ t, exec i s = .next t ∧ p t ∧ t.mem = s.mem
    let ends := fun (status : Nat) (t : State) => t.ctxs = s.ctxs ∧ t.bars = s.bars ∧ t.owners = s.owners ∧
      ⟨s.now, rankUntimed, .op (.loanCompletion l.id)⟩ ∈ t.todo ∧
      ∃ m ∈ t.loans, m.id = l.id ∧ m.stage = .completing ∧ m.status = if l.status = 0 then status else l.status
    (s.loan s.loanNow = some l → l.stage = .read → l.fromLog = none → s.mayWrite l = true →
      (∀ j, wordDev w = ownDevice → s.launchMate (s.ctxAt k).launch w = some j →
        let d := (s.ctxAt j).shelf (wordShelf w)
        (d.len ≠ 0 → d.stateAt true = .filling →
          acts .remotePublish (fun t => (t.ctxAt j).shelf (wordShelf w) = (if d.dbl then d.swap else { d with fs := .full }) ∧
            ∀ n, n ≠ j → t.ctxAt n = s.ctxAt n)) ∧
        (d.len = 0 ∨ d.stateAt true ≠ .filling → acts .remotePublish (ends 3))) ∧
      (wordDev w = ownDevice → s.launchMate (s.ctxAt k).launch w = none → acts .remotePublish (ends 6)) ∧
      (let key := wordDie w * 256 + wordBarrier w
       let b := s.barrier key
       (wordDev w = ownDevice → b.expected = 0 → acts .remoteBarrierArrive (ends 12)) ∧
       (wordDev w = ownDevice → b.expected ≠ 0 →
        acts .remoteBarrierArrive (fun t => (t.barrier key).expected = b.expected ∧
          (t.barrier key).arrivals = (if b.arrivals + 1 = b.expected then 0 else b.arrivals + 1) ∧
          (t.barrier key).phase = (if b.arrivals + 1 = b.expected then b.phase + 1 else b.phase) ∧ t.ctxs = s.ctxs))) ∧
      (wordDev w ≠ ownDevice → s.engineFull l.core = true →
        let waits := fun (t : State) => t.ctxs = s.ctxs ∧ t.bars = s.bars ∧ t.remoteReqs = s.remoteReqs ∧
          ∃ m ∈ t.loans, m.id = l.id ∧ m.waits = l.waits ++ [.packet (wordDev w) l.raw [] 0]
        acts .remotePublish waits ∧ acts .remoteBarrierArrive waits) ∧
      (wordDev w ≠ ownDevice → s.engineFull l.core = false →
        (acts .remotePublish (fun t => t.ctxs = s.ctxs ∧ ∃ x ∈ t.remoteReqs, x.loan = l.id ∧ x.home = wordDev w ∧
          x.packet.record = l.raw ∧ x.packet.data = [])) ∧
        (acts .remoteBarrierArrive (fun t => t.bars = s.bars ∧ ∃ x ∈ t.remoteReqs, x.loan = l.id ∧ x.home = wordDev w ∧
          x.packet.record = l.raw ∧ x.packet.data = []))) ∧
      (let r := regionOf (l.dpa (wordVa w))
       ((l.place (wordVa w)).dev).getD ownDevice = ownDevice →
        (s.holder r = none ∨ (s.holder r = some ownDevice ∧ s.releasing ownDevice r = false) →
          acts .ownershipTokenAcquire (fun t => t.holder r = some ownDevice ∧ t.ctxs = s.ctxs ∧
            ∀ x, x ≠ r → t.holder x = s.holder x)) ∧
        (∀ h, s.holder r = some h → (h ≠ ownDevice ∨ s.releasing ownDevice r = true) →
          acts .ownershipTokenAcquire (fun t => t.owners = s.owners ∧ t.ctxs = s.ctxs ∧
            ∀ m ∈ t.loans, m.id = l.id → m.wants = some (r, s.nextId))) ∧
        (s.holder r = some ownDevice → s.regionBusy ownDevice r = false → s.nextWanting r = none →
          acts .ownershipTokenRelease (fun t => t.holder r = none ∧ t.ctxs = s.ctxs ∧
            ∀ x, x ≠ r → t.holder x = s.holder x)) ∧
        (s.holder r ≠ some ownDevice → s.regionBusy ownDevice r = false → acts .ownershipTokenRelease (ends 7)) ∧
        (s.regionBusy ownDevice r = true →
          acts .ownershipTokenRelease (fun t => t.owners = s.owners ∧ t.ctxs = s.ctxs ∧
            ∀ m ∈ t.loans, m.id = l.id → m.frees = some r)))) ∧
    (∀ id, s.loan id = some l → recPub l.raw = false → (s.coreAt (coreOf k)).det = false →
      ((s.ctxAt k).token (recTk l.raw)).loan = l.id → ((s.ctxAt k).token (recTk l.raw)).st = .busy →
      acts (.loanCompletion id) (fun t => ((t.ctxAt k).token (recTk l.raw)).st = (if l.status = 0 then .done else .fault) ∧
        ((t.ctxAt k).token (recTk l.raw)).status = l.status ∧ (∀ m ∈ t.loans, m.id ≠ l.id) ∧
        ∀ n, n ≠ k → t.ctxAt n = s.ctxAt n)) ∧
    (∀ id, s.loan id = some l → ((s.ctxAt k).token (recTk l.raw)).loan = l.id →
      ((s.ctxAt k).token (recTk l.raw)).st = .busy →
      acts (.loanDelivery id) (fun t => ((t.ctxAt k).token (recTk l.raw)).st = (if l.status = 0 then .done else .fault) ∧
        ((t.ctxAt k).token (recTk l.raw)).status = l.status ∧
        (l.afterRec = true ∨ (s.coreAt (coreOf k)).det = false → ∀ m ∈ t.loans, m.id ≠ id) ∧
        (l.afterRec = false → (s.coreAt (coreOf k)).det = true → ∀ m ∈ t.loans, m.id = id → m.delivered = true))) ∧
    (∀ id tk (v : Inval), s.invals.find? (fun x => x.id == id) = some v → v.ctx = some (k, tk) →
      ((s.ctxAt k).token tk).loan = id → ((s.ctxAt k).token tk).st = .busy →
      acts (.invalidationComplete id) (fun t => ((t.ctxAt k).token tk).st = .done ∧ (∀ x ∈ t.invals, x.id ≠ id) ∧
        ∀ n, n ≠ k → t.ctxAt n = s.ctxAt n))

/-! ### Launches -/

/-- LAUNCH_CHECK sends a launch that passes to its start and refuses one that does not: it is gone, with its pool entry, and
its completion word goes out with status 1 and the code; a child that finds the contexts or engines it needs taken waits in the
pool, and one that an older entry precedes again goes back to it. What passes has been read without a fault, names a partition
of the table and a weight, and finds its contexts free; a read that faulted is code 1, a bad record code 2, a bad header code 3.
LAUNCH_START makes the launch live with its contexts at the image's entry in user mode, which issue in one cycle, and sets its
barriers; LAUNCH_END removes it, frees its barriers and sends its completion word with status 0, or 2 where the steward ended it.
After a refusal as after an end the home die makes one arrival at ebar: once the completion word is written or, where that faults,
reported, and at once where the record names none. CHILD_PLACEMENT takes the oldest released entry that
it has not tried into its checks. PARTITION_TABLE_WRITE changes what it names where that exists, cores that no other
partition holds, a window or a timetable entry only while no context of the partition is live (R235, R294, R318, R320 to R324,
R377, R417). The model's choices here: when reads and writes of the engine are made (logs 6, 11), the cycle of the first bundles
(log 6), entries tried again when a context becomes free (log 106), reservations (log 107), a partition that ends with its
last launch (log 83), that a list of cores that takes another partition's core is not written (log 42), and that a launch without a
parent which would wait is refused with the code (log 87). -/
def Obligations.LaunchRows : Prop :=
  ∀ (s : State) (l : Launch),
    let part := s.partition (lrPart l.raw)
    let tells := fun (t : State) (status code : Nat) => lrDone l.raw ≠ 0 →
      ∃ m ∈ t.loans, m.owner = .job (.word l.part status code l.trapped l.lastBarrier) ∧ m.span = (lrDone l.raw, 8) ∧
        m.root = lrRoot l.raw ∧ m.data = srun 0 (lrDone l.raw)
          (leBytes 8 (status + code * 2 ^ 8 + l.trapped % 2 ^ 48 * 2 ^ 16))
    let arrives := fun (freed : List Nat) (t : State) => l.home < 8 →
      let key := 256 * l.home + lrEbar l.raw
      let b : Barrier := if key ∈ freed then {} else s.barrier key
      let counts := lrEbv l.raw = true ∧ b.expected ≠ 0
      (counts → (t.barrier key).expected = b.expected ∧
        (t.barrier key).arrivals = (if b.arrivals + 1 = b.expected then 0 else b.arrivals + 1) ∧
        (t.barrier key).phase = (if b.arrivals + 1 = b.expected then b.phase + 1 else b.phase)) ∧
      (¬ counts → t.barrier key = b) ∧ ∀ x, x ≠ key → x ∉ freed → t.barrier x = s.barrier x
    (∀ part status code trapped fault bytes, ∃ t, step { s with
        cur := {}
        todo := ⟨s.now, rankUntimed, .micro (.jobDone (.word part status code trapped l.lastBarrier) fault bytes)⟩ :: s.todo } =
          .next t ∧ arrives [] t ∧ t.mem = s.mem ∧ t.ctxs = s.ctxs ∧
          t.reports = if fault = 0 then s.reports else s.reports ++ [(part, status, code, trapped)]) ∧
    ((∃ x ∈ l.reads, x = none) → s.judge l = .refuse 1) ∧
    ((∀ x ∈ l.reads, x ≠ none) →
      (lrReserved l.raw = true ∨ lrWt l.raw = 0 ∨ lrRoot l.raw % 2 ^ 21 ≠ 0 ∨ lrSave l.raw % 64 ≠ 0 ∨ lrImg l.raw % 64 ≠ 0 ∨
        part.valid = false ∨ (∃ p, l.parent = some p ∧ p.2 ≠ lrPart l.raw) → s.judge l = .refuse 2) ∧
      (s.recordBad l.raw l.parent = false → headerGood (l.got 0) = false → s.judge l = .refuse 3)) ∧
    (∀ i, s.judge l = .start i → i = l.image ∧ lrWt l.raw ≠ 0 ∧ part.valid = true ∧ headerGood (l.got 0) = true ∧
      placementFits part i (lrDev0 l.raw) = true ∧
      ∀ core ∈ placedCores part i, ∀ w ∈ i.parts, (s.ctxAt (4 * core + w.1)).stage = .idle ∧ partWordGood w.2 = true) ∧
    (s.launchOf l.id = some l → l.stage = .checking →
      (∀ e, l.entry = some e → s.olderFirst l.home e = true → ∃ t, exec (.launchCheck l.id) s = .next t ∧
        t.launchOf l.id = none ∧ t.ctxs = s.ctxs ∧ t.mem = s.mem ∧ t.lpool = s.lpool ∧ t.loans = s.loans ∧
        ⟨s.now, rankUntimed, .op (.childPlacement l.home)⟩ ∈ t.todo) ∧
      ((∀ e, l.entry = some e → s.olderFirst l.home e = false) →
      (∀ i, s.judge l = .start i → ∃ t m, exec (.launchCheck l.id) s = .next t ∧
        t.launchOf l.id = some m ∧ m.stage = .starting ∧ m.img = i ∧ t.mem = s.mem ∧ t.ctxs = s.ctxs ∧
        (∃ d ∈ t.todo, d.ev = .op (.launchStart l.id)) ∧ ∀ e, l.entry = some e → ∀ x ∈ t.poolOf l.home, x.id ≠ e.id) ∧
      (∀ c, s.judge l = .refuse c ∨ (s.judge l = .wait c ∧ l.entry = none) →
        ∃ t, exec (.launchCheck l.id) s = .next t ∧ t.launchOf l.id = none ∧ t.ctxs = s.ctxs ∧ t.mem = s.mem ∧ tells t 1 c ∧
          (lrDone l.raw = 0 → arrives [] t) ∧
          ∀ e, l.entry = some e → ∀ x ∈ t.poolOf l.home, x.id ≠ e.id) ∧
      (∀ c e, s.judge l = .wait c → l.entry = some e →
        ∃ t, exec (.launchCheck l.id) s = .next t ∧ t.launchOf l.id = none ∧ t.ctxs = s.ctxs ∧ t.mem = s.mem ∧
          t.loans = s.loans ∧ (t.poolOf l.home).map (fun x => x.id) = (s.poolOf l.home).map (fun x => x.id) ∧
          ∀ x ∈ t.poolOf l.home, x.id = e.id → x.tried = true))) ∧
    (s.launchOf l.id = some l → l.stage = .starting →
      let cores := placedCores (s.partition l.part) l.img
      cores.Nodup → (l.img.parts.map (fun w => w.1)).Nodup → (∀ w ∈ l.img.parts, w.1 < 4) →
      ∃ t m at_, exec (.launchStart l.id) s = .next t ∧ t.launchOf l.id = some m ∧ m.stage = .live ∧ m.cores = cores ∧
        t.mem = s.mem ∧ s.now < at_ ∧
        (∀ b ∈ barrierKeys l.raw ((cores.map dieOf).eraseDups),
          t.barrier b = { expected := lrBexp l.raw, owner := l.id }) ∧
        ∀ n ∈ cores, ∀ w ∈ l.img.parts,
          (let c := t.ctxAt (4 * n + w.1)
           c.stage = .run ∧ c.launch = l.id ∧ c.sup = false ∧ c.pc = alignPc l.img.entry ∧ c.partWord = w.2 ∧ c.il = l.img.il ∧
             c.code = l.img.code ∧ c.part = l.part ∧ c.resumeAt = at_)) ∧
    (s.launchOf l.id = some l → ∃ t, exec (.launchEnd l.id) s = .next t ∧ t.launchOf l.id = none ∧ t.ctxs = s.ctxs ∧
      t.mem = s.mem ∧ (∀ b ∈ l.barriers, t.barrier b = {}) ∧ tells t (if l.forced then 2 else 0) 0 ∧ (lrDone l.raw = 0 → arrives l.barriers t)) ∧
    (∀ die,
      (s.placing die = true ∨ (s.poolOf die).find? (fun e => e.released && !e.tried) = none →
        exec (.childPlacement die) s = .next s) ∧
      (∀ e, s.placing die = false → (s.poolOf die).find? (fun e => e.released && !e.tried) = some e →
        ∃ t m, exec (.childPlacement die) s = .next t ∧ t.launches = s.launches ++ [m] ∧ m.raw = e.raw ∧ m.home = die ∧
          m.parent = some (e.launch, e.part) ∧ m.entry = some e ∧ t.lpool = s.lpool ∧ t.mem = s.mem ∧
          ∃ x ∈ t.loans, x.owner = .job (.imgRead m.id) ∧ x.span = (lrImg e.raw, 128))) ∧
    ∀ w : PartWrite, (w.ok = false → exec (.partitionTableWrite w) s = .next s) ∧
      (w.ok = true → match w with
        | .cores p cs =>
          let taken := ∃ e ∈ s.parts, e.1 ≠ p ∧ ∃ c ∈ e.2.cores, c ∈ cs
          (taken → exec (.partitionTableWrite w) s = .next s) ∧
          (¬ taken → ∃ t, exec (.partitionTableWrite w) s = .next t ∧ (t.partition p).cores = cs ∧
            ((t.partition p).valid = true ↔ cs ≠ []) ∧ (t.partition p).root = (s.partition p).root ∧
            (∀ q, q ≠ p → t.partition q = s.partition q) ∧ t.ctxs = s.ctxs)
        | .root p dpa => ∃ t, exec (.partitionTableWrite w) s = .next t ∧ (t.partition p).root = dpa ∧
            (t.partition p).cores = (s.partition p).cores ∧ (∀ q, q ≠ p → t.partition q = s.partition q) ∧ t.ctxs = s.ctxs
        | .latches p bay mask => ∃ t, exec (.partitionTableWrite w) s = .next t ∧
            sget 0 (t.partition p).latches bay = mask ∧ (t.partition p).cores = (s.partition p).cores ∧
            (∀ b, b ≠ bay → sget 0 (t.partition p).latches b = sget 0 (s.partition p).latches b) ∧
            (∀ q, q ≠ p → t.partition q = s.partition q) ∧ t.latches = s.latches
        | .circulation pc slot entry =>
          let owner := entry.toNat % 16
          let key := 64 * pc + slot
          ∃ t, exec (.partitionTableWrite w) s = .next t ∧
            sget {} (t.pseudo pc).circ slot = { owner := owner, open_ := entry.getLsbD 4 } ∧
            (∀ x, x ≠ slot → sget {} (t.pseudo pc).circ x = sget {} (s.pseudo pc).circ x) ∧
            (∀ q, key ∈ (t.partition q).circ ↔ (entry.getLsbD 4 = false ∧ q = owner)) ∧
            (t.pseudo pc).hist = (s.pseudo pc).hist
        | .openBanks pc mask => ∃ t, exec (.partitionTableWrite w) s = .next t ∧ (t.pseudo pc).obank = mask ∧
            (t.pseudo pc).circ = (s.pseudo pc).circ ∧ (t.pseudo pc).hist = (s.pseudo pc).hist ∧ t.parts = s.parts
        | .window p pc base count =>
          (s.partLive p ≠ [] → exec (.partitionTableWrite w) s = .next s) ∧
          (s.partLive p = [] → ∃ t, exec (.partitionTableWrite w) s = .next t ∧
            sget {} t.windows (512 * p + pc) = { base := base.toNat, count := count.toNat } ∧
            ∀ x, x ≠ 512 * p + pc → sget ({} : BankWindow) t.windows x = sget {} s.windows x)
        | .timetable link out slot kind al p =>
          let dir := if out then 0 else 1
          let e := (s.link link).entryAt dir slot
          let barred := (e.al = true ∧ s.partLive e.part ≠ []) ∨ (al = true ∧ s.partLive p ≠ [])
          (barred → exec (.partitionTableWrite w) s = .next s) ∧
          (¬ barred → ∃ t, exec (.partitionTableWrite w) s = .next t ∧
            (t.link link).entryAt dir slot = { e with kind := if kind = 3 then e.kind else kind.toNat, al := al, part := p } ∧
            (∀ x, x ≠ slot → (t.link link).entryAt dir x = (s.link link).entryAt dir x) ∧
            (∀ x, (t.link link).entryAt (1 - dir) x = (s.link link).entryAt (1 - dir) x) ∧
            (t.link link).queues = (s.link link).queues))

/-! ### Host port and steward -/

/-- A host access of function 0 that stays in one granule, with none before it, makes its request on the granule with the
function's class; one of a bound VF has its pages walked under its partition's root; one outside the BAR or backed memory, of an
unbound VF, or in quarantine is answered with Unsupported Request. QUEUE_DOORBELL brings a poll within 64 cycles; QUEUE_POLL of
an engine that is at work on no record reads the index, and its reads lead, one after another, to the slot word, the record,
once for its index, the loan, the status byte and the new index. REGISTER_WRITE changes the register that it names, by its own
name or at its offset of BAR0, and none that does not exist; every access of a VF without a partition and all but the PF's
mailbox in quarantine get Unsupported Request (R313 to R317, R388, R389, R396, R400, Tables 15-3, 15-4, 19-2 and 20-3). The
model's choices here: when accesses and polls are made (logs 6, 11), addresses of a PF queue's records (log 100), the size of a
BAR2 that nothing has set (log 99), what training measures (log 43), packets that wait for a route (log 88), the words of a page
(log 19), that a command write which quarantine refuses leaves the mailbox as it stands (log 45), that widx and ridx hold the
addresses of index words (log 33), and that the argument and result words of a page answer as its registers do (log 109). -/
def Obligations.HostRows : Prop :=
  ∀ (s : State) (off n : Nat) (bytes : List Byte) (v : Reg) (cmp : Reg),
    let pc := dpaPc (off / 64 * 64)
    let asks := fun (i : Instr) (k : ReqKind) => ∃ t r a b, exec i s = .next t ∧ (s.pseudo pc).queue = a ++ b ∧
      (t.pseudo pc).queue = a ++ r :: b ∧ (∀ x ∈ a, x.ready ≤ s.concI) ∧ r.ready = s.concI ∧ r.dpa = off / 64 * 64 ∧
      r.kind = k ∧ r.cls = s.hostClass 0 ∧ t.mem = s.mem ∧ t.ctxs = s.ctxs
    let alone := fun (fn : Nat) => ∀ a ∈ s.hostAcc, a.fn ≠ fn
    let micro := fun (m : Micro) (p : State → Prop) =>
      ∃ t, step { s with cur := {}, todo := ⟨s.now, rankUntimed, .micro m⟩ :: s.todo } = .next t ∧ p t ∧ t.mem = s.mem
    let reads := fun (t : State) (j : Job) (base len : Nat) (bs : List Byte) => ∃ l, t.loans = s.loans ++ [l] ∧
      l.owner = .job j ∧ l.span = (base, len) ∧ l.data = srun 0 base bs
    (s.devState ≠ .quarantine → alone 0 → 0 < n → off % 64 + n ≤ 64 → backed (off + n - 1) = true →
      off + n ≤ s.barBytes 0 → bytes.length = n →
      asks (.hostMemoryRead 0 off n) .read ∧
      asks (.hostMemoryWrite 0 off bytes false) (.write (cellsFrom (off % 64) bytes) []) ∧
      asks (.hostMemoryWrite 0 off bytes true) (.write (cellsFrom (off % 64) bytes)
        ([0, 1].filter (fun c => (cellsFrom (off % 64) bytes).any (fun e => e.1 / 32 == c)))) ∧
      (n = 4 ∨ n = 8 → off % n = 0 →
        asks (.hostFetchadd 0 off n v) (.atomic 0x10 (off % 64) n 1 v.toNat 0) ∧
        asks (.hostSwap 0 off n v) (.atomic 0x16 (off % 64) n 0 v.toNat 0) ∧
        asks (.hostCas 0 off n cmp v) (.atomic 0x17 (off % 64) n 0 v.toNat cmp.toNat))) ∧
    (∀ fn, alone fn → 0 < n →
      (s.devState = .quarantine ∨ s.barBytes fn < off + n ∨ (fn = 0 ∧ backed (off + n - 1) = false) ∨
          (fn ≠ 0 ∧ s.boundPart fn = none) →
        ∃ t, exec (.hostMemoryRead fn off n) s = .next t ∧ sget none t.hostReplies fn = some { ur := true } ∧
          t.pcs = s.pcs ∧ t.loans = s.loans ∧ t.mem = s.mem) ∧
      (∀ p, s.devState ≠ .quarantine → off + n ≤ s.barBytes fn → fn ≠ 0 → s.boundPart fn = some p →
        ∃ t, exec (.hostMemoryRead fn off n) s = .next t ∧ t.pcs = s.pcs ∧ t.mem = s.mem ∧
          ∃ l, t.loans = s.loans ++ [l] ∧ l.owner = .job (.bar2 s.nextId) ∧ l.span = (off, n) ∧ l.part = p ∧
            l.root = (s.partition p).root ∧ l.phys = false)) ∧
    (∀ q, let d := s.hostQueue q
      (d.en = false → exec (.queueDoorbell q) s = .next s ∧ exec (.queuePoll q) s = .next s) ∧
      (d.en = true →
        (∃ t m, exec (.queueDoorbell q) s = .next t ∧ 1 ≤ m ∧ m ≤ 64 ∧
          ⟨s.now + m, rankUntimed, .op (.queuePoll q)⟩ ∈ t.agenda ∧ t.mem = s.mem) ∧
        (∃ t, exec (.queuePoll q) s = .next t ∧ t.mem = s.mem ∧
          (d.pollAt ≤ s.now → ∃ m, 1 ≤ m ∧ m ≤ 1024 ∧ ⟨s.now + m, rankUntimed, .op (.queuePoll q)⟩ ∈ t.agenda) ∧
          (d.busy = true → t.loans = s.loans) ∧
          (d.busy = false → reads t (.queueIndex q d.runs) d.ridx 8 [] ∧
            ∃ l ∈ t.loans, l.owner = .job (.queueIndex q d.runs) ∧ l.phys = d.pf ∧
              (d.pf = false → l.part = d.part ∧ l.root = (s.partition d.part).root)))) ∧
      (∀ h bs run, let slot := h % 2 ^ d.lg
        micro (.jobDone (.queueIndex q run) 0 bs) (fun t =>
          reads t (.queueWord q run (leNat bs)) (d.rdy + 8 * (leNat bs % 2 ^ d.lg)) 8 []) ∧
        (leNat bs = (h + 1) % 2 ^ 64 → d.runs = run → micro (.jobDone (.queueWord q run h) 0 bs) (fun t =>
          reads t (.queueRecord q h) (d.base + 64 * slot) 64 [] ∧ t.hostQueue q = { d with busy := true, runs := run + 1 })) ∧
        (leNat bs ≠ (h + 1) % 2 ^ 64 ∨ d.runs ≠ run → micro (.jobDone (.queueWord q run h) 0 bs) (fun t =>
          t.loans = s.loans ∧ t.queues = s.queues)) ∧
        (queueRecordGood (BitVec.ofNat 512 (leNat bs)) = true → micro (.jobDone (.queueRecord q h) 0 bs) (fun t =>
          (t.hostQueue q).slot = some h ∧ ∃ l, t.loans = s.loans ++ [l] ∧ l.owner = .queue q ∧
            l.raw = BitVec.ofNat 512 (leNat bs) ∧ l.cls = d.cls ∧ l.phys = d.pf)) ∧
        (queueRecordGood (BitVec.ofNat 512 (leNat bs)) = false → micro (.jobDone (.queueRecord q h) 0 bs) (fun t =>
          reads t (.queueStatus q h) (d.sts + slot) 1 [0xFF])) ∧
        (∀ st, d.slot = some h → d.last = some st → micro (.queueKick q) (fun t =>
          reads t (.queueStatus q h) (d.sts + slot) 1 (leBytes 1 st))) ∧
        micro (.jobDone (.queueStatus q h) 0 bs) (fun t => reads t (.queueNext q h) d.ridx 8 (leBytes 8 (h + 1))) ∧
        micro (.jobDone (.queueNext q h) 0 bs) (fun t => (t.hostQueue q).slot = none ∧ (t.hostQueue q).busy = false ∧
          ⟨s.now, rankUntimed, .op (.queuePoll q)⟩ ∈ t.todo))) ∧
    (let writes := fun (r : DevReg) (p : State → Prop) => ∃ t, exec (.registerWrite r v) s = .next t ∧ p t ∧ t.mem = s.mem ∧
        t.ctxs = s.ctxs
     let m := v.toNat
     (∀ r : DevReg, r.ok = false → exec (.registerWrite r v) s = .next s) ∧
      writes .endTimer (fun t => t.endTimer = (if 2 ^ 12 ≤ m ∧ m ≤ 2 ^ 24 then m else s.endTimer)) ∧
      (∀ dst, dst < 2048 → writes (.route dst) (fun t => sget none t.routes dst = some (m % 32) ∧
        (∀ x, x ≠ dst → sget none t.routes x = sget none s.routes x) ∧
        (∀ p ∈ s.unrouted, p.dst = dst → ⟨s.now, rankUntimed, .op (.packetRoute p)⟩ ∈ t.todo) ∧
        ∀ p ∈ t.unrouted, p.dst ≠ dst)) ∧
      (∀ l, l < 24 → m % 4 ≠ 1 → m % 4 ≠ 3 → (s.link l).st ≠ 2 → writes (.link l) (fun t =>
        (t.link l).st = m % 4 ∧ (t.link l).open_ = v.getLsbD 2 ∧ (t.link l).upl = v.getLsbD 3 ∧
          (t.link l).rpl = m / 2 ^ 40 % 65536 ∧
          (t.link l).lam = (if m / 2 ^ 12 % 1024 < (s.link l).f then (s.link l).lam else m / 2 ^ 12 % 1024) ∧
          (t.link l).outT = (s.link l).outT ∧ (t.link l).inT = (s.link l).inT)) ∧
      (∀ l, l < 24 → m % 4 = 1 → (s.link l).st = 0 → writes (.link l) (fun t => (t.link l).st = 1 ∧
        (t.link l).f ≤ (t.link l).lam)) ∧
      (∀ l, l < 24 → m % 4 ≠ 2 → m % 4 ≠ 3 → (s.link l).st = 2 → writes (.link l) (fun t => (t.link l).st = m % 4 ∧
        (t.link l).unacked = [] ∧ t.linkReports = s.linkReports ++ [(l, 0)])) ∧
      (∀ q, q < 256 → let d := s.hostQueue q
        writes (.queue none q 0) (fun t => (t.hostQueue q).en = v.getLsbD 0 ∧ (t.hostQueue q).part = m / 2 % 16 ∧
          (t.hostQueue q).pf = v.getLsbD 5 ∧ (t.hostQueue q).cls = m / 64 % 4 ∧ (t.hostQueue q).lg = m / 256 % 32 ∧
          (t.hostQueue q).base = d.base) ∧
        writes (.queue none q 1) (fun t => t.hostQueue q = { d with base := m }) ∧
        writes (.queue none q 2) (fun t => t.hostQueue q = { d with widx := m }) ∧
        writes (.queue none q 3) (fun t => t.hostQueue q = { d with ridx := m }) ∧
        writes (.queue none q 4) (fun t => t.hostQueue q = { d with rdy := m }) ∧
        writes (.queue none q 5) (fun t => t.hostQueue q = { d with sts := m }) ∧
        writes (.queue none q 6) (fun t => ∃ e ∈ t.todo, e.ev = .op (.queueDoorbell q)) ∧
        (∀ fn word, 0 < fn → fn < 16 → word < 8 → d.pf = true ∨ s.boundPart fn ≠ some d.part →
          writes (.queue (some fn) q word) (fun t => t.queues = s.queues ∧
            sget none t.hostReplies fn = some { ur := true }))) ∧
      (∀ fn, fn < 16 →
        writes (.functionClass fn) (fun t => t.hostClass fn = m % 4) ∧
        (m < 10 → writes (.barSize fn) (fun t => t.barBytes fn = 2 ^ (30 + m))) ∧
        (s.hostMay fn true = true →
          (∀ word, word < 504 → writes (.mailboxArg fn word) (fun t => sget 0 (t.box fn).args word = v ∧
            (t.box fn).st = (s.box fn).st)) ∧
          (v.getLsbD 2 = true → writes (.mailboxSts fn) (fun t => ∃ e ∈ t.todo, e.ev = .op (.statusOverrunClear fn))) ∧
          (v.getLsbD 2 = false → exec (.registerWrite (.mailboxSts fn) v) s = .next s) ∧
          (s.devState ≠ .quarantine ∨ quarantineServes fn (m % 256) = true →
            ((s.box fn).st = 1 → writes (.mailboxCmd fn) (fun t => t.box fn = { s.box fn with ovr := true } ∧
              t.cmdQueue = s.cmdQueue)) ∧
            ((s.box fn).st ≠ 1 → writes (.mailboxCmd fn) (fun t => (t.box fn).st = 1 ∧ (t.box fn).op = v.setWidth 8 ∧
              (t.box fn).tag = BitVec.ofNat 8 (m / 256) ∧ t.cmdQueue = s.cmdQueue ++ [fn]))) ∧
          (s.devState = .quarantine → quarantineServes fn (m % 256) = false →
            writes (.mailboxCmd fn) (fun t => sget none t.hostReplies fn = some { ur := true } ∧ t.boxes = s.boxes)) ∧
          ((s.box fn).st < 4 → (s.box fn).res < 2 ^ 16 → ∃ w, s.bar0Read fn (0x02000000 + 4096 * fn + 8) = some w ∧
            w.toNat % 4 = (s.box fn).st ∧ w.getLsbD 2 = (s.box fn).ovr ∧ w.toNat / 2 ^ 8 % 256 = (s.box fn).rtag.toNat ∧
            w.toNat / 2 ^ 16 % 2 ^ 16 = (s.box fn).res ∧ w.toNat / 2 ^ 32 = s.devState.code)) ∧
        (s.hostMay fn true = false →
          let refused := fun (t : State) => sget none t.hostReplies fn = some { ur := true } ∧ t.boxes = s.boxes
          writes (.mailboxCmd fn) refused ∧ (v.getLsbD 2 = false → writes (.mailboxSts fn) refused) ∧
          ∀ word, word < 504 → writes (.mailboxArg fn word) refused) ∧
        (∀ x, x < 2 ^ 26 → x % 8 = 0 → bar0Reg fn x = none →
          (s.hostMay fn false = true → exec (.registerWrite (.bar0 fn x) v) s = .next s) ∧
          (s.hostMay fn false = false → writes (.bar0 fn x) (fun t => sget none t.hostReplies fn = some { ur := true }))) ∧
        exec (.registerWrite (.bar0 fn (0x02000000 + 4096 * fn)) v) s = exec (.registerWrite (.mailboxCmd fn) v) s ∧
        exec (.registerWrite (.bar0 fn (0x02000000 + 4096 * fn + 8)) v) s = exec (.registerWrite (.mailboxSts fn) v) s ∧
        (∀ i, i < 504 → exec (.registerWrite (.bar0 fn (0x02000000 + 4096 * fn + 64 + 8 * i)) v) s =
          exec (.registerWrite (.mailboxArg fn i) v) s) ∧
        ∀ q word, q < 256 → word < 8 → exec (.registerWrite (.bar0 fn (0x01000000 + 64 * q + 8 * word)) v) s =
          exec (.registerWrite (.queue (some fn) q word) v) s) ∧
      (∀ p num, p < 512 → num < 12 → writes (.unitMode p num) (fun t =>
        sget 0 (t.pseudo p).modes num = (if s.devState = .start then v.setWidth 8 else sget 0 (s.pseudo p).modes num))) ∧
      ∀ k, k < 1152 → writes (.hotContext k) (fun t => k ∈ t.hotNamed ↔ v.getLsbD 0 = true))

/-- Commands that report or set, in the device states that serve them (O58) and from the functions that may give them: each ends
with result 0 and its own effect when its arguments are good, with result 4 when they are not, and with result 2 when it names
what is not the function's. STATUS and TELEMETRY put their words into the page from its first word on:
the device state, the timing table and the values of mode registers 12 to 15; the reports of the function's partitions and, for
the PF, the stopped contexts and what the device shows as a whole. ATTESTATION writes its report to the buffer and IMAGE_WRITE
reads the image from one, and each ends with that access (R290, R291, R344, R345, R347, R348, R353, R360, R362, R397, R398,
R400, R417). The words' order and the argument registers are the model's choice (log 19), as are the layout of a signed image
(log 10), when the accesses are made (log 11), that what does not exist is reported with 4 before 2 is for what is another
function's, and that an argument of 16 or more unbinds a function (log 44). -/
def Obligations.MailboxSettings : Prop :=
  ∀ (s : State),
    let ends := fun (i : Instr) (p : State → Prop) => ∃ t, exec i s = .next t ∧ p t ∧ (t.box s.cmd).st = 2 ∧
      (t.box s.cmd).res = 0 ∧ (t.box s.cmd).rtag = (s.box s.cmd).tag
    let fails := fun (i : Instr) (r : Nat) => ∃ t, exec i s = .next t ∧ (t.box s.cmd).st = 3 ∧ (t.box s.cmd).res = r ∧
      t.mem = s.mem ∧ t.ctxs = s.ctxs ∧ t.launches = s.launches ∧ t.loans = s.loans ∧ t.binds = s.binds ∧
      t.coreWin = s.coreWin ∧ t.dieWin = s.dieWin ∧ t.flashQueue = s.flashQueue
    let shows := fun (t : State) (l : List Reg) => ∀ i x, i < 504 → l[i]? = some x → sget 0 (t.box s.cmd).args i = x
    let reps := (s.reports.filter (fun r => s.mine r.1)).map (fun r => [r.1, r.2.1, r.2.2.1, r.2.2.2])
    let stops := if s.cmd = 0 then s.stops.map (fun e => [e.1, e.2.1.toNat, e.2.2.1.toNat, e.2.2.2.toNat]) else []
    let micro := fun (m : Micro) (p : State → Prop) =>
      ∃ t, step { s with cur := {}, todo := ⟨s.now, rankUntimed, .micro m⟩ :: s.todo } = .next t ∧ p t ∧ t.mem = s.mem
    let runs := s.devState = .run ∨ s.devState = .trip
    let n := s.arg 0 % 64
    let k := s.arg 0
    let live := fun (k : Nat) => (s.ctxAt k).present = true
    let mine := fun (k : Nat) => s.mine (s.ctxAt k).part = true
    ends .status (fun t => shows t ((match s.devState with
        | .start => 0
        | .run => 1
        | .quarantine => 2
        | .trip => 3) :: s.timingNow.words.map (BitVec.ofNat 64) ++
          [12, 13, 14, 15].flatMap (fun n => BitVec.ofNat 64 (Config.modeValues n).length ::
            (Config.modeValues n).map (fun v => v.setWidth 64))) ∧ t.mem = s.mem ∧ t.ctxs = s.ctxs) ∧
      (runs → ends .telemetry (fun t => shows t (((reps.length :: reps.flatten ++ stops.length :: stops.flatten ++
          (if s.cmd = 0 then s.deviceWords else [])).drop (s.arg 0)).map (BitVec.ofNat 64)) ∧ t.mem = s.mem ∧
          t.ctxs = s.ctxs) ∧
        (live k → mine k → ends .hostInterrupt (fun t => (t.ctxAt k).ev.host = some (BitVec.ofNat 16 (s.arg 1)) ∧
          (∀ j, j ≠ k → t.ctxAt j = s.ctxAt j) ∧ t.mem = s.mem)) ∧
        (¬ live k → fails .hostInterrupt 4) ∧ (live k → ¬ mine k → fails .hostInterrupt 2) ∧
        (s.arg 1 ≤ 4 → live k → mine k → ends .breakpoints (fun t =>
          (t.ctxAt k).breaks = (List.range (s.arg 1)).map (fun i => BitVec.ofNat 32 (s.arg (2 + i))) ∧
          (∀ j, j ≠ k → t.ctxAt j = s.ctxAt j) ∧ t.mem = s.mem)) ∧
        (4 < s.arg 1 ∨ ¬ live k → fails .breakpoints 4) ∧ (s.arg 1 ≤ 4 → live k → ¬ mine k → fails .breakpoints 2) ∧
        ((∀ i, i < n → live (s.arg (1 + i)) ∧ mine (s.arg (1 + i))) →
          ends .preEmpt (fun t => (∀ i, i < n → (t.ctxAt (s.arg (1 + i))).ev.preempt = true) ∧
            (∀ j, (∀ i, i < n → j ≠ s.arg (1 + i)) → t.ctxAt j = s.ctxAt j) ∧ t.mem = s.mem)) ∧
        ((∃ i, i < n ∧ ¬ live (s.arg (1 + i))) → fails .preEmpt 4) ∧
        ((∀ i, i < n → live (s.arg (1 + i))) → (∃ i, i < n ∧ ¬ mine (s.arg (1 + i))) → fails .preEmpt 2)) ∧
      (runs → s.cmd = 0 →
        (0 < s.arg 1 → s.arg 1 < 2 ^ 40 → 0 < s.arg 2 → s.arg 2 ≤ 255 →
          (s.arg 0 = 0 → ends .windowFigures (fun t => t.coreWin = (BitVec.ofNat 40 (s.arg 1), s.arg 2) ∧
            t.dieWin = s.dieWin)) ∧
          (s.arg 0 = 1 → ends .windowFigures (fun t => t.dieWin = (BitVec.ofNat 40 (s.arg 1), s.arg 2) ∧
            t.coreWin = s.coreWin))) ∧
        (1 < s.arg 0 ∨ s.arg 1 = 0 ∨ 2 ^ 40 ≤ s.arg 1 ∨ s.arg 2 = 0 ∨ 255 < s.arg 2 → fails .windowFigures 4) ∧
        (0 < s.arg 0 → s.arg 0 ≤ 15 → ends .functionBinding (fun t =>
          sget none t.binds (s.arg 0) = (if s.arg 1 < 16 then some (s.arg 1) else none) ∧
          ∀ x, x ≠ s.arg 0 → sget none t.binds x = sget none s.binds x)) ∧
        (s.arg 0 = 0 ∨ 15 < s.arg 0 → fails .functionBinding 4) ∧
        (s.arg 0 % 64 = 0 → backed (s.arg 0 + 17535) = true → ∃ t l, exec .attestation s = .next t ∧
          t.loans = s.loans ++ [l] ∧ l.owner = .job (.report s.cmd) ∧ l.phys = true ∧ l.span = (s.arg 0, 17536) ∧
          l.data = srun 0 (s.arg 0) s.attestReport ∧ t.box s.cmd = s.box s.cmd ∧ t.mem = s.mem) ∧
        (s.arg 0 % 64 ≠ 0 ∨ backed (s.arg 0 + 17535) = false → fails .attestation 4)) ∧
      (s.devState ≠ .start → s.cmd = 0 →
        (0 < s.arg 1 → backed (s.arg 0 + s.arg 1 - 1) = true → ∃ t l, exec .imageWrite s = .next t ∧
          t.loans = s.loans ++ [l] ∧ l.owner = .job (.image s.cmd) ∧ l.phys = true ∧ l.span = (s.arg 0, s.arg 1) ∧
          t.box s.cmd = s.box s.cmd ∧ t.mem = s.mem) ∧
        (s.arg 1 = 0 ∨ backed (s.arg 0 + s.arg 1 - 1) = false → fails .imageWrite 4)) ∧
      ∀ fn bs, micro (.jobDone (.report fn) 0 bs) (fun t => (t.box fn).st = 2 ∧ (t.box fn).res = 0) ∧
        micro (.jobDone (.image fn) 0 bs) (fun t => (t.box fn).st = 2 ∧ (t.box fn).res = 0 ∧
          t.flashQueue = s.flashQueue ++ [.image bs])

/-- The first command of the queue is judged (R394, R396, R400): during a start all but status end with result 3; in quarantine
all but status, image write and clear quarantine of the PF are answered with Unsupported Request; otherwise a code above 0x0F
ends with result 1, a VF's code that a VF may not use with result 2, each without any other effect; any other command goes to
its row, for its function. Commands that act on launches and starts, from the functions and in the device states that this leaves
them: LAUNCH submits its record, whose image is then read, and answers its number; END_LAUNCH forces a live launch to end and takes
any other back; RESTORE keeps the slot while the save area is read, and then the context stands there at its recorded PC;
INVALIDATE stays busy until its invalidation completes; and the three that start the device begin the start that their rule
names, and stay busy until it ends. Outside their conditions they end with result 2, 3 or 4 (R310, R319, R323, R350, R393, R394,
R396, R399, R400). The model's choices here: the argument registers, the launch's number as the answer, and the result 3 that a
mailbox shows of a command that quarantine refused (log 19), when reads are made (log 11), the free result of a command whose start
is cut off (log 6), what a start keeps (log 108), that TRIP refuses a warm start (log 34), that a mailbox stays busy until the
start that it asked for ends (log 35), and the order of the results: a launch in TRIP has 3 whoever names its partition, and an end
or a restore has 4 for what does not exist, then 2 for another function's, then 4 for a slot that does not fit (log 44). -/
def Obligations.MailboxActions : Prop :=
  ∀ (s : State),
    let judged := fun (p : State → Prop) =>
      ∃ t, step { s with cur := {}, todo := ⟨s.now, rankServe, .micro .serve⟩ :: s.todo } = .next t ∧ p t
    (s.cmdQueue = [] → judged (fun t => t = { s with cur := {} })) ∧
    (∀ f r, s.cmdQueue = f :: r →
      let op := (s.box f).op.toNat
      let answers := fun (res : Nat) (t : State) => (t.box f).st = 3 ∧ (t.box f).res = res ∧ (t.box f).rtag = (s.box f).tag ∧
        t.cmdQueue = r ∧ t.mem = s.mem ∧ t.ctxs = s.ctxs ∧ t.launches = s.launches ∧ t.devState = s.devState
      let served := f = 0 ∧ (op = 0 ∨ op = 0x0E ∨ op = 0x0F)
      let ofVf := op = 0 ∨ (3 ≤ op ∧ op ≤ 9) ∨ op = 0x0B
      let goes := judged (fun t => t = { s with cur := {}, cmd := f, todo := ⟨s.now, rankIssue, .op (mailInstr op)⟩ :: s.todo })
      (s.devState = .start → (op ≠ 0 → judged (answers 3)) ∧ (op = 0 → goes)) ∧
      (s.devState = .quarantine →
        (¬ served → judged (fun t => answers 3 t ∧ sget none t.hostReplies f = some { ur := true })) ∧ (served → goes)) ∧
      (s.devState = .run ∨ s.devState = .trip →
        (0x0F < op → judged (answers 1)) ∧ (op ≤ 0x0F → f ≠ 0 → ¬ ofVf → judged (answers 2)) ∧
        (op ≤ 0x0F → f = 0 ∨ ofVf → goes))) ∧
    let fn := s.cmd
    let runs := s.devState = .run ∨ s.devState = .trip
    let ended := fun (t : State) => (t.box fn).st = 2 ∧ (t.box fn).res = 0
    let fails := fun (i : Instr) (r : Nat) => ∃ t, exec i s = .next t ∧ (t.box fn).st = 3 ∧ (t.box fn).res = r ∧
      t.mem = s.mem ∧ t.ctxs = s.ctxs ∧ t.launches = s.launches
    let starts := fun (i : Instr) (warm quarantined : Bool) => ∃ t, exec i s = .next t ∧
      t.devState = (if quarantined then .quarantine else .start) ∧ t.mem = [] ∧
      t.launches = [] ∧ t.ctxs = [] ∧
      t.starting = some { warm := warm, step := 1, began := s.now, number := s.startNo + 1, fn := some fn } ∧
      ⟨s.now + 2 ^ 36, rankUntimed, .op .startTimeout⟩ ∈ t.agenda ∧ (s.starting = none → t.box fn = s.box fn)
    (s.devState = .run → s.mine (lrPart s.argRecord) = true →
      ∃ t l, exec .launch s = .next t ∧ t.launches = s.launches ++ [l] ∧ l.raw = s.argRecord ∧ l.stage = .checking ∧
        l.home = (s.partition (lrPart s.argRecord)).dies.headD 0 ∧ sget 0 (t.box fn).args 0 = BitVec.ofNat 64 l.id ∧
        (∃ m ∈ t.loans, m.owner = .job (.imgRead l.id) ∧ m.span = (lrImg s.argRecord, 128)) ∧
        ended t ∧ t.mem = s.mem) ∧
      (s.devState ≠ .run → fails .launch 3) ∧
      (s.devState = .run → s.mine (lrPart s.argRecord) = false → fails .launch 2) ∧
      (runs → s.launchOf (s.arg 0) = none → fails .endLaunch 4) ∧
      (∀ l, runs → s.launchOf (s.arg 0) = some l →
        (s.mine l.part = false → fails .endLaunch 2) ∧
        (s.mine l.part = true → l.stage = .live →
          ∃ t, exec .endLaunch s = .next t ∧ (∀ m ∈ t.launches, m.id = l.id → m.forced = true) ∧ ended t ∧ t.mem = s.mem) ∧
        (s.mine l.part = true → l.stage ≠ .live →
          ∃ t, exec .endLaunch s = .next t ∧ t.launchOf l.id = none ∧ t.ctxs = s.ctxs ∧ ended t ∧ t.mem = s.mem)) ∧
      (runs → s.saved.find? (fun v => v.id == s.arg 0 && !s.restoring v) = none → fails .restore 4) ∧
      (∀ v, runs → s.saved.find? (fun v => v.id == s.arg 0 && !s.restoring v) = some v →
        (s.mine v.ctx.part = false → fails .restore 2) ∧ (s.mine v.ctx.part = true →
        (s.slotFits v (s.arg 1) = true → s.roomFor v.ctx (coreOf (s.arg 1)) = true →
          ∃ t l, exec .restore s = .next t ∧ (t.ctxAt (s.arg 1)).stage = .wait ∧ t.loans = s.loans ++ [l] ∧
            l.owner = .job (.restore v.id (s.arg 1) none (some fn)) ∧ l.span = (v.ctx.saveVA, 0x10000 + v.ctx.runBytes) ∧
            (∀ k, k ≠ s.arg 1 → t.ctxAt k = s.ctxAt k) ∧ t.boxes = s.boxes ∧ t.mem = s.mem) ∧
        (s.slotFits v (s.arg 1) = false ∨ s.roomFor v.ctx (coreOf (s.arg 1)) = false → fails .restore 4))) ∧
      (∀ v key a f, s.saved.find? (fun x => x.id == v.id) = some v →
        ∃ t, step { s with cur := {}, todo :=
            ⟨s.now, rankUntimed, .micro (.jobDone (.restore v.id key none (some f)) 0 a)⟩ :: s.todo } = .next t ∧
          (t.ctxAt key).stage = .run ∧ (t.ctxAt key).sup = false ∧ (t.ctxAt key).pc = alignPc (areaWord a 0x10) ∧
          (t.ctxAt key).launch = v.ctx.launch ∧ (∀ x ∈ t.saved, x.id ≠ v.id) ∧ t.mem = s.mem ∧
          ⟨s.now, rankUntimed, .micro (.mailEnd f 0)⟩ ∈ t.todo) ∧
      (runs → s.mine (s.arg 0) = true → ∃ t, exec .invalidate s = .next t ∧ (∃ i ∈ t.invals, i.fn = some fn) ∧
        t.box fn = s.box fn ∧ t.mem = s.mem) ∧
      (runs → s.mine (s.arg 0) = false → fails .invalidate 2) ∧
      (fn = 0 →
        (s.devState = .run → starts .warmStart true s.flashNow.quarantine) ∧ (s.devState = .trip → fails .warmStart 3) ∧
        (s.devState = .run ∨ s.devState = .trip → starts .coldStart false s.flashNow.quarantine) ∧
        (s.devState ≠ .start → starts .clearQuarantine false (s.markQuarantine false).flashNow.quarantine ∧
          ∃ t, exec .clearQuarantine s = .next t ∧ t.flash.quarantine = false))

/-- Starts and their ends: power-on begins a cold start and a hot reset a warm one outside quarantine and TRIP, in device state
START, or in quarantine where flash has its mark; a start that is 2^36 cycles old fails and counts; after a failure the next
start follows R395, and the third failed cold start in a row is quarantine; a step 10 that is done makes the device run; ten
minutes of running clear the counts; power loss keeps board flash alone, what the stacks are and what the sensors show (log
132); lost coolant flow ends every launch, places SRE on each channel that is not in self-refresh, after PDX where it is in
power-down and PREA on both its pseudo-channels, each at the first cycle that the command rules allow (log 13), and trips the
device, but not out of quarantine (R302, R360, R386, R393 to R396, R399). That a start keeps time, inputs, flash and mailboxes
is the model's choice (log 108), as are free times of its steps (log 6) and the outcome of tests and training (log 17); that a
trip leaves quarantine as it is (log 104); and that a hot reset is without effect in quarantine and TRIP (log 34). -/
def Obligations.StartRows : Prop :=
  ∀ (s : State),
    let begins := fun (i : Instr) (warm : Bool) => ∃ t, exec i s = .next t ∧
      t.devState = (if s.flashNow.quarantine then .quarantine else .start) ∧ t.mem = [] ∧
      t.launches = [] ∧ t.ctxs = [] ∧ t.flash = s.flash ∧ t.now = s.now ∧ t.skew = s.skew ∧ t.jedec = s.jedec ∧
      t.starting = some { warm := warm, step := 1, began := s.now, number := s.startNo + 1, fn := none } ∧
      ⟨s.now + 2 ^ 36, rankUntimed, .op .startTimeout⟩ ∈ t.agenda ∧ (s.starting = none → t.boxes = s.boxes)
    begins .powerOn false ∧
      (s.devState ≠ .quarantine → s.devState ≠ .trip → begins .pcieHotReset true) ∧
      (s.devState = .quarantine ∨ s.devState = .trip → exec .pcieHotReset s = .next s) ∧
      (∀ st, s.starting = some st → st.step ≠ 0 → st.began + 2 ^ 36 ≤ s.now →
        ∃ t, exec .startTimeout s = .next t ∧ t.starting = some { st with step := 0, fn := none } ∧
          t.flashQueue = s.flashQueue ++ [if st.warm then .fails (s.flashNow.warmFails + 1) s.flashNow.coldFails
            else .fails s.flashNow.warmFails (s.flashNow.coldFails + 1)] ∧
          ⟨s.now, rankUntimed, .op .restartAfterFailure⟩ ∈ t.todo ∧ t.mem = s.mem) ∧
      (∀ st, s.starting = some st → st.step = 0 ∨ s.now < st.began + 2 ^ 36 → exec .startTimeout s = .next s) ∧
      (∀ st, s.starting = some st → st.step = 0 →
        (st.warm = true → s.flashNow.warmFails < 2 → begins .restartAfterFailure true) ∧
        (st.warm = true → 2 ≤ s.flashNow.warmFails → begins .restartAfterFailure false) ∧
        (st.warm = false → s.flashNow.coldFails < 3 → begins .restartAfterFailure false) ∧
        (st.warm = false → 3 ≤ s.flashNow.coldFails → ∃ t, exec .restartAfterFailure s = .next t ∧
          t.devState = .quarantine ∧ t.starting = none ∧ t.flash.quarantine = true)) ∧
      (∀ st, s.starting = some st → st.step = 10 → s.joined st = true →
        ∃ t, step { s with cur := {}, todo := ⟨s.now, rankUntimed, .micro .startStep⟩ :: s.todo } = .next t ∧
          t.devState = .run ∧ t.starting = none ∧ t.runSince = some s.now ∧
          t.flashQueue = s.flashQueue ++ [.good st.number]) ∧
      (∀ r, s.runSince = some r →
        (r + 780000000000 ≤ s.now →
          ∃ t, exec .startLogClear s = .next t ∧ t.flashQueue = s.flashQueue ++ [.fails 0 0] ∧ t.mem = s.mem) ∧
        (s.now < r + 780000000000 → exec .startLogClear s = .next s)) ∧
      (∃ t, exec .powerLoss s = .next t ∧ t.flash = s.flash ∧ t.flashQueue = [] ∧ t.mem = [] ∧ t.ctxs = [] ∧
        t.boxes = [] ∧ t.jedec = s.jedec ∧ t.now = s.now ∧ t.devState = .start ∧ t.power = s.power ∧ t.heat = s.heat) ∧
      (s.devState ≠ .quarantine → ∃ t, exec .coolantFlowLost s = .next t ∧ t.devState = .trip ∧ t.runSince = none ∧
        t.starting = none ∧ (∀ m ∈ t.launches, m.stage = .live → m.forced = true) ∧
        ∀ ch, ch < 256 →
          let h := (s.pseudo (2 * ch)).hist
          (inSelfRefresh h = true →
            (t.pseudo (2 * ch)).hist = h ∧ (t.pseudo (2 * ch + 1)).hist = (s.pseudo (2 * ch + 1)).hist) ∧
          (inSelfRefresh h = false →
            let woken := if asleep h then s.control .pdx (2 * ch) else s
            let closed := (woken.control .prea (2 * ch)).control .prea (2 * ch + 1)
            ∀ x, closed.earliest { kind := .sre, pc := 2 * ch, bank := 0, row := 0, col := 0, at_ := s.concI + 1, src := .control }
                (fun _ => true) searchBound (s.concI + 1) = some x →
              s.concI < x.at_ ∧ x ∈ (t.pseudo (2 * ch)).hist ∧ { x with pc := 2 * ch + 1 } ∈ (t.pseudo (2 * ch + 1)).hist ∧
                ⟨s.now + (x.at_ - s.concI).toNat, rankSample, .op (.commandArrival x)⟩ ∈ t.agenda)) ∧
      (s.devState = .quarantine → exec .coolantFlowLost s = .next s)

/-- The steward's watch. It samples the power in each cycle whose count is a multiple of 2^17, and the temperatures and each
die's answer in one whose count is a multiple of 2^20, from what the sensors and the dies showed last. POWER_SAMPLE keeps the
last 16 samples; their mean over the limit pre-empts class 3 first and class 2 at the next sample still over; TEMPERATURE_SAMPLE
keeps the sample, interrupts the named contexts at 95 °C, pre-empts all classes but 0 at 100 °C and trips the device at 105 °C,
in each case at the first sample past the figure; a poll that a die answers changes nothing, and a die that is silent while none
is spare is retired, the spare die too. RESERVE_CORE_TAKEOVER of an idle core moves its position to the reserve core; of a core
with contexts it retires the core, takes the reserve and raises repair pending in the partition. SPARE_DIE_TAKEOVER with a spare
raises repair pending in the partitions on the die, and at the deadline SAVE_DEADLINE_EXPIRY loses its unsaved contexts; without
one the die is retired, and the launches with a context on it, and no others, are ended. SOFT_ERROR marks what it upsets: an
error that the code corrects counts at each read, one that it does not poisons, an accumulator's bit changes;
STATUS_OVERRUN_CLEAR clears the one bit (R303, R354, R361 to R366, R399, R400). That a corrected error stays stored until a
write is the model's choice (log 28), as are in which cycles of its periods the steward samples and that readings come as inputs
(log 132), what a decision of a takeover finds when its reserve is gone (log 105), when the steward's work is done (log 6), and
that 100 °C pre-empts every class but 0 at one sample (log 38). -/
def Obligations.StewardRows : Prop :=
  ∀ (s : State),
    let repairs := fun (t : State) (part lvl : Nat) => ∀ k, (s.ctxAt k).present = true → (s.ctxAt k).part = part →
      (s.ctxAt k).stage ≠ .saving → (t.ctxAt k).ev.repair = some (BitVec.ofNat 64 lvl)
    (∀ mw,
      let last := (s.powers ++ [mw]).drop (s.powers.length + 1 - 16)
      let past := last.length = 16 ∧ 16 * 1800000 < last.sum
      let samples := fun (level : Nat) (p : State → Prop) => ∃ t, exec (.powerSample mw) s = .next t ∧ t.powers = last ∧
        t.powers.length ≤ 16 ∧ t.overPower = level ∧ t.mem = s.mem ∧ p t
      let preempts := fun (cls : Nat) (t : State) =>
        (∀ k, (s.ctxAt k).present = true → (s.ctxAt k).cls.toNat = cls → (t.ctxAt k).ev.preempt = true) ∧
        ∀ k, (∀ e ∈ s.ctxs, e.1 = k → ¬(e.2.present = true ∧ e.2.cls.toNat = cls)) → t.ctxAt k = s.ctxAt k
      (past → s.overPower = 0 → samples 1 (preempts 3)) ∧
      (past → s.overPower = 1 → samples 2 (preempts 2)) ∧
      (past → 2 ≤ s.overPower → samples s.overPower (fun t => t.ctxs = s.ctxs)) ∧
      (¬ past → samples 0 (fun t => t.ctxs = s.ctxs))) ∧
      (∀ die md, ∃ t, exec (.temperatureSample die md) s = .next t ∧ sget 0 t.temps die = md ∧
        (sget 0 s.hot die < 3 → 105000 ≤ md → s.devState ≠ .quarantine → t.devState = .trip) ∧
        (md < 105000 → t.devState = s.devState ∧ t.mem = s.mem ∧
          (sget 0 s.hot die < 1 → 95000 ≤ md → ∀ k ∈ s.hotNamed, (s.ctxAt k).present = true →
            (t.ctxAt k).ev.host = some 0xF0) ∧
          (sget 0 s.hot die < 2 → 100000 ≤ md → ∀ k, (s.ctxAt k).present = true → (s.ctxAt k).cls ≠ 0 →
            (t.ctxAt k).ev.preempt = true)) ∧
        (md < 95000 → t.ctxs = s.ctxs)) ∧
      (let reads := fun (m : Micro) (t : State) =>
         step { s with cur := {}, todo := ⟨s.now, rankUntimed, .micro m⟩ :: s.todo } = .next { t with cur := {} }
       (∀ mw, reads (.powerReading mw) { s with power := some mw }) ∧
         (∀ die md, ∃ t, reads (.heatReading die md) t ∧ sget none t.heat die = some md ∧
           ∀ x, x ≠ die → sget none t.heat x = sget none s.heat x) ∧
         (∀ die, (∃ t, reads (.dieAnswers die false) t ∧ ∀ x, x ∈ t.silent ↔ x = die ∨ x ∈ s.silent) ∧
           ∃ t, reads (.dieAnswers die true) t ∧ ∀ x, x ∈ t.silent ↔ x ≠ die ∧ x ∈ s.silent)) ∧
      (s.cur.open_ = false → s.todo = [] → ∃ t, step s = .next t ∧
        let c := ({ s with now := s.now + 1 } : State).conc
        let due := fun (i : Instr) => ⟨s.now + 1, rankUntimed, .op i⟩ ∈ t.todo
        (∀ mw, s.power = some mw → c % 2 ^ 17 = 0 → due (.powerSample mw)) ∧
        (∀ die md, (die, some md) ∈ s.heat → c % 2 ^ 20 = 0 → due (.temperatureSample die md)) ∧
        (∀ die, die < 9 → c % 2 ^ 20 = 0 → due (.dieStatusPoll die (decide (die ∉ s.silent)))) ∧
        ∀ e ∈ s.inputs, e.1 ≤ s.now + 1 →
          (∀ mw, e.2 = .op (.powerSample mw) → ⟨s.now + 1, rankUntimed, .micro (.powerReading mw)⟩ ∈ t.todo) ∧
          (∀ die md, e.2 = .op (.temperatureSample die md) →
            ⟨s.now + 1, rankUntimed, .micro (.heatReading die md)⟩ ∈ t.todo) ∧
          ∀ die answers, e.2 = .op (.dieStatusPoll die answers) →
            ⟨s.now + 1, rankUntimed, .micro (.dieAnswers die answers)⟩ ∈ t.todo) ∧
      (∀ die, exec (.dieStatusPoll die true) s = .next s ∧
        (die ≠ 8 → s.spareFor ≠ some die → s.dieState die = .active →
          (s.spareFree = false → ∃ t, exec (.dieStatusPoll die false) s = .next t ∧ t.dieState die = .retired) ∧
          (s.spareFree = true → ∃ t, exec (.dieStatusPoll die false) s = .next t ∧ t.ctxs = s.ctxs ∧
            ∃ d ∈ t.todo, d.ev = .op (.spareDieTakeover die))) ∧
        (die ≠ 8 → s.spareFor = some die → exec (.dieStatusPoll die false) s = .next s)) ∧
      (s.spareFor = none → s.dieState 8 = .reserve →
        ∃ t, exec (.dieStatusPoll 8 false) s = .next t ∧ t.dieState 8 = .retired ∧ t.ctxs = s.ctxs) ∧
      (∀ core r, s.physState (s.physical core) = .active → s.reserveOf core = some r →
        (s.holds core = false → ∃ t, exec (.reserveCoreTakeover core) s = .next t ∧ t.physical core = r ∧
          t.physState r = .active ∧ t.physState (s.physical core) = .retired) ∧
        (s.holds core = true →
          let w := sget ({} : Window) s.dieEvents (s.physDie (dieOf core))
          (countEvent w.w0 w.n (BitVec.ofNat 40 s.conc) s.dieWin.1.toNat).2 < s.dieWin.2 →
          ∃ t, exec (.reserveCoreTakeover core) s = .next t ∧ t.physState (s.physical core) = .retiring ∧
            t.physState r = .active ∧ t.physical core = s.physical core ∧ t.mem = s.mem ∧
            ⟨s.now, rankUntimed, .micro (.takeover core (s.physical core))⟩ ∈ t.todo ∧
            ∀ part, s.ownerOf core = some part → repairs t part 1)) ∧
      (∀ d, s.dieState d = .active →
        (s.spareFree = true → ∃ t, exec (.spareDieTakeover d) s = .next t ∧ t.dieState d = .retiring ∧
          ⟨s.now + 2 ^ 24, rankUntimed, .op (.saveDeadlineExpiry d)⟩ ∈ t.agenda ∧ t.mem = s.mem ∧
          ∀ part ∈ s.partsOn d, repairs t part 2) ∧
        (s.spareFree = false → ∃ t, exec (.spareDieTakeover d) s = .next t ∧ t.dieState (s.physDie d) = .retired ∧
          (∀ l ∈ s.launches, l.stage = .live → (∃ k ∈ l.ctxs, dieOf (coreOf k) = d) →
            ∀ m ∈ t.launches, m.id = l.id → m.forced = true) ∧
          ∀ l ∈ s.launches, (∀ m ∈ s.launches, m.id = l.id → m.stage = .live → ∀ k ∈ m.ctxs, dieOf (coreOf k) ≠ d) →
            l ∈ t.launches)) ∧
      (∀ d, s.dieState d = .retiring → ∃ t, exec (.saveDeadlineExpiry d) s = .next t ∧ t.mem = s.mem ∧
        ⟨s.now, rankUntimed, .op (.spareDieTakeover d)⟩ ∈ t.todo ∧
        ∀ k, (s.ctxAt k).present = true → dieOf (coreOf k) = d → (t.ctxAt k).lost = true ∧ (t.ctxAt k).stage = .saved) ∧
      (∀ d, s.dieState d ≠ .retiring → exec (.saveDeadlineExpiry d) s = .next s) ∧
      (∀ core addr, (∃ t, exec (.softError (.poolWord core addr true)) s = .next t ∧ addr / 8 ∈ (t.coreAt core).poolSoft ∧
          (t.coreAt core).corrected = (s.coreAt core).corrected ∧ (t.coreAt core).pool = (s.coreAt core).pool) ∧
        (∃ t, exec (.softError (.poolWord core addr false)) s = .next t ∧ addr / 8 ∈ (t.coreAt core).poolBad ∧
          (t.coreAt core).pool = (s.coreAt core).pool) ∧
        (∃ t, exec (.softError (.column addr true)) s = .next t ∧ addr / 32 ∈ t.softCols ∧ t.mem = s.mem ∧
          t.badCols = s.badCols) ∧
        ∃ t, exec (.softError (.column addr false)) s = .next t ∧ t.colBad addr = true ∧ t.mem = s.mem) ∧
      (∀ k z i j bit, i < 128 → j < 128 →
        let y := if bit < 32 then z else z + 1
        ∃ t, exec (.softError (.accumulator k z i j bit)) s = .next t ∧ t.mem = s.mem ∧
          t.zLow k y i = (s.zLow k y i).set j (Nat.xor ((s.zLow k y i).getD j 0) (2 ^ (bit % 32)))) ∧
      ∀ fn, (s.hostMay fn true = true → ∃ t, exec (.statusOverrunClear fn) s = .next t ∧
          t.box fn = { s.box fn with ovr := false } ∧ ∀ x, x ≠ fn → t.box x = s.box x) ∧
        (s.hostMay fn true = false → ∃ t, exec (.statusOverrunClear fn) s = .next t ∧ t.boxes = s.boxes ∧
          sget none t.hostReplies fn = some { ur := true })
end

