-- ==== Sys2Proof/Laws/Store.lean ====
section
/-!
SUPPORT. What sparse storage does: a read after a write at the same key and at every other key, for single writes and for
runs, and the canonical form, which every write keeps. No lemma needs the store to be sorted but those about the form.
-/

namespace Sys2Proof.Machine

/-! ### Reads after writes -/

theorem sget_sput {β : Type} (d : β) (m : Store β) (i j : Nat) (x : β) :
    sget d (sput m i x) j = if i = j then x else sget d m j := by
  induction m with
  | nil => simp [sput, sget]
  | cons e r ih =>
    obtain ⟨k, v⟩ := e
    simp only [sput]
    split
    · simp [sget]
    · split
      · subst_vars; simp only [sget]; split <;> simp_all
      · simp only [sget, ih]; split <;> split <;> simp_all

theorem sget_filter {β : Type} (d : β) (m : Store β) (p : Nat → Bool) (j : Nat) :
    sget d (m.filter (fun e => p e.1)) j = if p j then sget d m j else d := by
  induction m with
  | nil => simp [sget]
  | cons e r ih =>
    obtain ⟨k, v⟩ := e
    simp only [List.filter_cons]
    by_cases hk : k = j
    · subst hk; by_cases hp : p k <;> simp [hp, sget, ih]
    · by_cases hp : p k <;> simp [hp, sget, ih, hk]

theorem sget_sset {β : Type} [DecidableEq β] (d : β) (m : Store β) (i j : Nat) (x : β) :
    sget d (sset d m i x) j = if i = j then x else sget d m j := by
  unfold sset
  split
  · rw [sget_filter d m (fun k => decide (k ≠ i)) j]
    by_cases h : i = j
    · simp_all
    · simp [h, Ne.symm h]
  · exact sget_sput d m i j x

@[simp] theorem sget_sset_same {β : Type} [DecidableEq β] (d : β) (m : Store β) (i : Nat) (x : β) :
    sget d (sset d m i x) i = x := by simp [sget_sset]

theorem sget_sset_other {β : Type} [DecidableEq β] (d : β) (m : Store β) {i j : Nat} (x : β) (h : i ≠ j) :
    sget d (sset d m i x) j = sget d m j := by simp [sget_sset, h]

theorem sget_append {β : Type} (d : β) (m n : Store β) (j : Nat) :
    sget d (m ++ n) j = if m.any (fun e => e.1 == j) then sget d m j else sget d n j := by
  induction m with
  | nil => simp
  | cons e r ih =>
    obtain ⟨k, v⟩ := e
    by_cases h : k = j
    · simp [sget, h]
    · simp only [List.cons_append, sget, if_neg h, List.any_cons, ih]
      cases hk : (k == j) with
      | true => exact absurd (by simpa using hk) h
      | false => rfl

theorem srun_key {β : Type} [DecidableEq β] (d : β) (base : Nat) (vs : List β) :
    ∀ e ∈ srun d base vs, base ≤ e.1 ∧ e.1 < base + vs.length := by
  induction vs generalizing base with
  | nil => simp [srun]
  | cons v r ih =>
    intro e he
    simp only [srun] at he
    split at he
    · have := ih (base + 1) e he; simp only [List.length_cons]; omega
    · rcases List.mem_cons.1 he with h | h
      · subst h; simp
      · have := ih (base + 1) e h; simp only [List.length_cons]; omega

theorem sget_absent {β : Type} (d : β) (m : Store β) (j : Nat) (h : ∀ e ∈ m, e.1 ≠ j) : sget d m j = d := by
  induction m with
  | nil => rfl
  | cons e r ih =>
    obtain ⟨k, v⟩ := e
    have h0 := h (k, v) (by simp)
    simp only [sget, if_neg h0]
    exact ih (fun e he => h e (by simp [he]))

theorem sget_srun {β : Type} [DecidableEq β] (d : β) (base : Nat) (vs : List β) (j : Nat) :
    sget d (srun d base vs) j = if base ≤ j then vs.getD (j - base) d else d := by
  induction vs generalizing base with
  | nil => simp [srun, sget]
  | cons v r ih =>
    simp only [srun]
    by_cases hj : base = j
    · subst hj
      split
      · rename_i hv
        rw [ih (base + 1), if_neg (by omega)]; simp [hv]
      · simp [sget]
    · by_cases hb : base ≤ j
      · have h1 : base + 1 ≤ j := by omega
        have h2 : j - base = (j - (base + 1)) + 1 := by omega
        split
        · rw [ih (base + 1), if_pos h1, h2]; simp
        · simp only [sget, if_neg hj]; rw [ih (base + 1), if_pos h1, h2]; simp
      · have h1 : ¬ base + 1 ≤ j := by omega
        split
        · rw [ih (base + 1), if_neg h1]
        · simp only [sget, if_neg hj]; rw [ih (base + 1), if_neg h1]

theorem any_filter_key {β : Type} (m : Store β) (p : Nat → Bool) (j : Nat) (h : p j = false) :
    (m.filter (fun e => p e.1)).any (fun e => e.1 == j) = false := by
  simp only [List.any_eq_false, List.mem_filter, beq_iff_eq]
  rintro e ⟨_, he⟩ hj
  rw [hj, h] at he
  exact absurd he (by simp)

theorem any_srun_out {β : Type} [DecidableEq β] (d : β) (base : Nat) (vs : List β) (j : Nat)
    (h : j < base ∨ base + vs.length ≤ j) : (srun d base vs).any (fun e => e.1 == j) = false := by
  simp only [List.any_eq_false, beq_iff_eq]
  intro e he hj
  have := srun_key d base vs e he
  omega

/-- A byte of a run that was written reads as the run says, every other key as before. -/
theorem sget_swrite {β : Type} [DecidableEq β] (d : β) (m : Store β) (base : Nat) (vs : List β) (j : Nat) :
    sget d (swrite d m base vs) j =
      if base ≤ j ∧ j < base + vs.length then vs.getD (j - base) d else sget d m j := by
  unfold swrite
  by_cases hlo : j < base
  · have h1 : ¬ (base ≤ j ∧ j < base + vs.length) := by omega
    rw [if_neg h1, List.append_assoc, sget_append, sget_filter d m (fun k => decide (k < base)) j]
    simp only [hlo, decide_true, if_true]
    split
    · rfl
    · rename_i ha
      rw [sget_append, any_srun_out d base vs j (Or.inl hlo)]
      simp only [Bool.false_eq_true, if_false]
      rw [sget_filter d m (fun k => decide (base + vs.length ≤ k)) j]
      have h2 : ¬ base + vs.length ≤ j := by omega
      simp only [h2, decide_false, Bool.false_eq_true, if_false]
      refine (sget_absent d m j ?_).symm
      intro e he hj
      apply ha
      simp only [List.any_eq_true, List.mem_filter, decide_eq_true_eq, beq_iff_eq]
      exact ⟨e, ⟨he, by omega⟩, hj⟩
  · rw [List.append_assoc, sget_append, any_filter_key m (fun k => decide (k < base)) j (by simp; omega)]
    simp only [Bool.false_eq_true, if_false]
    by_cases hhi : base + vs.length ≤ j
    · have h1 : ¬ (base ≤ j ∧ j < base + vs.length) := by omega
      rw [if_neg h1, sget_append, any_srun_out d base vs j (Or.inr hhi)]
      simp only [Bool.false_eq_true, if_false]
      rw [sget_filter d m (fun k => decide (base + vs.length ≤ k)) j]
      simp [hhi]
    · have h1 : base ≤ j ∧ j < base + vs.length := by omega
      rw [if_pos h1, sget_append]
      split
      · rw [sget_srun, if_pos h1.1]
      · rename_i ha
        rw [sget_filter d m (fun k => decide (base + vs.length ≤ k)) j]
        simp only [hhi, decide_false, Bool.false_eq_true, if_false]
        have h2 := sget_srun d base vs j
        rw [if_pos h1.1] at h2
        rw [← h2]
        refine (sget_absent d _ j ?_).symm
        intro e he hj
        apply ha
        simp only [List.any_eq_true, beq_iff_eq]
        exact ⟨e, he, hj⟩

/-! ### Runs -/

theorem sreadFrom_filter {β : Type} (d : β) (m : Store β) (base n i : Nat)
    (hm : ∀ e ∈ m, base ≤ e.1) (hs : m.Pairwise (fun a b => a.1 < b.1)) (h : i < n) :
    (sreadFrom d m base n)[i]? = some (sget d m (base + i)) := by
  induction n generalizing m base i with
  | zero => omega
  | succ n ih =>
    cases m with
    | nil =>
      simp only [sreadFrom, sget]
      cases i with
      | zero => simp
      | succ i => rw [List.getElem?_cons_succ, ih [] (base + 1) i (by simp) (by simp) (by omega)]; simp [sget]
    | cons e r =>
      obtain ⟨k, v⟩ := e
      have hk := hm (k, v) (by simp)
      have hr := List.pairwise_cons.1 hs
      simp only [sreadFrom]
      split
      · rename_i hkb
        subst hkb
        cases i with
        | zero => simp [sget]
        | succ i =>
          rw [List.getElem?_cons_succ, ih r (k + 1) i (fun e he => by have := hr.1 e he; simp only at this; omega) hr.2 (by omega)]
          have : ¬ k = k + (i + 1) := by omega
          simp only [sget, if_neg this]
          congr 2; omega
      · rename_i hkb
        cases i with
        | zero => simp [sget, hkb, sget_absent d r base (fun e he => by have := hr.1 e he; simp only at this; omega)]
        | succ i =>
          rw [List.getElem?_cons_succ, ih ((k, v) :: r) (base + 1) i (fun e he => by
            rcases List.mem_cons.1 he with h | h
            · subst h; simp only at hk ⊢; omega
            · have := hr.1 e h; simp only at this; omega) hs (by omega)]
          congr 2; omega

@[simp] theorem sreadFrom_length {β : Type} (d : β) (m : Store β) (base n : Nat) : (sreadFrom d m base n).length = n := by
  induction n generalizing m base with
  | zero => cases m <;> rfl
  | succ n ih =>
    cases m with
    | nil => simp [sreadFrom, ih]
    | cons e r => obtain ⟨k, v⟩ := e; simp only [sreadFrom]; split <;> simp [ih]

@[simp] theorem sread_length {β : Type} (d : β) (m : Store β) (base n : Nat) : (sread d m base n).length = n := by
  simp [sread]

/-! ### The canonical form -/

theorem swfFrom_spec {β : Type} [DecidableEq β] (d : β) (lo : Nat) (m : Store β) :
    swfFrom d lo m = true ↔ m.Pairwise (fun a b => a.1 < b.1) ∧ ∀ e ∈ m, lo ≤ e.1 ∧ e.2 ≠ d := by
  induction m generalizing lo with
  | nil => simp [swfFrom]
  | cons e r ih =>
    obtain ⟨k, v⟩ := e
    simp only [swfFrom, Bool.and_eq_true, decide_eq_true_eq, ih, List.pairwise_cons, List.mem_cons]
    constructor
    · rintro ⟨⟨h1, h2⟩, h3, h4⟩
      refine ⟨⟨fun e he => by have := h4 e he; omega, h3⟩, ?_⟩
      rintro e (rfl | he)
      · exact ⟨h1, h2⟩
      · have := h4 e he; exact ⟨by omega, this.2⟩
    · rintro ⟨⟨h1, h2⟩, h3⟩
      have h0 := h3 (k, v) (Or.inl rfl)
      refine ⟨⟨h0.1, h0.2⟩, h2, fun e he => ?_⟩
      have := h1 e he
      exact ⟨by omega, (h3 e (Or.inr he)).2⟩

/-- The canonical form in words: keys rise strictly and no value is the default. -/
theorem swf_spec {β : Type} [DecidableEq β] (d : β) (m : Store β) :
    swf d m = true ↔ m.Pairwise (fun a b => a.1 < b.1) ∧ ∀ e ∈ m, e.2 ≠ d := by
  simp [swf, swfFrom_spec]

@[simp] theorem swf_nil {β : Type} [DecidableEq β] (d : β) : swf d ([] : Store β) = true := rfl

theorem swf_filter {β : Type} [DecidableEq β] (d : β) (m : Store β) (p : Nat × β → Bool) (h : swf d m = true) :
    swf d (m.filter p) = true := by
  rw [swf_spec] at h ⊢
  exact ⟨h.1.filter p, fun e he => h.2 e (List.mem_filter.1 he).1⟩

theorem mem_sput {β : Type} (m : Store β) (i : Nat) (x : β) (e : Nat × β) (h : e ∈ sput m i x) :
    e = (i, x) ∨ e ∈ m := by
  induction m with
  | nil => simpa [sput] using h
  | cons f r ih =>
    obtain ⟨k, v⟩ := f
    simp only [sput] at h
    split at h
    · exact List.mem_cons.1 h
    · split at h
      · rcases List.mem_cons.1 h with h | h
        · exact Or.inl h
        · exact Or.inr (List.mem_cons.2 (Or.inr h))
      · rcases List.mem_cons.1 h with h | h
        · right; simp [h]
        · rcases ih h with h | h
          · exact Or.inl h
          · right; simp [h]

theorem mem_sset_key {β : Type} [DecidableEq β] (d : β) (m : Store β) (i : Nat) (x : β) (e : Nat × β)
    (h : e ∈ sset d m i x) : e.1 = i ∨ e ∈ m := by
  unfold sset at h
  split at h
  · exact .inr (List.mem_filter.1 h).1
  · rcases mem_sput m i x e h with rfl | h
    · exact .inl rfl
    · exact .inr h

/-- An entry of a store to which entries were set one after another is one of them or was there before. -/
theorem mem_foldl_sset {α β : Type} [DecidableEq β] (d : β) (key : α → Nat) (v : α → β) (xs : List α) (m : Store β) (e : Nat × β)
    (h : e ∈ xs.foldl (fun m p => sset d m (key p) (v p)) m) : (∃ p ∈ xs, e.1 = key p) ∨ e ∈ m := by
  induction xs generalizing m with
  | nil => exact .inr h
  | cons p r ih =>
    rcases ih _ h with ⟨q, hq, he⟩ | h
    · exact .inl ⟨q, List.mem_cons_of_mem _ hq, he⟩
    · rcases mem_sset_key _ _ _ _ _ h with he | h
      · exact .inl ⟨p, List.mem_cons_self, he⟩
      · exact .inr h

theorem sput_pairwise {β : Type} (m : Store β) (i : Nat) (x : β) (h : m.Pairwise (fun a b => a.1 < b.1)) :
    (sput m i x).Pairwise (fun a b => a.1 < b.1) := by
  induction m with
  | nil => simp [sput]
  | cons f r ih =>
    obtain ⟨k, v⟩ := f
    have hr := List.pairwise_cons.1 h
    simp only [sput]
    split
    · rename_i hk
      refine List.pairwise_cons.2 ⟨fun e he => ?_, h⟩
      rcases List.mem_cons.1 he with he | he
      · subst he; exact hk
      · have := hr.1 e he; simp only at this ⊢; omega
    · split
      · rename_i hk
        refine List.pairwise_cons.2 ⟨fun e he => ?_, hr.2⟩
        have := hr.1 e he
        simp only at this ⊢; omega
      · refine List.pairwise_cons.2 ⟨fun e he => ?_, ih hr.2⟩
        rcases mem_sput r i x e he with he | he
        · subst he; simp only; omega
        · exact hr.1 e he

/-- A single write keeps the canonical form. -/
theorem swf_sset {β : Type} [DecidableEq β] (d : β) (m : Store β) (i : Nat) (x : β) (h : swf d m = true) :
    swf d (sset d m i x) = true := by
  unfold sset
  split
  · exact swf_filter d m _ h
  · rename_i hx
    rw [swf_spec] at h ⊢
    refine ⟨sput_pairwise m i x h.1, fun e he => ?_⟩
    rcases mem_sput m i x e he with he | he
    · subst he; exact hx
    · exact h.2 e he

theorem srun_pairwise {β : Type} [DecidableEq β] (d : β) (base : Nat) (vs : List β) :
    (srun d base vs).Pairwise (fun a b => a.1 < b.1) ∧ ∀ e ∈ srun d base vs, e.2 ≠ d := by
  induction vs generalizing base with
  | nil => simp [srun]
  | cons v r ih =>
    simp only [srun]
    split
    · exact ih (base + 1)
    · rename_i hv
      refine ⟨List.pairwise_cons.2 ⟨fun e he => ?_, (ih (base + 1)).1⟩, fun e he => ?_⟩
      · have := srun_key d (base + 1) r e he; simp only; omega
      · rcases List.mem_cons.1 he with he | he
        · subst he; exact hv
        · exact (ih (base + 1)).2 e he

/-- A write of a run keeps the canonical form. -/
theorem swf_swrite {β : Type} [DecidableEq β] (d : β) (m : Store β) (base : Nat) (vs : List β) (h : swf d m = true) :
    swf d (swrite d m base vs) = true := by
  rw [swf_spec] at h ⊢
  have hr := srun_pairwise d base vs
  unfold swrite
  refine ⟨List.pairwise_append.2 ⟨List.pairwise_append.2 ⟨h.1.filter _, hr.1, ?_⟩, h.1.filter _, ?_⟩, ?_⟩
  · intro a ha b hb
    have h1 := (List.mem_filter.1 ha).2
    have h2 := srun_key d base vs b hb
    simp only [decide_eq_true_eq] at h1
    omega
  · intro a ha b hb
    have h2 := (List.mem_filter.1 hb).2
    simp only [decide_eq_true_eq] at h2
    rcases List.mem_append.1 ha with ha | ha
    · have h1 := (List.mem_filter.1 ha).2
      simp only [decide_eq_true_eq] at h1
      omega
    · have h1 := srun_key d base vs a ha
      omega
  · intro e he
    rcases List.mem_append.1 he with he | he
    · rcases List.mem_append.1 he with he | he
      · exact h.2 e (List.mem_filter.1 he).1
      · exact hr.2 e he
    · exact h.2 e (List.mem_filter.1 he).1

/-- A read of a run of a store in canonical form gives the values at its keys. -/
theorem sread_get {β : Type} [DecidableEq β] (d : β) (m : Store β) (base n i : Nat) (hm : swf d m = true) (h : i < n) :
    (sread d m base n)[i]? = some (sget d m (base + i)) := by
  have hs := ((swf_spec d m).1 hm).1
  unfold sread
  rw [sreadFrom_filter d _ base n i (fun e he => by simpa using (List.mem_filter.1 he).2) (hs.filter _) h,
    sget_filter d m (fun k => decide (base ≤ k)) (base + i)]
  simp

end Sys2Proof.Machine
end

