-- ==== Sys2Proof/Laws/State.lean ====
section
/-!
SUPPORT. What each named update of the state leaves alone, one lemma a field, and what it changes.
-/

namespace Sys2Proof.Machine

/-! ### What an update changes -/

@[simp] theorem State.setCtx_ctxs (s : State) (k : Nat) (c : Context) : (s.setCtx k c).ctxs = sset noCtx s.ctxs k c := rfl
@[simp] theorem State.setCore_cores (s : State) (n : Nat) (c : Core) :
    (s.setCore n c).cores = sset noCore s.cores n c := rfl
@[simp] theorem State.memWrite_mem (s : State) (a : Nat) (bs : List Byte) : (s.memWrite a bs).mem = swrite 0 s.mem a bs := rfl
@[simp] theorem State.drawn_free (s : State) : s.drawn.free = s.free + 1 := rfl
@[simp] theorem State.modPseudo_pcs (s : State) (n : Nat) (f : Pseudo → Pseudo) :
    (s.modPseudo n f).pcs = sset noPseudo s.pcs n (f (s.pseudo n)) := rfl
@[simp] theorem State.modLink_links (s : State) (n : Nat) (f : Link → Link) :
    (s.modLink n f).links = sset {} s.links n (f (s.link n)) := rfl
@[simp] theorem State.modLoan_loans (s : State) (n : Nat) (f : Loan → Loan) :
    (s.modLoan n f).loans = s.loans.map (fun l => if l.id = n then f l else l) := rfl
@[simp] theorem State.emit_buf (s : State) (n r : Nat) (e : Event) :
    (s.emit n r e).cur = { s.cur with buf := s.cur.buf ++ [⟨s.now + n, r, e⟩] } := rfl


/-! ### `setCtx` -/

@[simp] theorem State.setCtx_now (s : State) (k : Nat) (c : Context) : (s.setCtx k c).now = s.now := rfl
@[simp] theorem State.setCtx_skew (s : State) (k : Nat) (c : Context) : (s.setCtx k c).skew = s.skew := rfl
@[simp] theorem State.setCtx_free (s : State) (k : Nat) (c : Context) : (s.setCtx k c).free = s.free := rfl
@[simp] theorem State.setCtx_cur (s : State) (k : Nat) (c : Context) : (s.setCtx k c).cur = s.cur := rfl
@[simp] theorem State.setCtx_todo (s : State) (k : Nat) (c : Context) : (s.setCtx k c).todo = s.todo := rfl
@[simp] theorem State.setCtx_agenda (s : State) (k : Nat) (c : Context) : (s.setCtx k c).agenda = s.agenda := rfl
@[simp] theorem State.setCtx_inputs (s : State) (k : Nat) (c : Context) : (s.setCtx k c).inputs = s.inputs := rfl
@[simp] theorem State.setCtx_cores (s : State) (k : Nat) (c : Context) : (s.setCtx k c).cores = s.cores := rfl
@[simp] theorem State.setCtx_place (s : State) (k : Nat) (c : Context) : (s.setCtx k c).place = s.place := rfl
@[simp] theorem State.setCtx_errata (s : State) (k : Nat) (c : Context) : (s.setCtx k c).errata = s.errata := rfl
@[simp] theorem State.setCtx_muls (s : State) (k : Nat) (c : Context) : (s.setCtx k c).muls = s.muls := rfl
@[simp] theorem State.setCtx_drains (s : State) (k : Nat) (c : Context) : (s.setCtx k c).drains = s.drains := rfl
@[simp] theorem State.setCtx_bars (s : State) (k : Nat) (c : Context) : (s.setCtx k c).bars = s.bars := rfl
@[simp] theorem State.setCtx_lpool (s : State) (k : Nat) (c : Context) : (s.setCtx k c).lpool = s.lpool := rfl
@[simp] theorem State.setCtx_latches (s : State) (k : Nat) (c : Context) : (s.setCtx k c).latches = s.latches := rfl
@[simp] theorem State.setCtx_mem (s : State) (k : Nat) (c : Context) : (s.setCtx k c).mem = s.mem := rfl
@[simp] theorem State.setCtx_badCols (s : State) (k : Nat) (c : Context) : (s.setCtx k c).badCols = s.badCols := rfl
@[simp] theorem State.setCtx_softCols (s : State) (k : Nat) (c : Context) :
    (s.setCtx k c).softCols = s.softCols := rfl
@[simp] theorem State.setCtx_eccCount (s : State) (k : Nat) (c : Context) :
    (s.setCtx k c).eccCount = s.eccCount := rfl
@[simp] theorem State.setCtx_pcs (s : State) (k : Nat) (c : Context) : (s.setCtx k c).pcs = s.pcs := rfl
@[simp] theorem State.setCtx_windows (s : State) (k : Nat) (c : Context) : (s.setCtx k c).windows = s.windows := rfl
@[simp] theorem State.setCtx_jedec (s : State) (k : Nat) (c : Context) : (s.setCtx k c).jedec = s.jedec := rfl
@[simp] theorem State.setCtx_timing (s : State) (k : Nat) (c : Context) : (s.setCtx k c).timing = s.timing := rfl
@[simp] theorem State.setCtx_refi (s : State) (k : Nat) (c : Context) : (s.setCtx k c).refi = s.refi := rfl
@[simp] theorem State.setCtx_refiNext (s : State) (k : Nat) (c : Context) :
    (s.setCtx k c).refiNext = s.refiNext := rfl
@[simp] theorem State.setCtx_wrData (s : State) (k : Nat) (c : Context) : (s.setCtx k c).wrData = s.wrData := rfl
@[simp] theorem State.setCtx_late (s : State) (k : Nat) (c : Context) : (s.setCtx k c).late = s.late := rfl
@[simp] theorem State.setCtx_links (s : State) (k : Nat) (c : Context) : (s.setCtx k c).links = s.links := rfl
@[simp] theorem State.setCtx_routes (s : State) (k : Nat) (c : Context) : (s.setCtx k c).routes = s.routes := rfl
@[simp] theorem State.setCtx_loans (s : State) (k : Nat) (c : Context) : (s.setCtx k c).loans = s.loans := rfl
@[simp] theorem State.setCtx_remoteReqs (s : State) (k : Nat) (c : Context) :
    (s.setCtx k c).remoteReqs = s.remoteReqs := rfl
@[simp] theorem State.setCtx_seqs (s : State) (k : Nat) (c : Context) : (s.setCtx k c).seqs = s.seqs := rfl
@[simp] theorem State.setCtx_unrouted (s : State) (k : Nat) (c : Context) :
    (s.setCtx k c).unrouted = s.unrouted := rfl
@[simp] theorem State.setCtx_replies (s : State) (k : Nat) (c : Context) : (s.setCtx k c).replies = s.replies := rfl
@[simp] theorem State.setCtx_staged (s : State) (k : Nat) (c : Context) : (s.setCtx k c).staged = s.staged := rfl
@[simp] theorem State.setCtx_owners (s : State) (k : Nat) (c : Context) : (s.setCtx k c).owners = s.owners := rfl
@[simp] theorem State.setCtx_endTimer (s : State) (k : Nat) (c : Context) :
    (s.setCtx k c).endTimer = s.endTimer := rfl
@[simp] theorem State.setCtx_invals (s : State) (k : Nat) (c : Context) : (s.setCtx k c).invals = s.invals := rfl
@[simp] theorem State.setCtx_nextId (s : State) (k : Nat) (c : Context) : (s.setCtx k c).nextId = s.nextId := rfl
@[simp] theorem State.setCtx_launches (s : State) (k : Nat) (c : Context) :
    (s.setCtx k c).launches = s.launches := rfl
@[simp] theorem State.setCtx_parts (s : State) (k : Nat) (c : Context) : (s.setCtx k c).parts = s.parts := rfl
@[simp] theorem State.setCtx_saved (s : State) (k : Nat) (c : Context) : (s.setCtx k c).saved = s.saved := rfl
@[simp] theorem State.setCtx_dies (s : State) (k : Nat) (c : Context) : (s.setCtx k c).dies = s.dies := rfl
@[simp] theorem State.setCtx_dieEvents (s : State) (k : Nat) (c : Context) :
    (s.setCtx k c).dieEvents = s.dieEvents := rfl
@[simp] theorem State.setCtx_coreWin (s : State) (k : Nat) (c : Context) : (s.setCtx k c).coreWin = s.coreWin := rfl
@[simp] theorem State.setCtx_dieWin (s : State) (k : Nat) (c : Context) : (s.setCtx k c).dieWin = s.dieWin := rfl
@[simp] theorem State.setCtx_spareFor (s : State) (k : Nat) (c : Context) :
    (s.setCtx k c).spareFor = s.spareFor := rfl
@[simp] theorem State.setCtx_coreStates (s : State) (k : Nat) (c : Context) :
    (s.setCtx k c).coreStates = s.coreStates := rfl
@[simp] theorem State.setCtx_flash (s : State) (k : Nat) (c : Context) : (s.setCtx k c).flash = s.flash := rfl
@[simp] theorem State.setCtx_flashQueue (s : State) (k : Nat) (c : Context) :
    (s.setCtx k c).flashQueue = s.flashQueue := rfl
@[simp] theorem State.setCtx_changes (s : State) (k : Nat) (c : Context) : (s.setCtx k c).changes = s.changes := rfl
@[simp] theorem State.setCtx_devState (s : State) (k : Nat) (c : Context) :
    (s.setCtx k c).devState = s.devState := rfl
@[simp] theorem State.setCtx_starting (s : State) (k : Nat) (c : Context) :
    (s.setCtx k c).starting = s.starting := rfl
@[simp] theorem State.setCtx_startNo (s : State) (k : Nat) (c : Context) : (s.setCtx k c).startNo = s.startNo := rfl
@[simp] theorem State.setCtx_bootAt (s : State) (k : Nat) (c : Context) : (s.setCtx k c).bootAt = s.bootAt := rfl
@[simp] theorem State.setCtx_runSince (s : State) (k : Nat) (c : Context) :
    (s.setCtx k c).runSince = s.runSince := rfl
@[simp] theorem State.setCtx_boxes (s : State) (k : Nat) (c : Context) : (s.setCtx k c).boxes = s.boxes := rfl
@[simp] theorem State.setCtx_loanNow (s : State) (k : Nat) (c : Context) : (s.setCtx k c).loanNow = s.loanNow := rfl
@[simp] theorem State.setCtx_cmdQueue (s : State) (k : Nat) (c : Context) :
    (s.setCtx k c).cmdQueue = s.cmdQueue := rfl
@[simp] theorem State.setCtx_cmd (s : State) (k : Nat) (c : Context) : (s.setCtx k c).cmd = s.cmd := rfl
@[simp] theorem State.setCtx_queues (s : State) (k : Nat) (c : Context) : (s.setCtx k c).queues = s.queues := rfl
@[simp] theorem State.setCtx_binds (s : State) (k : Nat) (c : Context) : (s.setCtx k c).binds = s.binds := rfl
@[simp] theorem State.setCtx_fnClass (s : State) (k : Nat) (c : Context) : (s.setCtx k c).fnClass = s.fnClass := rfl
@[simp] theorem State.setCtx_hostReplies (s : State) (k : Nat) (c : Context) :
    (s.setCtx k c).hostReplies = s.hostReplies := rfl
@[simp] theorem State.setCtx_barSizes (s : State) (k : Nat) (c : Context) :
    (s.setCtx k c).barSizes = s.barSizes := rfl
@[simp] theorem State.setCtx_hostAcc (s : State) (k : Nat) (c : Context) : (s.setCtx k c).hostAcc = s.hostAcc := rfl
@[simp] theorem State.setCtx_power (s : State) (k : Nat) (c : Context) : (s.setCtx k c).power = s.power := rfl
@[simp] theorem State.setCtx_heat (s : State) (k : Nat) (c : Context) : (s.setCtx k c).heat = s.heat := rfl
@[simp] theorem State.setCtx_silent (s : State) (k : Nat) (c : Context) : (s.setCtx k c).silent = s.silent := rfl
@[simp] theorem State.setCtx_powers (s : State) (k : Nat) (c : Context) : (s.setCtx k c).powers = s.powers := rfl
@[simp] theorem State.setCtx_overPower (s : State) (k : Nat) (c : Context) :
    (s.setCtx k c).overPower = s.overPower := rfl
@[simp] theorem State.setCtx_temps (s : State) (k : Nat) (c : Context) : (s.setCtx k c).temps = s.temps := rfl
@[simp] theorem State.setCtx_hot (s : State) (k : Nat) (c : Context) : (s.setCtx k c).hot = s.hot := rfl
@[simp] theorem State.setCtx_hotNamed (s : State) (k : Nat) (c : Context) :
    (s.setCtx k c).hotNamed = s.hotNamed := rfl
@[simp] theorem State.setCtx_reports (s : State) (k : Nat) (c : Context) : (s.setCtx k c).reports = s.reports := rfl
@[simp] theorem State.setCtx_stops (s : State) (k : Nat) (c : Context) : (s.setCtx k c).stops = s.stops := rfl
@[simp] theorem State.setCtx_linkReports (s : State) (k : Nat) (c : Context) :
    (s.setCtx k c).linkReports = s.linkReports := rfl

/-! ### `modCtx` -/

@[simp] theorem State.modCtx_now (s : State) (k : Nat) (f : Context → Context) : (s.modCtx k f).now = s.now := rfl
@[simp] theorem State.modCtx_skew (s : State) (k : Nat) (f : Context → Context) : (s.modCtx k f).skew = s.skew := rfl
@[simp] theorem State.modCtx_free (s : State) (k : Nat) (f : Context → Context) : (s.modCtx k f).free = s.free := rfl
@[simp] theorem State.modCtx_cur (s : State) (k : Nat) (f : Context → Context) : (s.modCtx k f).cur = s.cur := rfl
@[simp] theorem State.modCtx_todo (s : State) (k : Nat) (f : Context → Context) : (s.modCtx k f).todo = s.todo := rfl
@[simp] theorem State.modCtx_agenda (s : State) (k : Nat) (f : Context → Context) :
    (s.modCtx k f).agenda = s.agenda := rfl
@[simp] theorem State.modCtx_inputs (s : State) (k : Nat) (f : Context → Context) :
    (s.modCtx k f).inputs = s.inputs := rfl
@[simp] theorem State.modCtx_cores (s : State) (k : Nat) (f : Context → Context) :
    (s.modCtx k f).cores = s.cores := rfl
@[simp] theorem State.modCtx_place (s : State) (k : Nat) (f : Context → Context) :
    (s.modCtx k f).place = s.place := rfl
@[simp] theorem State.modCtx_errata (s : State) (k : Nat) (f : Context → Context) :
    (s.modCtx k f).errata = s.errata := rfl
@[simp] theorem State.modCtx_muls (s : State) (k : Nat) (f : Context → Context) : (s.modCtx k f).muls = s.muls := rfl
@[simp] theorem State.modCtx_drains (s : State) (k : Nat) (f : Context → Context) :
    (s.modCtx k f).drains = s.drains := rfl
@[simp] theorem State.modCtx_bars (s : State) (k : Nat) (f : Context → Context) : (s.modCtx k f).bars = s.bars := rfl
@[simp] theorem State.modCtx_lpool (s : State) (k : Nat) (f : Context → Context) :
    (s.modCtx k f).lpool = s.lpool := rfl
@[simp] theorem State.modCtx_latches (s : State) (k : Nat) (f : Context → Context) :
    (s.modCtx k f).latches = s.latches := rfl
@[simp] theorem State.modCtx_mem (s : State) (k : Nat) (f : Context → Context) : (s.modCtx k f).mem = s.mem := rfl
@[simp] theorem State.modCtx_badCols (s : State) (k : Nat) (f : Context → Context) :
    (s.modCtx k f).badCols = s.badCols := rfl
@[simp] theorem State.modCtx_softCols (s : State) (k : Nat) (f : Context → Context) :
    (s.modCtx k f).softCols = s.softCols := rfl
@[simp] theorem State.modCtx_eccCount (s : State) (k : Nat) (f : Context → Context) :
    (s.modCtx k f).eccCount = s.eccCount := rfl
@[simp] theorem State.modCtx_pcs (s : State) (k : Nat) (f : Context → Context) : (s.modCtx k f).pcs = s.pcs := rfl
@[simp] theorem State.modCtx_windows (s : State) (k : Nat) (f : Context → Context) :
    (s.modCtx k f).windows = s.windows := rfl
@[simp] theorem State.modCtx_jedec (s : State) (k : Nat) (f : Context → Context) :
    (s.modCtx k f).jedec = s.jedec := rfl
@[simp] theorem State.modCtx_timing (s : State) (k : Nat) (f : Context → Context) :
    (s.modCtx k f).timing = s.timing := rfl
@[simp] theorem State.modCtx_refi (s : State) (k : Nat) (f : Context → Context) : (s.modCtx k f).refi = s.refi := rfl
@[simp] theorem State.modCtx_refiNext (s : State) (k : Nat) (f : Context → Context) :
    (s.modCtx k f).refiNext = s.refiNext := rfl
@[simp] theorem State.modCtx_wrData (s : State) (k : Nat) (f : Context → Context) :
    (s.modCtx k f).wrData = s.wrData := rfl
@[simp] theorem State.modCtx_late (s : State) (k : Nat) (f : Context → Context) :
    (s.modCtx k f).late = s.late := rfl
@[simp] theorem State.modCtx_links (s : State) (k : Nat) (f : Context → Context) :
    (s.modCtx k f).links = s.links := rfl
@[simp] theorem State.modCtx_routes (s : State) (k : Nat) (f : Context → Context) :
    (s.modCtx k f).routes = s.routes := rfl
@[simp] theorem State.modCtx_loans (s : State) (k : Nat) (f : Context → Context) :
    (s.modCtx k f).loans = s.loans := rfl
@[simp] theorem State.modCtx_remoteReqs (s : State) (k : Nat) (f : Context → Context) :
    (s.modCtx k f).remoteReqs = s.remoteReqs := rfl
@[simp] theorem State.modCtx_seqs (s : State) (k : Nat) (f : Context → Context) : (s.modCtx k f).seqs = s.seqs := rfl
@[simp] theorem State.modCtx_unrouted (s : State) (k : Nat) (f : Context → Context) :
    (s.modCtx k f).unrouted = s.unrouted := rfl
@[simp] theorem State.modCtx_replies (s : State) (k : Nat) (f : Context → Context) :
    (s.modCtx k f).replies = s.replies := rfl
@[simp] theorem State.modCtx_staged (s : State) (k : Nat) (f : Context → Context) :
    (s.modCtx k f).staged = s.staged := rfl
@[simp] theorem State.modCtx_owners (s : State) (k : Nat) (f : Context → Context) :
    (s.modCtx k f).owners = s.owners := rfl
@[simp] theorem State.modCtx_endTimer (s : State) (k : Nat) (f : Context → Context) :
    (s.modCtx k f).endTimer = s.endTimer := rfl
@[simp] theorem State.modCtx_invals (s : State) (k : Nat) (f : Context → Context) :
    (s.modCtx k f).invals = s.invals := rfl
@[simp] theorem State.modCtx_nextId (s : State) (k : Nat) (f : Context → Context) :
    (s.modCtx k f).nextId = s.nextId := rfl
@[simp] theorem State.modCtx_launches (s : State) (k : Nat) (f : Context → Context) :
    (s.modCtx k f).launches = s.launches := rfl
@[simp] theorem State.modCtx_parts (s : State) (k : Nat) (f : Context → Context) :
    (s.modCtx k f).parts = s.parts := rfl
@[simp] theorem State.modCtx_saved (s : State) (k : Nat) (f : Context → Context) :
    (s.modCtx k f).saved = s.saved := rfl
@[simp] theorem State.modCtx_dies (s : State) (k : Nat) (f : Context → Context) : (s.modCtx k f).dies = s.dies := rfl
@[simp] theorem State.modCtx_dieEvents (s : State) (k : Nat) (f : Context → Context) :
    (s.modCtx k f).dieEvents = s.dieEvents := rfl
@[simp] theorem State.modCtx_coreWin (s : State) (k : Nat) (f : Context → Context) :
    (s.modCtx k f).coreWin = s.coreWin := rfl
@[simp] theorem State.modCtx_dieWin (s : State) (k : Nat) (f : Context → Context) :
    (s.modCtx k f).dieWin = s.dieWin := rfl
@[simp] theorem State.modCtx_spareFor (s : State) (k : Nat) (f : Context → Context) :
    (s.modCtx k f).spareFor = s.spareFor := rfl
@[simp] theorem State.modCtx_coreStates (s : State) (k : Nat) (f : Context → Context) :
    (s.modCtx k f).coreStates = s.coreStates := rfl
@[simp] theorem State.modCtx_flash (s : State) (k : Nat) (f : Context → Context) :
    (s.modCtx k f).flash = s.flash := rfl
@[simp] theorem State.modCtx_flashQueue (s : State) (k : Nat) (f : Context → Context) :
    (s.modCtx k f).flashQueue = s.flashQueue := rfl
@[simp] theorem State.modCtx_changes (s : State) (k : Nat) (f : Context → Context) :
    (s.modCtx k f).changes = s.changes := rfl
@[simp] theorem State.modCtx_devState (s : State) (k : Nat) (f : Context → Context) :
    (s.modCtx k f).devState = s.devState := rfl
@[simp] theorem State.modCtx_starting (s : State) (k : Nat) (f : Context → Context) :
    (s.modCtx k f).starting = s.starting := rfl
@[simp] theorem State.modCtx_startNo (s : State) (k : Nat) (f : Context → Context) :
    (s.modCtx k f).startNo = s.startNo := rfl
@[simp] theorem State.modCtx_bootAt (s : State) (k : Nat) (f : Context → Context) :
    (s.modCtx k f).bootAt = s.bootAt := rfl
@[simp] theorem State.modCtx_runSince (s : State) (k : Nat) (f : Context → Context) :
    (s.modCtx k f).runSince = s.runSince := rfl
@[simp] theorem State.modCtx_boxes (s : State) (k : Nat) (f : Context → Context) :
    (s.modCtx k f).boxes = s.boxes := rfl
@[simp] theorem State.modCtx_loanNow (s : State) (k : Nat) (f : Context → Context) :
    (s.modCtx k f).loanNow = s.loanNow := rfl
@[simp] theorem State.modCtx_cmdQueue (s : State) (k : Nat) (f : Context → Context) :
    (s.modCtx k f).cmdQueue = s.cmdQueue := rfl
@[simp] theorem State.modCtx_cmd (s : State) (k : Nat) (f : Context → Context) : (s.modCtx k f).cmd = s.cmd := rfl
@[simp] theorem State.modCtx_queues (s : State) (k : Nat) (f : Context → Context) :
    (s.modCtx k f).queues = s.queues := rfl
@[simp] theorem State.modCtx_binds (s : State) (k : Nat) (f : Context → Context) :
    (s.modCtx k f).binds = s.binds := rfl
@[simp] theorem State.modCtx_fnClass (s : State) (k : Nat) (f : Context → Context) :
    (s.modCtx k f).fnClass = s.fnClass := rfl
@[simp] theorem State.modCtx_hostReplies (s : State) (k : Nat) (f : Context → Context) :
    (s.modCtx k f).hostReplies = s.hostReplies := rfl
@[simp] theorem State.modCtx_barSizes (s : State) (k : Nat) (f : Context → Context) :
    (s.modCtx k f).barSizes = s.barSizes := rfl
@[simp] theorem State.modCtx_hostAcc (s : State) (k : Nat) (f : Context → Context) :
    (s.modCtx k f).hostAcc = s.hostAcc := rfl
@[simp] theorem State.modCtx_power (s : State) (k : Nat) (f : Context → Context) :
    (s.modCtx k f).power = s.power := rfl
@[simp] theorem State.modCtx_heat (s : State) (k : Nat) (f : Context → Context) :
    (s.modCtx k f).heat = s.heat := rfl
@[simp] theorem State.modCtx_silent (s : State) (k : Nat) (f : Context → Context) :
    (s.modCtx k f).silent = s.silent := rfl
@[simp] theorem State.modCtx_powers (s : State) (k : Nat) (f : Context → Context) :
    (s.modCtx k f).powers = s.powers := rfl
@[simp] theorem State.modCtx_overPower (s : State) (k : Nat) (f : Context → Context) :
    (s.modCtx k f).overPower = s.overPower := rfl
@[simp] theorem State.modCtx_temps (s : State) (k : Nat) (f : Context → Context) :
    (s.modCtx k f).temps = s.temps := rfl
@[simp] theorem State.modCtx_hot (s : State) (k : Nat) (f : Context → Context) : (s.modCtx k f).hot = s.hot := rfl
@[simp] theorem State.modCtx_hotNamed (s : State) (k : Nat) (f : Context → Context) :
    (s.modCtx k f).hotNamed = s.hotNamed := rfl
@[simp] theorem State.modCtx_reports (s : State) (k : Nat) (f : Context → Context) :
    (s.modCtx k f).reports = s.reports := rfl
@[simp] theorem State.modCtx_stops (s : State) (k : Nat) (f : Context → Context) :
    (s.modCtx k f).stops = s.stops := rfl
@[simp] theorem State.modCtx_linkReports (s : State) (k : Nat) (f : Context → Context) :
    (s.modCtx k f).linkReports = s.linkReports := rfl

/-! ### `touch` -/

@[simp] theorem State.touch_now (s : State) (k : Nat) : (s.touch k).now = s.now := rfl
@[simp] theorem State.touch_skew (s : State) (k : Nat) : (s.touch k).skew = s.skew := rfl
@[simp] theorem State.touch_free (s : State) (k : Nat) : (s.touch k).free = s.free := rfl
@[simp] theorem State.touch_cur (s : State) (k : Nat) : (s.touch k).cur = s.cur := rfl
@[simp] theorem State.touch_todo (s : State) (k : Nat) : (s.touch k).todo = s.todo := rfl
@[simp] theorem State.touch_agenda (s : State) (k : Nat) : (s.touch k).agenda = s.agenda := rfl
@[simp] theorem State.touch_inputs (s : State) (k : Nat) : (s.touch k).inputs = s.inputs := rfl
@[simp] theorem State.touch_cores (s : State) (k : Nat) : (s.touch k).cores = s.cores := rfl
@[simp] theorem State.touch_place (s : State) (k : Nat) : (s.touch k).place = s.place := rfl
@[simp] theorem State.touch_errata (s : State) (k : Nat) : (s.touch k).errata = s.errata := rfl
@[simp] theorem State.touch_muls (s : State) (k : Nat) : (s.touch k).muls = s.muls := rfl
@[simp] theorem State.touch_drains (s : State) (k : Nat) : (s.touch k).drains = s.drains := rfl
@[simp] theorem State.touch_bars (s : State) (k : Nat) : (s.touch k).bars = s.bars := rfl
@[simp] theorem State.touch_lpool (s : State) (k : Nat) : (s.touch k).lpool = s.lpool := rfl
@[simp] theorem State.touch_latches (s : State) (k : Nat) : (s.touch k).latches = s.latches := rfl
@[simp] theorem State.touch_mem (s : State) (k : Nat) : (s.touch k).mem = s.mem := rfl
@[simp] theorem State.touch_badCols (s : State) (k : Nat) : (s.touch k).badCols = s.badCols := rfl
@[simp] theorem State.touch_softCols (s : State) (k : Nat) : (s.touch k).softCols = s.softCols := rfl
@[simp] theorem State.touch_eccCount (s : State) (k : Nat) : (s.touch k).eccCount = s.eccCount := rfl
@[simp] theorem State.touch_pcs (s : State) (k : Nat) : (s.touch k).pcs = s.pcs := rfl
@[simp] theorem State.touch_windows (s : State) (k : Nat) : (s.touch k).windows = s.windows := rfl
@[simp] theorem State.touch_jedec (s : State) (k : Nat) : (s.touch k).jedec = s.jedec := rfl
@[simp] theorem State.touch_timing (s : State) (k : Nat) : (s.touch k).timing = s.timing := rfl
@[simp] theorem State.touch_refi (s : State) (k : Nat) : (s.touch k).refi = s.refi := rfl
@[simp] theorem State.touch_refiNext (s : State) (k : Nat) : (s.touch k).refiNext = s.refiNext := rfl
@[simp] theorem State.touch_wrData (s : State) (k : Nat) : (s.touch k).wrData = s.wrData := rfl
@[simp] theorem State.touch_late (s : State) (k : Nat) : (s.touch k).late = s.late := rfl
@[simp] theorem State.touch_links (s : State) (k : Nat) : (s.touch k).links = s.links := rfl
@[simp] theorem State.touch_routes (s : State) (k : Nat) : (s.touch k).routes = s.routes := rfl
@[simp] theorem State.touch_loans (s : State) (k : Nat) : (s.touch k).loans = s.loans := rfl
@[simp] theorem State.touch_remoteReqs (s : State) (k : Nat) : (s.touch k).remoteReqs = s.remoteReqs := rfl
@[simp] theorem State.touch_seqs (s : State) (k : Nat) : (s.touch k).seqs = s.seqs := rfl
@[simp] theorem State.touch_unrouted (s : State) (k : Nat) : (s.touch k).unrouted = s.unrouted := rfl
@[simp] theorem State.touch_replies (s : State) (k : Nat) : (s.touch k).replies = s.replies := rfl
@[simp] theorem State.touch_staged (s : State) (k : Nat) : (s.touch k).staged = s.staged := rfl
@[simp] theorem State.touch_owners (s : State) (k : Nat) : (s.touch k).owners = s.owners := rfl
@[simp] theorem State.touch_endTimer (s : State) (k : Nat) : (s.touch k).endTimer = s.endTimer := rfl
@[simp] theorem State.touch_invals (s : State) (k : Nat) : (s.touch k).invals = s.invals := rfl
@[simp] theorem State.touch_nextId (s : State) (k : Nat) : (s.touch k).nextId = s.nextId := rfl
@[simp] theorem State.touch_launches (s : State) (k : Nat) : (s.touch k).launches = s.launches := rfl
@[simp] theorem State.touch_parts (s : State) (k : Nat) : (s.touch k).parts = s.parts := rfl
@[simp] theorem State.touch_saved (s : State) (k : Nat) : (s.touch k).saved = s.saved := rfl
@[simp] theorem State.touch_dies (s : State) (k : Nat) : (s.touch k).dies = s.dies := rfl
@[simp] theorem State.touch_dieEvents (s : State) (k : Nat) : (s.touch k).dieEvents = s.dieEvents := rfl
@[simp] theorem State.touch_coreWin (s : State) (k : Nat) : (s.touch k).coreWin = s.coreWin := rfl
@[simp] theorem State.touch_dieWin (s : State) (k : Nat) : (s.touch k).dieWin = s.dieWin := rfl
@[simp] theorem State.touch_spareFor (s : State) (k : Nat) : (s.touch k).spareFor = s.spareFor := rfl
@[simp] theorem State.touch_coreStates (s : State) (k : Nat) : (s.touch k).coreStates = s.coreStates := rfl
@[simp] theorem State.touch_flash (s : State) (k : Nat) : (s.touch k).flash = s.flash := rfl
@[simp] theorem State.touch_flashQueue (s : State) (k : Nat) : (s.touch k).flashQueue = s.flashQueue := rfl
@[simp] theorem State.touch_changes (s : State) (k : Nat) : (s.touch k).changes = s.changes := rfl
@[simp] theorem State.touch_devState (s : State) (k : Nat) : (s.touch k).devState = s.devState := rfl
@[simp] theorem State.touch_starting (s : State) (k : Nat) : (s.touch k).starting = s.starting := rfl
@[simp] theorem State.touch_startNo (s : State) (k : Nat) : (s.touch k).startNo = s.startNo := rfl
@[simp] theorem State.touch_bootAt (s : State) (k : Nat) : (s.touch k).bootAt = s.bootAt := rfl
@[simp] theorem State.touch_runSince (s : State) (k : Nat) : (s.touch k).runSince = s.runSince := rfl
@[simp] theorem State.touch_boxes (s : State) (k : Nat) : (s.touch k).boxes = s.boxes := rfl
@[simp] theorem State.touch_loanNow (s : State) (k : Nat) : (s.touch k).loanNow = s.loanNow := rfl
@[simp] theorem State.touch_cmdQueue (s : State) (k : Nat) : (s.touch k).cmdQueue = s.cmdQueue := rfl
@[simp] theorem State.touch_cmd (s : State) (k : Nat) : (s.touch k).cmd = s.cmd := rfl
@[simp] theorem State.touch_queues (s : State) (k : Nat) : (s.touch k).queues = s.queues := rfl
@[simp] theorem State.touch_binds (s : State) (k : Nat) : (s.touch k).binds = s.binds := rfl
@[simp] theorem State.touch_fnClass (s : State) (k : Nat) : (s.touch k).fnClass = s.fnClass := rfl
@[simp] theorem State.touch_hostReplies (s : State) (k : Nat) : (s.touch k).hostReplies = s.hostReplies := rfl
@[simp] theorem State.touch_barSizes (s : State) (k : Nat) : (s.touch k).barSizes = s.barSizes := rfl
@[simp] theorem State.touch_hostAcc (s : State) (k : Nat) : (s.touch k).hostAcc = s.hostAcc := rfl
@[simp] theorem State.touch_power (s : State) (k : Nat) : (s.touch k).power = s.power := rfl
@[simp] theorem State.touch_heat (s : State) (k : Nat) : (s.touch k).heat = s.heat := rfl
@[simp] theorem State.touch_silent (s : State) (k : Nat) : (s.touch k).silent = s.silent := rfl
@[simp] theorem State.touch_powers (s : State) (k : Nat) : (s.touch k).powers = s.powers := rfl
@[simp] theorem State.touch_overPower (s : State) (k : Nat) : (s.touch k).overPower = s.overPower := rfl
@[simp] theorem State.touch_temps (s : State) (k : Nat) : (s.touch k).temps = s.temps := rfl
@[simp] theorem State.touch_hot (s : State) (k : Nat) : (s.touch k).hot = s.hot := rfl
@[simp] theorem State.touch_hotNamed (s : State) (k : Nat) : (s.touch k).hotNamed = s.hotNamed := rfl
@[simp] theorem State.touch_reports (s : State) (k : Nat) : (s.touch k).reports = s.reports := rfl
@[simp] theorem State.touch_stops (s : State) (k : Nat) : (s.touch k).stops = s.stops := rfl
@[simp] theorem State.touch_linkReports (s : State) (k : Nat) : (s.touch k).linkReports = s.linkReports := rfl

/-! ### `setCore` -/

@[simp] theorem State.setCore_now (s : State) (n : Nat) (c : Core) : (s.setCore n c).now = s.now := rfl
@[simp] theorem State.setCore_skew (s : State) (n : Nat) (c : Core) : (s.setCore n c).skew = s.skew := rfl
@[simp] theorem State.setCore_free (s : State) (n : Nat) (c : Core) : (s.setCore n c).free = s.free := rfl
@[simp] theorem State.setCore_cur (s : State) (n : Nat) (c : Core) : (s.setCore n c).cur = s.cur := rfl
@[simp] theorem State.setCore_todo (s : State) (n : Nat) (c : Core) : (s.setCore n c).todo = s.todo := rfl
@[simp] theorem State.setCore_agenda (s : State) (n : Nat) (c : Core) : (s.setCore n c).agenda = s.agenda := rfl
@[simp] theorem State.setCore_inputs (s : State) (n : Nat) (c : Core) : (s.setCore n c).inputs = s.inputs := rfl
@[simp] theorem State.setCore_ctxs (s : State) (n : Nat) (c : Core) : (s.setCore n c).ctxs = s.ctxs := rfl
@[simp] theorem State.setCore_place (s : State) (n : Nat) (c : Core) : (s.setCore n c).place = s.place := rfl
@[simp] theorem State.setCore_errata (s : State) (n : Nat) (c : Core) : (s.setCore n c).errata = s.errata := rfl
@[simp] theorem State.setCore_muls (s : State) (n : Nat) (c : Core) : (s.setCore n c).muls = s.muls := rfl
@[simp] theorem State.setCore_drains (s : State) (n : Nat) (c : Core) : (s.setCore n c).drains = s.drains := rfl
@[simp] theorem State.setCore_bars (s : State) (n : Nat) (c : Core) : (s.setCore n c).bars = s.bars := rfl
@[simp] theorem State.setCore_lpool (s : State) (n : Nat) (c : Core) : (s.setCore n c).lpool = s.lpool := rfl
@[simp] theorem State.setCore_latches (s : State) (n : Nat) (c : Core) : (s.setCore n c).latches = s.latches := rfl
@[simp] theorem State.setCore_mem (s : State) (n : Nat) (c : Core) : (s.setCore n c).mem = s.mem := rfl
@[simp] theorem State.setCore_badCols (s : State) (n : Nat) (c : Core) : (s.setCore n c).badCols = s.badCols := rfl
@[simp] theorem State.setCore_softCols (s : State) (n : Nat) (c : Core) : (s.setCore n c).softCols = s.softCols := rfl
@[simp] theorem State.setCore_eccCount (s : State) (n : Nat) (c : Core) : (s.setCore n c).eccCount = s.eccCount := rfl
@[simp] theorem State.setCore_pcs (s : State) (n : Nat) (c : Core) : (s.setCore n c).pcs = s.pcs := rfl
@[simp] theorem State.setCore_windows (s : State) (n : Nat) (c : Core) : (s.setCore n c).windows = s.windows := rfl
@[simp] theorem State.setCore_jedec (s : State) (n : Nat) (c : Core) : (s.setCore n c).jedec = s.jedec := rfl
@[simp] theorem State.setCore_timing (s : State) (n : Nat) (c : Core) : (s.setCore n c).timing = s.timing := rfl
@[simp] theorem State.setCore_refi (s : State) (n : Nat) (c : Core) : (s.setCore n c).refi = s.refi := rfl
@[simp] theorem State.setCore_refiNext (s : State) (n : Nat) (c : Core) : (s.setCore n c).refiNext = s.refiNext := rfl
@[simp] theorem State.setCore_wrData (s : State) (n : Nat) (c : Core) : (s.setCore n c).wrData = s.wrData := rfl
@[simp] theorem State.setCore_late (s : State) (n : Nat) (c : Core) : (s.setCore n c).late = s.late := rfl
@[simp] theorem State.setCore_links (s : State) (n : Nat) (c : Core) : (s.setCore n c).links = s.links := rfl
@[simp] theorem State.setCore_routes (s : State) (n : Nat) (c : Core) : (s.setCore n c).routes = s.routes := rfl
@[simp] theorem State.setCore_loans (s : State) (n : Nat) (c : Core) : (s.setCore n c).loans = s.loans := rfl
@[simp] theorem State.setCore_remoteReqs (s : State) (n : Nat) (c : Core) :
    (s.setCore n c).remoteReqs = s.remoteReqs := rfl
@[simp] theorem State.setCore_seqs (s : State) (n : Nat) (c : Core) : (s.setCore n c).seqs = s.seqs := rfl
@[simp] theorem State.setCore_unrouted (s : State) (n : Nat) (c : Core) : (s.setCore n c).unrouted = s.unrouted := rfl
@[simp] theorem State.setCore_replies (s : State) (n : Nat) (c : Core) : (s.setCore n c).replies = s.replies := rfl
@[simp] theorem State.setCore_staged (s : State) (n : Nat) (c : Core) : (s.setCore n c).staged = s.staged := rfl
@[simp] theorem State.setCore_owners (s : State) (n : Nat) (c : Core) : (s.setCore n c).owners = s.owners := rfl
@[simp] theorem State.setCore_endTimer (s : State) (n : Nat) (c : Core) : (s.setCore n c).endTimer = s.endTimer := rfl
@[simp] theorem State.setCore_invals (s : State) (n : Nat) (c : Core) : (s.setCore n c).invals = s.invals := rfl
@[simp] theorem State.setCore_nextId (s : State) (n : Nat) (c : Core) : (s.setCore n c).nextId = s.nextId := rfl
@[simp] theorem State.setCore_launches (s : State) (n : Nat) (c : Core) : (s.setCore n c).launches = s.launches := rfl
@[simp] theorem State.setCore_parts (s : State) (n : Nat) (c : Core) : (s.setCore n c).parts = s.parts := rfl
@[simp] theorem State.setCore_saved (s : State) (n : Nat) (c : Core) : (s.setCore n c).saved = s.saved := rfl
@[simp] theorem State.setCore_dies (s : State) (n : Nat) (c : Core) : (s.setCore n c).dies = s.dies := rfl
@[simp] theorem State.setCore_dieEvents (s : State) (n : Nat) (c : Core) :
    (s.setCore n c).dieEvents = s.dieEvents := rfl
@[simp] theorem State.setCore_coreWin (s : State) (n : Nat) (c : Core) : (s.setCore n c).coreWin = s.coreWin := rfl
@[simp] theorem State.setCore_dieWin (s : State) (n : Nat) (c : Core) : (s.setCore n c).dieWin = s.dieWin := rfl
@[simp] theorem State.setCore_spareFor (s : State) (n : Nat) (c : Core) : (s.setCore n c).spareFor = s.spareFor := rfl
@[simp] theorem State.setCore_coreStates (s : State) (n : Nat) (c : Core) :
    (s.setCore n c).coreStates = s.coreStates := rfl
@[simp] theorem State.setCore_flash (s : State) (n : Nat) (c : Core) : (s.setCore n c).flash = s.flash := rfl
@[simp] theorem State.setCore_flashQueue (s : State) (n : Nat) (c : Core) :
    (s.setCore n c).flashQueue = s.flashQueue := rfl
@[simp] theorem State.setCore_changes (s : State) (n : Nat) (c : Core) : (s.setCore n c).changes = s.changes := rfl
@[simp] theorem State.setCore_devState (s : State) (n : Nat) (c : Core) : (s.setCore n c).devState = s.devState := rfl
@[simp] theorem State.setCore_starting (s : State) (n : Nat) (c : Core) : (s.setCore n c).starting = s.starting := rfl
@[simp] theorem State.setCore_startNo (s : State) (n : Nat) (c : Core) : (s.setCore n c).startNo = s.startNo := rfl
@[simp] theorem State.setCore_bootAt (s : State) (n : Nat) (c : Core) : (s.setCore n c).bootAt = s.bootAt := rfl
@[simp] theorem State.setCore_runSince (s : State) (n : Nat) (c : Core) : (s.setCore n c).runSince = s.runSince := rfl
@[simp] theorem State.setCore_boxes (s : State) (n : Nat) (c : Core) : (s.setCore n c).boxes = s.boxes := rfl
@[simp] theorem State.setCore_loanNow (s : State) (n : Nat) (c : Core) : (s.setCore n c).loanNow = s.loanNow := rfl
@[simp] theorem State.setCore_cmdQueue (s : State) (n : Nat) (c : Core) : (s.setCore n c).cmdQueue = s.cmdQueue := rfl
@[simp] theorem State.setCore_cmd (s : State) (n : Nat) (c : Core) : (s.setCore n c).cmd = s.cmd := rfl
@[simp] theorem State.setCore_queues (s : State) (n : Nat) (c : Core) : (s.setCore n c).queues = s.queues := rfl
@[simp] theorem State.setCore_binds (s : State) (n : Nat) (c : Core) : (s.setCore n c).binds = s.binds := rfl
@[simp] theorem State.setCore_fnClass (s : State) (n : Nat) (c : Core) : (s.setCore n c).fnClass = s.fnClass := rfl
@[simp] theorem State.setCore_hostReplies (s : State) (n : Nat) (c : Core) :
    (s.setCore n c).hostReplies = s.hostReplies := rfl
@[simp] theorem State.setCore_barSizes (s : State) (n : Nat) (c : Core) : (s.setCore n c).barSizes = s.barSizes := rfl
@[simp] theorem State.setCore_hostAcc (s : State) (n : Nat) (c : Core) : (s.setCore n c).hostAcc = s.hostAcc := rfl
@[simp] theorem State.setCore_power (s : State) (n : Nat) (c : Core) : (s.setCore n c).power = s.power := rfl
@[simp] theorem State.setCore_heat (s : State) (n : Nat) (c : Core) : (s.setCore n c).heat = s.heat := rfl
@[simp] theorem State.setCore_silent (s : State) (n : Nat) (c : Core) : (s.setCore n c).silent = s.silent := rfl
@[simp] theorem State.setCore_powers (s : State) (n : Nat) (c : Core) : (s.setCore n c).powers = s.powers := rfl
@[simp] theorem State.setCore_overPower (s : State) (n : Nat) (c : Core) :
    (s.setCore n c).overPower = s.overPower := rfl
@[simp] theorem State.setCore_temps (s : State) (n : Nat) (c : Core) : (s.setCore n c).temps = s.temps := rfl
@[simp] theorem State.setCore_hot (s : State) (n : Nat) (c : Core) : (s.setCore n c).hot = s.hot := rfl
@[simp] theorem State.setCore_hotNamed (s : State) (n : Nat) (c : Core) : (s.setCore n c).hotNamed = s.hotNamed := rfl
@[simp] theorem State.setCore_reports (s : State) (n : Nat) (c : Core) : (s.setCore n c).reports = s.reports := rfl
@[simp] theorem State.setCore_stops (s : State) (n : Nat) (c : Core) : (s.setCore n c).stops = s.stops := rfl
@[simp] theorem State.setCore_linkReports (s : State) (n : Nat) (c : Core) :
    (s.setCore n c).linkReports = s.linkReports := rfl

/-! ### `modCore` -/

@[simp] theorem State.modCore_now (s : State) (n : Nat) (f : Core → Core) : (s.modCore n f).now = s.now := rfl
@[simp] theorem State.modCore_skew (s : State) (n : Nat) (f : Core → Core) : (s.modCore n f).skew = s.skew := rfl
@[simp] theorem State.modCore_free (s : State) (n : Nat) (f : Core → Core) : (s.modCore n f).free = s.free := rfl
@[simp] theorem State.modCore_cur (s : State) (n : Nat) (f : Core → Core) : (s.modCore n f).cur = s.cur := rfl
@[simp] theorem State.modCore_todo (s : State) (n : Nat) (f : Core → Core) : (s.modCore n f).todo = s.todo := rfl
@[simp] theorem State.modCore_agenda (s : State) (n : Nat) (f : Core → Core) :
    (s.modCore n f).agenda = s.agenda := rfl
@[simp] theorem State.modCore_inputs (s : State) (n : Nat) (f : Core → Core) :
    (s.modCore n f).inputs = s.inputs := rfl
@[simp] theorem State.modCore_ctxs (s : State) (n : Nat) (f : Core → Core) : (s.modCore n f).ctxs = s.ctxs := rfl
@[simp] theorem State.modCore_place (s : State) (n : Nat) (f : Core → Core) : (s.modCore n f).place = s.place := rfl
@[simp] theorem State.modCore_errata (s : State) (n : Nat) (f : Core → Core) :
    (s.modCore n f).errata = s.errata := rfl
@[simp] theorem State.modCore_muls (s : State) (n : Nat) (f : Core → Core) : (s.modCore n f).muls = s.muls := rfl
@[simp] theorem State.modCore_drains (s : State) (n : Nat) (f : Core → Core) :
    (s.modCore n f).drains = s.drains := rfl
@[simp] theorem State.modCore_bars (s : State) (n : Nat) (f : Core → Core) : (s.modCore n f).bars = s.bars := rfl
@[simp] theorem State.modCore_lpool (s : State) (n : Nat) (f : Core → Core) : (s.modCore n f).lpool = s.lpool := rfl
@[simp] theorem State.modCore_latches (s : State) (n : Nat) (f : Core → Core) :
    (s.modCore n f).latches = s.latches := rfl
@[simp] theorem State.modCore_mem (s : State) (n : Nat) (f : Core → Core) : (s.modCore n f).mem = s.mem := rfl
@[simp] theorem State.modCore_badCols (s : State) (n : Nat) (f : Core → Core) :
    (s.modCore n f).badCols = s.badCols := rfl
@[simp] theorem State.modCore_softCols (s : State) (n : Nat) (f : Core → Core) :
    (s.modCore n f).softCols = s.softCols := rfl
@[simp] theorem State.modCore_eccCount (s : State) (n : Nat) (f : Core → Core) :
    (s.modCore n f).eccCount = s.eccCount := rfl
@[simp] theorem State.modCore_pcs (s : State) (n : Nat) (f : Core → Core) : (s.modCore n f).pcs = s.pcs := rfl
@[simp] theorem State.modCore_windows (s : State) (n : Nat) (f : Core → Core) :
    (s.modCore n f).windows = s.windows := rfl
@[simp] theorem State.modCore_jedec (s : State) (n : Nat) (f : Core → Core) :
    (s.modCore n f).jedec = s.jedec := rfl
@[simp] theorem State.modCore_timing (s : State) (n : Nat) (f : Core → Core) :
    (s.modCore n f).timing = s.timing := rfl
@[simp] theorem State.modCore_refi (s : State) (n : Nat) (f : Core → Core) : (s.modCore n f).refi = s.refi := rfl
@[simp] theorem State.modCore_refiNext (s : State) (n : Nat) (f : Core → Core) :
    (s.modCore n f).refiNext = s.refiNext := rfl
@[simp] theorem State.modCore_wrData (s : State) (n : Nat) (f : Core → Core) :
    (s.modCore n f).wrData = s.wrData := rfl
@[simp] theorem State.modCore_late (s : State) (n : Nat) (f : Core → Core) :
    (s.modCore n f).late = s.late := rfl
@[simp] theorem State.modCore_links (s : State) (n : Nat) (f : Core → Core) : (s.modCore n f).links = s.links := rfl
@[simp] theorem State.modCore_routes (s : State) (n : Nat) (f : Core → Core) :
    (s.modCore n f).routes = s.routes := rfl
@[simp] theorem State.modCore_loans (s : State) (n : Nat) (f : Core → Core) : (s.modCore n f).loans = s.loans := rfl
@[simp] theorem State.modCore_remoteReqs (s : State) (n : Nat) (f : Core → Core) :
    (s.modCore n f).remoteReqs = s.remoteReqs := rfl
@[simp] theorem State.modCore_seqs (s : State) (n : Nat) (f : Core → Core) : (s.modCore n f).seqs = s.seqs := rfl
@[simp] theorem State.modCore_unrouted (s : State) (n : Nat) (f : Core → Core) :
    (s.modCore n f).unrouted = s.unrouted := rfl
@[simp] theorem State.modCore_replies (s : State) (n : Nat) (f : Core → Core) :
    (s.modCore n f).replies = s.replies := rfl
@[simp] theorem State.modCore_staged (s : State) (n : Nat) (f : Core → Core) :
    (s.modCore n f).staged = s.staged := rfl
@[simp] theorem State.modCore_owners (s : State) (n : Nat) (f : Core → Core) :
    (s.modCore n f).owners = s.owners := rfl
@[simp] theorem State.modCore_endTimer (s : State) (n : Nat) (f : Core → Core) :
    (s.modCore n f).endTimer = s.endTimer := rfl
@[simp] theorem State.modCore_invals (s : State) (n : Nat) (f : Core → Core) :
    (s.modCore n f).invals = s.invals := rfl
@[simp] theorem State.modCore_nextId (s : State) (n : Nat) (f : Core → Core) :
    (s.modCore n f).nextId = s.nextId := rfl
@[simp] theorem State.modCore_launches (s : State) (n : Nat) (f : Core → Core) :
    (s.modCore n f).launches = s.launches := rfl
@[simp] theorem State.modCore_parts (s : State) (n : Nat) (f : Core → Core) : (s.modCore n f).parts = s.parts := rfl
@[simp] theorem State.modCore_saved (s : State) (n : Nat) (f : Core → Core) : (s.modCore n f).saved = s.saved := rfl
@[simp] theorem State.modCore_dies (s : State) (n : Nat) (f : Core → Core) : (s.modCore n f).dies = s.dies := rfl
@[simp] theorem State.modCore_dieEvents (s : State) (n : Nat) (f : Core → Core) :
    (s.modCore n f).dieEvents = s.dieEvents := rfl
@[simp] theorem State.modCore_coreWin (s : State) (n : Nat) (f : Core → Core) :
    (s.modCore n f).coreWin = s.coreWin := rfl
@[simp] theorem State.modCore_dieWin (s : State) (n : Nat) (f : Core → Core) :
    (s.modCore n f).dieWin = s.dieWin := rfl
@[simp] theorem State.modCore_spareFor (s : State) (n : Nat) (f : Core → Core) :
    (s.modCore n f).spareFor = s.spareFor := rfl
@[simp] theorem State.modCore_coreStates (s : State) (n : Nat) (f : Core → Core) :
    (s.modCore n f).coreStates = s.coreStates := rfl
@[simp] theorem State.modCore_flash (s : State) (n : Nat) (f : Core → Core) : (s.modCore n f).flash = s.flash := rfl
@[simp] theorem State.modCore_flashQueue (s : State) (n : Nat) (f : Core → Core) :
    (s.modCore n f).flashQueue = s.flashQueue := rfl
@[simp] theorem State.modCore_changes (s : State) (n : Nat) (f : Core → Core) :
    (s.modCore n f).changes = s.changes := rfl
@[simp] theorem State.modCore_devState (s : State) (n : Nat) (f : Core → Core) :
    (s.modCore n f).devState = s.devState := rfl
@[simp] theorem State.modCore_starting (s : State) (n : Nat) (f : Core → Core) :
    (s.modCore n f).starting = s.starting := rfl
@[simp] theorem State.modCore_startNo (s : State) (n : Nat) (f : Core → Core) :
    (s.modCore n f).startNo = s.startNo := rfl
@[simp] theorem State.modCore_bootAt (s : State) (n : Nat) (f : Core → Core) :
    (s.modCore n f).bootAt = s.bootAt := rfl
@[simp] theorem State.modCore_runSince (s : State) (n : Nat) (f : Core → Core) :
    (s.modCore n f).runSince = s.runSince := rfl
@[simp] theorem State.modCore_boxes (s : State) (n : Nat) (f : Core → Core) : (s.modCore n f).boxes = s.boxes := rfl
@[simp] theorem State.modCore_loanNow (s : State) (n : Nat) (f : Core → Core) :
    (s.modCore n f).loanNow = s.loanNow := rfl
@[simp] theorem State.modCore_cmdQueue (s : State) (n : Nat) (f : Core → Core) :
    (s.modCore n f).cmdQueue = s.cmdQueue := rfl
@[simp] theorem State.modCore_cmd (s : State) (n : Nat) (f : Core → Core) : (s.modCore n f).cmd = s.cmd := rfl
@[simp] theorem State.modCore_queues (s : State) (n : Nat) (f : Core → Core) :
    (s.modCore n f).queues = s.queues := rfl
@[simp] theorem State.modCore_binds (s : State) (n : Nat) (f : Core → Core) : (s.modCore n f).binds = s.binds := rfl
@[simp] theorem State.modCore_fnClass (s : State) (n : Nat) (f : Core → Core) :
    (s.modCore n f).fnClass = s.fnClass := rfl
@[simp] theorem State.modCore_hostReplies (s : State) (n : Nat) (f : Core → Core) :
    (s.modCore n f).hostReplies = s.hostReplies := rfl
@[simp] theorem State.modCore_barSizes (s : State) (n : Nat) (f : Core → Core) :
    (s.modCore n f).barSizes = s.barSizes := rfl
@[simp] theorem State.modCore_hostAcc (s : State) (n : Nat) (f : Core → Core) :
    (s.modCore n f).hostAcc = s.hostAcc := rfl
@[simp] theorem State.modCore_power (s : State) (n : Nat) (f : Core → Core) :
    (s.modCore n f).power = s.power := rfl
@[simp] theorem State.modCore_heat (s : State) (n : Nat) (f : Core → Core) :
    (s.modCore n f).heat = s.heat := rfl
@[simp] theorem State.modCore_silent (s : State) (n : Nat) (f : Core → Core) :
    (s.modCore n f).silent = s.silent := rfl
@[simp] theorem State.modCore_powers (s : State) (n : Nat) (f : Core → Core) :
    (s.modCore n f).powers = s.powers := rfl
@[simp] theorem State.modCore_overPower (s : State) (n : Nat) (f : Core → Core) :
    (s.modCore n f).overPower = s.overPower := rfl
@[simp] theorem State.modCore_temps (s : State) (n : Nat) (f : Core → Core) : (s.modCore n f).temps = s.temps := rfl
@[simp] theorem State.modCore_hot (s : State) (n : Nat) (f : Core → Core) : (s.modCore n f).hot = s.hot := rfl
@[simp] theorem State.modCore_hotNamed (s : State) (n : Nat) (f : Core → Core) :
    (s.modCore n f).hotNamed = s.hotNamed := rfl
@[simp] theorem State.modCore_reports (s : State) (n : Nat) (f : Core → Core) :
    (s.modCore n f).reports = s.reports := rfl
@[simp] theorem State.modCore_stops (s : State) (n : Nat) (f : Core → Core) : (s.modCore n f).stops = s.stops := rfl
@[simp] theorem State.modCore_linkReports (s : State) (n : Nat) (f : Core → Core) :
    (s.modCore n f).linkReports = s.linkReports := rfl

/-! ### `poolWrite` -/

@[simp] theorem State.poolWrite_now (s : State) (n a : Nat) (bs : List Byte) : (s.poolWrite n a bs).now = s.now := rfl
@[simp] theorem State.poolWrite_skew (s : State) (n a : Nat) (bs : List Byte) :
    (s.poolWrite n a bs).skew = s.skew := rfl
@[simp] theorem State.poolWrite_free (s : State) (n a : Nat) (bs : List Byte) :
    (s.poolWrite n a bs).free = s.free := rfl
@[simp] theorem State.poolWrite_cur (s : State) (n a : Nat) (bs : List Byte) : (s.poolWrite n a bs).cur = s.cur := rfl
@[simp] theorem State.poolWrite_todo (s : State) (n a : Nat) (bs : List Byte) :
    (s.poolWrite n a bs).todo = s.todo := rfl
@[simp] theorem State.poolWrite_agenda (s : State) (n a : Nat) (bs : List Byte) :
    (s.poolWrite n a bs).agenda = s.agenda := rfl
@[simp] theorem State.poolWrite_inputs (s : State) (n a : Nat) (bs : List Byte) :
    (s.poolWrite n a bs).inputs = s.inputs := rfl
@[simp] theorem State.poolWrite_ctxs (s : State) (n a : Nat) (bs : List Byte) :
    (s.poolWrite n a bs).ctxs = s.ctxs := rfl
@[simp] theorem State.poolWrite_place (s : State) (n a : Nat) (bs : List Byte) :
    (s.poolWrite n a bs).place = s.place := rfl
@[simp] theorem State.poolWrite_errata (s : State) (n a : Nat) (bs : List Byte) :
    (s.poolWrite n a bs).errata = s.errata := rfl
@[simp] theorem State.poolWrite_muls (s : State) (n a : Nat) (bs : List Byte) :
    (s.poolWrite n a bs).muls = s.muls := rfl
@[simp] theorem State.poolWrite_drains (s : State) (n a : Nat) (bs : List Byte) :
    (s.poolWrite n a bs).drains = s.drains := rfl
@[simp] theorem State.poolWrite_bars (s : State) (n a : Nat) (bs : List Byte) :
    (s.poolWrite n a bs).bars = s.bars := rfl
@[simp] theorem State.poolWrite_lpool (s : State) (n a : Nat) (bs : List Byte) :
    (s.poolWrite n a bs).lpool = s.lpool := rfl
@[simp] theorem State.poolWrite_latches (s : State) (n a : Nat) (bs : List Byte) :
    (s.poolWrite n a bs).latches = s.latches := rfl
@[simp] theorem State.poolWrite_mem (s : State) (n a : Nat) (bs : List Byte) : (s.poolWrite n a bs).mem = s.mem := rfl
@[simp] theorem State.poolWrite_badCols (s : State) (n a : Nat) (bs : List Byte) :
    (s.poolWrite n a bs).badCols = s.badCols := rfl
@[simp] theorem State.poolWrite_softCols (s : State) (n a : Nat) (bs : List Byte) :
    (s.poolWrite n a bs).softCols = s.softCols := rfl
@[simp] theorem State.poolWrite_eccCount (s : State) (n a : Nat) (bs : List Byte) :
    (s.poolWrite n a bs).eccCount = s.eccCount := rfl
@[simp] theorem State.poolWrite_pcs (s : State) (n a : Nat) (bs : List Byte) : (s.poolWrite n a bs).pcs = s.pcs := rfl
@[simp] theorem State.poolWrite_windows (s : State) (n a : Nat) (bs : List Byte) :
    (s.poolWrite n a bs).windows = s.windows := rfl
@[simp] theorem State.poolWrite_jedec (s : State) (n a : Nat) (bs : List Byte) :
    (s.poolWrite n a bs).jedec = s.jedec := rfl
@[simp] theorem State.poolWrite_timing (s : State) (n a : Nat) (bs : List Byte) :
    (s.poolWrite n a bs).timing = s.timing := rfl
@[simp] theorem State.poolWrite_refi (s : State) (n a : Nat) (bs : List Byte) :
    (s.poolWrite n a bs).refi = s.refi := rfl
@[simp] theorem State.poolWrite_refiNext (s : State) (n a : Nat) (bs : List Byte) :
    (s.poolWrite n a bs).refiNext = s.refiNext := rfl
@[simp] theorem State.poolWrite_wrData (s : State) (n a : Nat) (bs : List Byte) :
    (s.poolWrite n a bs).wrData = s.wrData := rfl
@[simp] theorem State.poolWrite_late (s : State) (n a : Nat) (bs : List Byte) :
    (s.poolWrite n a bs).late = s.late := rfl
@[simp] theorem State.poolWrite_links (s : State) (n a : Nat) (bs : List Byte) :
    (s.poolWrite n a bs).links = s.links := rfl
@[simp] theorem State.poolWrite_routes (s : State) (n a : Nat) (bs : List Byte) :
    (s.poolWrite n a bs).routes = s.routes := rfl
@[simp] theorem State.poolWrite_loans (s : State) (n a : Nat) (bs : List Byte) :
    (s.poolWrite n a bs).loans = s.loans := rfl
@[simp] theorem State.poolWrite_remoteReqs (s : State) (n a : Nat) (bs : List Byte) :
    (s.poolWrite n a bs).remoteReqs = s.remoteReqs := rfl
@[simp] theorem State.poolWrite_seqs (s : State) (n a : Nat) (bs : List Byte) :
    (s.poolWrite n a bs).seqs = s.seqs := rfl
@[simp] theorem State.poolWrite_unrouted (s : State) (n a : Nat) (bs : List Byte) :
    (s.poolWrite n a bs).unrouted = s.unrouted := rfl
@[simp] theorem State.poolWrite_replies (s : State) (n a : Nat) (bs : List Byte) :
    (s.poolWrite n a bs).replies = s.replies := rfl
@[simp] theorem State.poolWrite_staged (s : State) (n a : Nat) (bs : List Byte) :
    (s.poolWrite n a bs).staged = s.staged := rfl
@[simp] theorem State.poolWrite_owners (s : State) (n a : Nat) (bs : List Byte) :
    (s.poolWrite n a bs).owners = s.owners := rfl
@[simp] theorem State.poolWrite_endTimer (s : State) (n a : Nat) (bs : List Byte) :
    (s.poolWrite n a bs).endTimer = s.endTimer := rfl
@[simp] theorem State.poolWrite_invals (s : State) (n a : Nat) (bs : List Byte) :
    (s.poolWrite n a bs).invals = s.invals := rfl
@[simp] theorem State.poolWrite_nextId (s : State) (n a : Nat) (bs : List Byte) :
    (s.poolWrite n a bs).nextId = s.nextId := rfl
@[simp] theorem State.poolWrite_launches (s : State) (n a : Nat) (bs : List Byte) :
    (s.poolWrite n a bs).launches = s.launches := rfl
@[simp] theorem State.poolWrite_parts (s : State) (n a : Nat) (bs : List Byte) :
    (s.poolWrite n a bs).parts = s.parts := rfl
@[simp] theorem State.poolWrite_saved (s : State) (n a : Nat) (bs : List Byte) :
    (s.poolWrite n a bs).saved = s.saved := rfl
@[simp] theorem State.poolWrite_dies (s : State) (n a : Nat) (bs : List Byte) :
    (s.poolWrite n a bs).dies = s.dies := rfl
@[simp] theorem State.poolWrite_dieEvents (s : State) (n a : Nat) (bs : List Byte) :
    (s.poolWrite n a bs).dieEvents = s.dieEvents := rfl
@[simp] theorem State.poolWrite_coreWin (s : State) (n a : Nat) (bs : List Byte) :
    (s.poolWrite n a bs).coreWin = s.coreWin := rfl
@[simp] theorem State.poolWrite_dieWin (s : State) (n a : Nat) (bs : List Byte) :
    (s.poolWrite n a bs).dieWin = s.dieWin := rfl
@[simp] theorem State.poolWrite_spareFor (s : State) (n a : Nat) (bs : List Byte) :
    (s.poolWrite n a bs).spareFor = s.spareFor := rfl
@[simp] theorem State.poolWrite_coreStates (s : State) (n a : Nat) (bs : List Byte) :
    (s.poolWrite n a bs).coreStates = s.coreStates := rfl
@[simp] theorem State.poolWrite_flash (s : State) (n a : Nat) (bs : List Byte) :
    (s.poolWrite n a bs).flash = s.flash := rfl
@[simp] theorem State.poolWrite_flashQueue (s : State) (n a : Nat) (bs : List Byte) :
    (s.poolWrite n a bs).flashQueue = s.flashQueue := rfl
@[simp] theorem State.poolWrite_changes (s : State) (n a : Nat) (bs : List Byte) :
    (s.poolWrite n a bs).changes = s.changes := rfl
@[simp] theorem State.poolWrite_devState (s : State) (n a : Nat) (bs : List Byte) :
    (s.poolWrite n a bs).devState = s.devState := rfl
@[simp] theorem State.poolWrite_starting (s : State) (n a : Nat) (bs : List Byte) :
    (s.poolWrite n a bs).starting = s.starting := rfl
@[simp] theorem State.poolWrite_startNo (s : State) (n a : Nat) (bs : List Byte) :
    (s.poolWrite n a bs).startNo = s.startNo := rfl
@[simp] theorem State.poolWrite_bootAt (s : State) (n a : Nat) (bs : List Byte) :
    (s.poolWrite n a bs).bootAt = s.bootAt := rfl
@[simp] theorem State.poolWrite_runSince (s : State) (n a : Nat) (bs : List Byte) :
    (s.poolWrite n a bs).runSince = s.runSince := rfl
@[simp] theorem State.poolWrite_boxes (s : State) (n a : Nat) (bs : List Byte) :
    (s.poolWrite n a bs).boxes = s.boxes := rfl
@[simp] theorem State.poolWrite_loanNow (s : State) (n a : Nat) (bs : List Byte) :
    (s.poolWrite n a bs).loanNow = s.loanNow := rfl
@[simp] theorem State.poolWrite_cmdQueue (s : State) (n a : Nat) (bs : List Byte) :
    (s.poolWrite n a bs).cmdQueue = s.cmdQueue := rfl
@[simp] theorem State.poolWrite_cmd (s : State) (n a : Nat) (bs : List Byte) : (s.poolWrite n a bs).cmd = s.cmd := rfl
@[simp] theorem State.poolWrite_queues (s : State) (n a : Nat) (bs : List Byte) :
    (s.poolWrite n a bs).queues = s.queues := rfl
@[simp] theorem State.poolWrite_binds (s : State) (n a : Nat) (bs : List Byte) :
    (s.poolWrite n a bs).binds = s.binds := rfl
@[simp] theorem State.poolWrite_fnClass (s : State) (n a : Nat) (bs : List Byte) :
    (s.poolWrite n a bs).fnClass = s.fnClass := rfl
@[simp] theorem State.poolWrite_hostReplies (s : State) (n a : Nat) (bs : List Byte) :
    (s.poolWrite n a bs).hostReplies = s.hostReplies := rfl
@[simp] theorem State.poolWrite_barSizes (s : State) (n a : Nat) (bs : List Byte) :
    (s.poolWrite n a bs).barSizes = s.barSizes := rfl
@[simp] theorem State.poolWrite_hostAcc (s : State) (n a : Nat) (bs : List Byte) :
    (s.poolWrite n a bs).hostAcc = s.hostAcc := rfl
@[simp] theorem State.poolWrite_power (s : State) (n a : Nat) (bs : List Byte) :
    (s.poolWrite n a bs).power = s.power := rfl
@[simp] theorem State.poolWrite_heat (s : State) (n a : Nat) (bs : List Byte) :
    (s.poolWrite n a bs).heat = s.heat := rfl
@[simp] theorem State.poolWrite_silent (s : State) (n a : Nat) (bs : List Byte) :
    (s.poolWrite n a bs).silent = s.silent := rfl
@[simp] theorem State.poolWrite_powers (s : State) (n a : Nat) (bs : List Byte) :
    (s.poolWrite n a bs).powers = s.powers := rfl
@[simp] theorem State.poolWrite_overPower (s : State) (n a : Nat) (bs : List Byte) :
    (s.poolWrite n a bs).overPower = s.overPower := rfl
@[simp] theorem State.poolWrite_temps (s : State) (n a : Nat) (bs : List Byte) :
    (s.poolWrite n a bs).temps = s.temps := rfl
@[simp] theorem State.poolWrite_hot (s : State) (n a : Nat) (bs : List Byte) : (s.poolWrite n a bs).hot = s.hot := rfl
@[simp] theorem State.poolWrite_hotNamed (s : State) (n a : Nat) (bs : List Byte) :
    (s.poolWrite n a bs).hotNamed = s.hotNamed := rfl
@[simp] theorem State.poolWrite_reports (s : State) (n a : Nat) (bs : List Byte) :
    (s.poolWrite n a bs).reports = s.reports := rfl
@[simp] theorem State.poolWrite_stops (s : State) (n a : Nat) (bs : List Byte) :
    (s.poolWrite n a bs).stops = s.stops := rfl
@[simp] theorem State.poolWrite_linkReports (s : State) (n a : Nat) (bs : List Byte) :
    (s.poolWrite n a bs).linkReports = s.linkReports := rfl

/-! ### `poolCells` -/

@[simp] theorem State.poolCells_now (s : State) (n : Nat) (l : List (Nat × Byte)) :
    (s.poolCells n l).now = s.now := rfl
@[simp] theorem State.poolCells_skew (s : State) (n : Nat) (l : List (Nat × Byte)) :
    (s.poolCells n l).skew = s.skew := rfl
@[simp] theorem State.poolCells_free (s : State) (n : Nat) (l : List (Nat × Byte)) :
    (s.poolCells n l).free = s.free := rfl
@[simp] theorem State.poolCells_cur (s : State) (n : Nat) (l : List (Nat × Byte)) :
    (s.poolCells n l).cur = s.cur := rfl
@[simp] theorem State.poolCells_todo (s : State) (n : Nat) (l : List (Nat × Byte)) :
    (s.poolCells n l).todo = s.todo := rfl
@[simp] theorem State.poolCells_agenda (s : State) (n : Nat) (l : List (Nat × Byte)) :
    (s.poolCells n l).agenda = s.agenda := rfl
@[simp] theorem State.poolCells_inputs (s : State) (n : Nat) (l : List (Nat × Byte)) :
    (s.poolCells n l).inputs = s.inputs := rfl
@[simp] theorem State.poolCells_ctxs (s : State) (n : Nat) (l : List (Nat × Byte)) :
    (s.poolCells n l).ctxs = s.ctxs := rfl
@[simp] theorem State.poolCells_place (s : State) (n : Nat) (l : List (Nat × Byte)) :
    (s.poolCells n l).place = s.place := rfl
@[simp] theorem State.poolCells_errata (s : State) (n : Nat) (l : List (Nat × Byte)) :
    (s.poolCells n l).errata = s.errata := rfl
@[simp] theorem State.poolCells_muls (s : State) (n : Nat) (l : List (Nat × Byte)) :
    (s.poolCells n l).muls = s.muls := rfl
@[simp] theorem State.poolCells_drains (s : State) (n : Nat) (l : List (Nat × Byte)) :
    (s.poolCells n l).drains = s.drains := rfl
@[simp] theorem State.poolCells_bars (s : State) (n : Nat) (l : List (Nat × Byte)) :
    (s.poolCells n l).bars = s.bars := rfl
@[simp] theorem State.poolCells_lpool (s : State) (n : Nat) (l : List (Nat × Byte)) :
    (s.poolCells n l).lpool = s.lpool := rfl
@[simp] theorem State.poolCells_latches (s : State) (n : Nat) (l : List (Nat × Byte)) :
    (s.poolCells n l).latches = s.latches := rfl
@[simp] theorem State.poolCells_mem (s : State) (n : Nat) (l : List (Nat × Byte)) :
    (s.poolCells n l).mem = s.mem := rfl
@[simp] theorem State.poolCells_badCols (s : State) (n : Nat) (l : List (Nat × Byte)) :
    (s.poolCells n l).badCols = s.badCols := rfl
@[simp] theorem State.poolCells_softCols (s : State) (n : Nat) (l : List (Nat × Byte)) :
    (s.poolCells n l).softCols = s.softCols := rfl
@[simp] theorem State.poolCells_eccCount (s : State) (n : Nat) (l : List (Nat × Byte)) :
    (s.poolCells n l).eccCount = s.eccCount := rfl
@[simp] theorem State.poolCells_pcs (s : State) (n : Nat) (l : List (Nat × Byte)) :
    (s.poolCells n l).pcs = s.pcs := rfl
@[simp] theorem State.poolCells_windows (s : State) (n : Nat) (l : List (Nat × Byte)) :
    (s.poolCells n l).windows = s.windows := rfl
@[simp] theorem State.poolCells_jedec (s : State) (n : Nat) (l : List (Nat × Byte)) :
    (s.poolCells n l).jedec = s.jedec := rfl
@[simp] theorem State.poolCells_timing (s : State) (n : Nat) (l : List (Nat × Byte)) :
    (s.poolCells n l).timing = s.timing := rfl
@[simp] theorem State.poolCells_refi (s : State) (n : Nat) (l : List (Nat × Byte)) :
    (s.poolCells n l).refi = s.refi := rfl
@[simp] theorem State.poolCells_refiNext (s : State) (n : Nat) (l : List (Nat × Byte)) :
    (s.poolCells n l).refiNext = s.refiNext := rfl
@[simp] theorem State.poolCells_wrData (s : State) (n : Nat) (l : List (Nat × Byte)) :
    (s.poolCells n l).wrData = s.wrData := rfl
@[simp] theorem State.poolCells_late (s : State) (n : Nat) (l : List (Nat × Byte)) :
    (s.poolCells n l).late = s.late := rfl
@[simp] theorem State.poolCells_links (s : State) (n : Nat) (l : List (Nat × Byte)) :
    (s.poolCells n l).links = s.links := rfl
@[simp] theorem State.poolCells_routes (s : State) (n : Nat) (l : List (Nat × Byte)) :
    (s.poolCells n l).routes = s.routes := rfl
@[simp] theorem State.poolCells_loans (s : State) (n : Nat) (l : List (Nat × Byte)) :
    (s.poolCells n l).loans = s.loans := rfl
@[simp] theorem State.poolCells_remoteReqs (s : State) (n : Nat) (l : List (Nat × Byte)) :
    (s.poolCells n l).remoteReqs = s.remoteReqs := rfl
@[simp] theorem State.poolCells_seqs (s : State) (n : Nat) (l : List (Nat × Byte)) :
    (s.poolCells n l).seqs = s.seqs := rfl
@[simp] theorem State.poolCells_unrouted (s : State) (n : Nat) (l : List (Nat × Byte)) :
    (s.poolCells n l).unrouted = s.unrouted := rfl
@[simp] theorem State.poolCells_replies (s : State) (n : Nat) (l : List (Nat × Byte)) :
    (s.poolCells n l).replies = s.replies := rfl
@[simp] theorem State.poolCells_staged (s : State) (n : Nat) (l : List (Nat × Byte)) :
    (s.poolCells n l).staged = s.staged := rfl
@[simp] theorem State.poolCells_owners (s : State) (n : Nat) (l : List (Nat × Byte)) :
    (s.poolCells n l).owners = s.owners := rfl
@[simp] theorem State.poolCells_endTimer (s : State) (n : Nat) (l : List (Nat × Byte)) :
    (s.poolCells n l).endTimer = s.endTimer := rfl
@[simp] theorem State.poolCells_invals (s : State) (n : Nat) (l : List (Nat × Byte)) :
    (s.poolCells n l).invals = s.invals := rfl
@[simp] theorem State.poolCells_nextId (s : State) (n : Nat) (l : List (Nat × Byte)) :
    (s.poolCells n l).nextId = s.nextId := rfl
@[simp] theorem State.poolCells_launches (s : State) (n : Nat) (l : List (Nat × Byte)) :
    (s.poolCells n l).launches = s.launches := rfl
@[simp] theorem State.poolCells_parts (s : State) (n : Nat) (l : List (Nat × Byte)) :
    (s.poolCells n l).parts = s.parts := rfl
@[simp] theorem State.poolCells_saved (s : State) (n : Nat) (l : List (Nat × Byte)) :
    (s.poolCells n l).saved = s.saved := rfl
@[simp] theorem State.poolCells_dies (s : State) (n : Nat) (l : List (Nat × Byte)) :
    (s.poolCells n l).dies = s.dies := rfl
@[simp] theorem State.poolCells_dieEvents (s : State) (n : Nat) (l : List (Nat × Byte)) :
    (s.poolCells n l).dieEvents = s.dieEvents := rfl
@[simp] theorem State.poolCells_coreWin (s : State) (n : Nat) (l : List (Nat × Byte)) :
    (s.poolCells n l).coreWin = s.coreWin := rfl
@[simp] theorem State.poolCells_dieWin (s : State) (n : Nat) (l : List (Nat × Byte)) :
    (s.poolCells n l).dieWin = s.dieWin := rfl
@[simp] theorem State.poolCells_spareFor (s : State) (n : Nat) (l : List (Nat × Byte)) :
    (s.poolCells n l).spareFor = s.spareFor := rfl
@[simp] theorem State.poolCells_coreStates (s : State) (n : Nat) (l : List (Nat × Byte)) :
    (s.poolCells n l).coreStates = s.coreStates := rfl
@[simp] theorem State.poolCells_flash (s : State) (n : Nat) (l : List (Nat × Byte)) :
    (s.poolCells n l).flash = s.flash := rfl
@[simp] theorem State.poolCells_flashQueue (s : State) (n : Nat) (l : List (Nat × Byte)) :
    (s.poolCells n l).flashQueue = s.flashQueue := rfl
@[simp] theorem State.poolCells_changes (s : State) (n : Nat) (l : List (Nat × Byte)) :
    (s.poolCells n l).changes = s.changes := rfl
@[simp] theorem State.poolCells_devState (s : State) (n : Nat) (l : List (Nat × Byte)) :
    (s.poolCells n l).devState = s.devState := rfl
@[simp] theorem State.poolCells_starting (s : State) (n : Nat) (l : List (Nat × Byte)) :
    (s.poolCells n l).starting = s.starting := rfl
@[simp] theorem State.poolCells_startNo (s : State) (n : Nat) (l : List (Nat × Byte)) :
    (s.poolCells n l).startNo = s.startNo := rfl
@[simp] theorem State.poolCells_bootAt (s : State) (n : Nat) (l : List (Nat × Byte)) :
    (s.poolCells n l).bootAt = s.bootAt := rfl
@[simp] theorem State.poolCells_runSince (s : State) (n : Nat) (l : List (Nat × Byte)) :
    (s.poolCells n l).runSince = s.runSince := rfl
@[simp] theorem State.poolCells_boxes (s : State) (n : Nat) (l : List (Nat × Byte)) :
    (s.poolCells n l).boxes = s.boxes := rfl
@[simp] theorem State.poolCells_loanNow (s : State) (n : Nat) (l : List (Nat × Byte)) :
    (s.poolCells n l).loanNow = s.loanNow := rfl
@[simp] theorem State.poolCells_cmdQueue (s : State) (n : Nat) (l : List (Nat × Byte)) :
    (s.poolCells n l).cmdQueue = s.cmdQueue := rfl
@[simp] theorem State.poolCells_cmd (s : State) (n : Nat) (l : List (Nat × Byte)) :
    (s.poolCells n l).cmd = s.cmd := rfl
@[simp] theorem State.poolCells_queues (s : State) (n : Nat) (l : List (Nat × Byte)) :
    (s.poolCells n l).queues = s.queues := rfl
@[simp] theorem State.poolCells_binds (s : State) (n : Nat) (l : List (Nat × Byte)) :
    (s.poolCells n l).binds = s.binds := rfl
@[simp] theorem State.poolCells_fnClass (s : State) (n : Nat) (l : List (Nat × Byte)) :
    (s.poolCells n l).fnClass = s.fnClass := rfl
@[simp] theorem State.poolCells_hostReplies (s : State) (n : Nat) (l : List (Nat × Byte)) :
    (s.poolCells n l).hostReplies = s.hostReplies := rfl
@[simp] theorem State.poolCells_barSizes (s : State) (n : Nat) (l : List (Nat × Byte)) :
    (s.poolCells n l).barSizes = s.barSizes := rfl
@[simp] theorem State.poolCells_hostAcc (s : State) (n : Nat) (l : List (Nat × Byte)) :
    (s.poolCells n l).hostAcc = s.hostAcc := rfl
@[simp] theorem State.poolCells_power (s : State) (n : Nat) (l : List (Nat × Byte)) :
    (s.poolCells n l).power = s.power := rfl
@[simp] theorem State.poolCells_heat (s : State) (n : Nat) (l : List (Nat × Byte)) :
    (s.poolCells n l).heat = s.heat := rfl
@[simp] theorem State.poolCells_silent (s : State) (n : Nat) (l : List (Nat × Byte)) :
    (s.poolCells n l).silent = s.silent := rfl
@[simp] theorem State.poolCells_powers (s : State) (n : Nat) (l : List (Nat × Byte)) :
    (s.poolCells n l).powers = s.powers := rfl
@[simp] theorem State.poolCells_overPower (s : State) (n : Nat) (l : List (Nat × Byte)) :
    (s.poolCells n l).overPower = s.overPower := rfl
@[simp] theorem State.poolCells_temps (s : State) (n : Nat) (l : List (Nat × Byte)) :
    (s.poolCells n l).temps = s.temps := rfl
@[simp] theorem State.poolCells_hot (s : State) (n : Nat) (l : List (Nat × Byte)) :
    (s.poolCells n l).hot = s.hot := rfl
@[simp] theorem State.poolCells_hotNamed (s : State) (n : Nat) (l : List (Nat × Byte)) :
    (s.poolCells n l).hotNamed = s.hotNamed := rfl
@[simp] theorem State.poolCells_reports (s : State) (n : Nat) (l : List (Nat × Byte)) :
    (s.poolCells n l).reports = s.reports := rfl
@[simp] theorem State.poolCells_stops (s : State) (n : Nat) (l : List (Nat × Byte)) :
    (s.poolCells n l).stops = s.stops := rfl
@[simp] theorem State.poolCells_linkReports (s : State) (n : Nat) (l : List (Nat × Byte)) :
    (s.poolCells n l).linkReports = s.linkReports := rfl

/-! ### `memWrite` -/

@[simp] theorem State.memWrite_now (s : State) (a : Nat) (bs : List Byte) : (s.memWrite a bs).now = s.now := rfl
@[simp] theorem State.memWrite_skew (s : State) (a : Nat) (bs : List Byte) : (s.memWrite a bs).skew = s.skew := rfl
@[simp] theorem State.memWrite_free (s : State) (a : Nat) (bs : List Byte) : (s.memWrite a bs).free = s.free := rfl
@[simp] theorem State.memWrite_cur (s : State) (a : Nat) (bs : List Byte) : (s.memWrite a bs).cur = s.cur := rfl
@[simp] theorem State.memWrite_todo (s : State) (a : Nat) (bs : List Byte) : (s.memWrite a bs).todo = s.todo := rfl
@[simp] theorem State.memWrite_agenda (s : State) (a : Nat) (bs : List Byte) :
    (s.memWrite a bs).agenda = s.agenda := rfl
@[simp] theorem State.memWrite_inputs (s : State) (a : Nat) (bs : List Byte) :
    (s.memWrite a bs).inputs = s.inputs := rfl
@[simp] theorem State.memWrite_ctxs (s : State) (a : Nat) (bs : List Byte) : (s.memWrite a bs).ctxs = s.ctxs := rfl
@[simp] theorem State.memWrite_cores (s : State) (a : Nat) (bs : List Byte) : (s.memWrite a bs).cores = s.cores := rfl
@[simp] theorem State.memWrite_place (s : State) (a : Nat) (bs : List Byte) : (s.memWrite a bs).place = s.place := rfl
@[simp] theorem State.memWrite_errata (s : State) (a : Nat) (bs : List Byte) :
    (s.memWrite a bs).errata = s.errata := rfl
@[simp] theorem State.memWrite_muls (s : State) (a : Nat) (bs : List Byte) : (s.memWrite a bs).muls = s.muls := rfl
@[simp] theorem State.memWrite_drains (s : State) (a : Nat) (bs : List Byte) :
    (s.memWrite a bs).drains = s.drains := rfl
@[simp] theorem State.memWrite_bars (s : State) (a : Nat) (bs : List Byte) : (s.memWrite a bs).bars = s.bars := rfl
@[simp] theorem State.memWrite_lpool (s : State) (a : Nat) (bs : List Byte) : (s.memWrite a bs).lpool = s.lpool := rfl
@[simp] theorem State.memWrite_latches (s : State) (a : Nat) (bs : List Byte) :
    (s.memWrite a bs).latches = s.latches := rfl
@[simp] theorem State.memWrite_badCols (s : State) (a : Nat) (bs : List Byte) :
    (s.memWrite a bs).badCols = s.badCols := rfl
@[simp] theorem State.memWrite_softCols (s : State) (a : Nat) (bs : List Byte) :
    (s.memWrite a bs).softCols = s.softCols := rfl
@[simp] theorem State.memWrite_eccCount (s : State) (a : Nat) (bs : List Byte) :
    (s.memWrite a bs).eccCount = s.eccCount := rfl
@[simp] theorem State.memWrite_pcs (s : State) (a : Nat) (bs : List Byte) : (s.memWrite a bs).pcs = s.pcs := rfl
@[simp] theorem State.memWrite_windows (s : State) (a : Nat) (bs : List Byte) :
    (s.memWrite a bs).windows = s.windows := rfl
@[simp] theorem State.memWrite_jedec (s : State) (a : Nat) (bs : List Byte) :
    (s.memWrite a bs).jedec = s.jedec := rfl
@[simp] theorem State.memWrite_timing (s : State) (a : Nat) (bs : List Byte) :
    (s.memWrite a bs).timing = s.timing := rfl
@[simp] theorem State.memWrite_refi (s : State) (a : Nat) (bs : List Byte) : (s.memWrite a bs).refi = s.refi := rfl
@[simp] theorem State.memWrite_refiNext (s : State) (a : Nat) (bs : List Byte) :
    (s.memWrite a bs).refiNext = s.refiNext := rfl
@[simp] theorem State.memWrite_wrData (s : State) (a : Nat) (bs : List Byte) :
    (s.memWrite a bs).wrData = s.wrData := rfl
@[simp] theorem State.memWrite_late (s : State) (a : Nat) (bs : List Byte) :
    (s.memWrite a bs).late = s.late := rfl
@[simp] theorem State.memWrite_links (s : State) (a : Nat) (bs : List Byte) : (s.memWrite a bs).links = s.links := rfl
@[simp] theorem State.memWrite_routes (s : State) (a : Nat) (bs : List Byte) :
    (s.memWrite a bs).routes = s.routes := rfl
@[simp] theorem State.memWrite_loans (s : State) (a : Nat) (bs : List Byte) : (s.memWrite a bs).loans = s.loans := rfl
@[simp] theorem State.memWrite_remoteReqs (s : State) (a : Nat) (bs : List Byte) :
    (s.memWrite a bs).remoteReqs = s.remoteReqs := rfl
@[simp] theorem State.memWrite_seqs (s : State) (a : Nat) (bs : List Byte) : (s.memWrite a bs).seqs = s.seqs := rfl
@[simp] theorem State.memWrite_unrouted (s : State) (a : Nat) (bs : List Byte) :
    (s.memWrite a bs).unrouted = s.unrouted := rfl
@[simp] theorem State.memWrite_replies (s : State) (a : Nat) (bs : List Byte) :
    (s.memWrite a bs).replies = s.replies := rfl
@[simp] theorem State.memWrite_staged (s : State) (a : Nat) (bs : List Byte) :
    (s.memWrite a bs).staged = s.staged := rfl
@[simp] theorem State.memWrite_owners (s : State) (a : Nat) (bs : List Byte) :
    (s.memWrite a bs).owners = s.owners := rfl
@[simp] theorem State.memWrite_endTimer (s : State) (a : Nat) (bs : List Byte) :
    (s.memWrite a bs).endTimer = s.endTimer := rfl
@[simp] theorem State.memWrite_invals (s : State) (a : Nat) (bs : List Byte) :
    (s.memWrite a bs).invals = s.invals := rfl
@[simp] theorem State.memWrite_nextId (s : State) (a : Nat) (bs : List Byte) :
    (s.memWrite a bs).nextId = s.nextId := rfl
@[simp] theorem State.memWrite_launches (s : State) (a : Nat) (bs : List Byte) :
    (s.memWrite a bs).launches = s.launches := rfl
@[simp] theorem State.memWrite_parts (s : State) (a : Nat) (bs : List Byte) : (s.memWrite a bs).parts = s.parts := rfl
@[simp] theorem State.memWrite_saved (s : State) (a : Nat) (bs : List Byte) : (s.memWrite a bs).saved = s.saved := rfl
@[simp] theorem State.memWrite_dies (s : State) (a : Nat) (bs : List Byte) : (s.memWrite a bs).dies = s.dies := rfl
@[simp] theorem State.memWrite_dieEvents (s : State) (a : Nat) (bs : List Byte) :
    (s.memWrite a bs).dieEvents = s.dieEvents := rfl
@[simp] theorem State.memWrite_coreWin (s : State) (a : Nat) (bs : List Byte) :
    (s.memWrite a bs).coreWin = s.coreWin := rfl
@[simp] theorem State.memWrite_dieWin (s : State) (a : Nat) (bs : List Byte) :
    (s.memWrite a bs).dieWin = s.dieWin := rfl
@[simp] theorem State.memWrite_spareFor (s : State) (a : Nat) (bs : List Byte) :
    (s.memWrite a bs).spareFor = s.spareFor := rfl
@[simp] theorem State.memWrite_coreStates (s : State) (a : Nat) (bs : List Byte) :
    (s.memWrite a bs).coreStates = s.coreStates := rfl
@[simp] theorem State.memWrite_flash (s : State) (a : Nat) (bs : List Byte) : (s.memWrite a bs).flash = s.flash := rfl
@[simp] theorem State.memWrite_flashQueue (s : State) (a : Nat) (bs : List Byte) :
    (s.memWrite a bs).flashQueue = s.flashQueue := rfl
@[simp] theorem State.memWrite_changes (s : State) (a : Nat) (bs : List Byte) :
    (s.memWrite a bs).changes = s.changes := rfl
@[simp] theorem State.memWrite_devState (s : State) (a : Nat) (bs : List Byte) :
    (s.memWrite a bs).devState = s.devState := rfl
@[simp] theorem State.memWrite_starting (s : State) (a : Nat) (bs : List Byte) :
    (s.memWrite a bs).starting = s.starting := rfl
@[simp] theorem State.memWrite_startNo (s : State) (a : Nat) (bs : List Byte) :
    (s.memWrite a bs).startNo = s.startNo := rfl
@[simp] theorem State.memWrite_bootAt (s : State) (a : Nat) (bs : List Byte) :
    (s.memWrite a bs).bootAt = s.bootAt := rfl
@[simp] theorem State.memWrite_runSince (s : State) (a : Nat) (bs : List Byte) :
    (s.memWrite a bs).runSince = s.runSince := rfl
@[simp] theorem State.memWrite_boxes (s : State) (a : Nat) (bs : List Byte) : (s.memWrite a bs).boxes = s.boxes := rfl
@[simp] theorem State.memWrite_loanNow (s : State) (a : Nat) (bs : List Byte) :
    (s.memWrite a bs).loanNow = s.loanNow := rfl
@[simp] theorem State.memWrite_cmdQueue (s : State) (a : Nat) (bs : List Byte) :
    (s.memWrite a bs).cmdQueue = s.cmdQueue := rfl
@[simp] theorem State.memWrite_cmd (s : State) (a : Nat) (bs : List Byte) : (s.memWrite a bs).cmd = s.cmd := rfl
@[simp] theorem State.memWrite_queues (s : State) (a : Nat) (bs : List Byte) :
    (s.memWrite a bs).queues = s.queues := rfl
@[simp] theorem State.memWrite_binds (s : State) (a : Nat) (bs : List Byte) : (s.memWrite a bs).binds = s.binds := rfl
@[simp] theorem State.memWrite_fnClass (s : State) (a : Nat) (bs : List Byte) :
    (s.memWrite a bs).fnClass = s.fnClass := rfl
@[simp] theorem State.memWrite_hostReplies (s : State) (a : Nat) (bs : List Byte) :
    (s.memWrite a bs).hostReplies = s.hostReplies := rfl
@[simp] theorem State.memWrite_barSizes (s : State) (a : Nat) (bs : List Byte) :
    (s.memWrite a bs).barSizes = s.barSizes := rfl
@[simp] theorem State.memWrite_hostAcc (s : State) (a : Nat) (bs : List Byte) :
    (s.memWrite a bs).hostAcc = s.hostAcc := rfl
@[simp] theorem State.memWrite_power (s : State) (a : Nat) (bs : List Byte) :
    (s.memWrite a bs).power = s.power := rfl
@[simp] theorem State.memWrite_heat (s : State) (a : Nat) (bs : List Byte) :
    (s.memWrite a bs).heat = s.heat := rfl
@[simp] theorem State.memWrite_silent (s : State) (a : Nat) (bs : List Byte) :
    (s.memWrite a bs).silent = s.silent := rfl
@[simp] theorem State.memWrite_powers (s : State) (a : Nat) (bs : List Byte) :
    (s.memWrite a bs).powers = s.powers := rfl
@[simp] theorem State.memWrite_overPower (s : State) (a : Nat) (bs : List Byte) :
    (s.memWrite a bs).overPower = s.overPower := rfl
@[simp] theorem State.memWrite_temps (s : State) (a : Nat) (bs : List Byte) : (s.memWrite a bs).temps = s.temps := rfl
@[simp] theorem State.memWrite_hot (s : State) (a : Nat) (bs : List Byte) : (s.memWrite a bs).hot = s.hot := rfl
@[simp] theorem State.memWrite_hotNamed (s : State) (a : Nat) (bs : List Byte) :
    (s.memWrite a bs).hotNamed = s.hotNamed := rfl
@[simp] theorem State.memWrite_reports (s : State) (a : Nat) (bs : List Byte) :
    (s.memWrite a bs).reports = s.reports := rfl
@[simp] theorem State.memWrite_stops (s : State) (a : Nat) (bs : List Byte) : (s.memWrite a bs).stops = s.stops := rfl
@[simp] theorem State.memWrite_linkReports (s : State) (a : Nat) (bs : List Byte) :
    (s.memWrite a bs).linkReports = s.linkReports := rfl

/-! ### `emit` -/

@[simp] theorem State.emit_now (s : State) (n r : Nat) (e : Event) : (s.emit n r e).now = s.now := rfl
@[simp] theorem State.emit_skew (s : State) (n r : Nat) (e : Event) : (s.emit n r e).skew = s.skew := rfl
@[simp] theorem State.emit_free (s : State) (n r : Nat) (e : Event) : (s.emit n r e).free = s.free := rfl
@[simp] theorem State.emit_todo (s : State) (n r : Nat) (e : Event) : (s.emit n r e).todo = s.todo := rfl
@[simp] theorem State.emit_agenda (s : State) (n r : Nat) (e : Event) : (s.emit n r e).agenda = s.agenda := rfl
@[simp] theorem State.emit_inputs (s : State) (n r : Nat) (e : Event) : (s.emit n r e).inputs = s.inputs := rfl
@[simp] theorem State.emit_ctxs (s : State) (n r : Nat) (e : Event) : (s.emit n r e).ctxs = s.ctxs := rfl
@[simp] theorem State.emit_cores (s : State) (n r : Nat) (e : Event) : (s.emit n r e).cores = s.cores := rfl
@[simp] theorem State.emit_place (s : State) (n r : Nat) (e : Event) : (s.emit n r e).place = s.place := rfl
@[simp] theorem State.emit_errata (s : State) (n r : Nat) (e : Event) : (s.emit n r e).errata = s.errata := rfl
@[simp] theorem State.emit_muls (s : State) (n r : Nat) (e : Event) : (s.emit n r e).muls = s.muls := rfl
@[simp] theorem State.emit_drains (s : State) (n r : Nat) (e : Event) : (s.emit n r e).drains = s.drains := rfl
@[simp] theorem State.emit_bars (s : State) (n r : Nat) (e : Event) : (s.emit n r e).bars = s.bars := rfl
@[simp] theorem State.emit_lpool (s : State) (n r : Nat) (e : Event) : (s.emit n r e).lpool = s.lpool := rfl
@[simp] theorem State.emit_latches (s : State) (n r : Nat) (e : Event) : (s.emit n r e).latches = s.latches := rfl
@[simp] theorem State.emit_mem (s : State) (n r : Nat) (e : Event) : (s.emit n r e).mem = s.mem := rfl
@[simp] theorem State.emit_badCols (s : State) (n r : Nat) (e : Event) : (s.emit n r e).badCols = s.badCols := rfl
@[simp] theorem State.emit_softCols (s : State) (n r : Nat) (e : Event) : (s.emit n r e).softCols = s.softCols := rfl
@[simp] theorem State.emit_eccCount (s : State) (n r : Nat) (e : Event) : (s.emit n r e).eccCount = s.eccCount := rfl
@[simp] theorem State.emit_pcs (s : State) (n r : Nat) (e : Event) : (s.emit n r e).pcs = s.pcs := rfl
@[simp] theorem State.emit_windows (s : State) (n r : Nat) (e : Event) : (s.emit n r e).windows = s.windows := rfl
@[simp] theorem State.emit_jedec (s : State) (n r : Nat) (e : Event) : (s.emit n r e).jedec = s.jedec := rfl
@[simp] theorem State.emit_timing (s : State) (n r : Nat) (e : Event) : (s.emit n r e).timing = s.timing := rfl
@[simp] theorem State.emit_refi (s : State) (n r : Nat) (e : Event) : (s.emit n r e).refi = s.refi := rfl
@[simp] theorem State.emit_refiNext (s : State) (n r : Nat) (e : Event) : (s.emit n r e).refiNext = s.refiNext := rfl
@[simp] theorem State.emit_wrData (s : State) (n r : Nat) (e : Event) : (s.emit n r e).wrData = s.wrData := rfl
@[simp] theorem State.emit_late (s : State) (n r : Nat) (e : Event) : (s.emit n r e).late = s.late := rfl
@[simp] theorem State.emit_links (s : State) (n r : Nat) (e : Event) : (s.emit n r e).links = s.links := rfl
@[simp] theorem State.emit_routes (s : State) (n r : Nat) (e : Event) : (s.emit n r e).routes = s.routes := rfl
@[simp] theorem State.emit_loans (s : State) (n r : Nat) (e : Event) : (s.emit n r e).loans = s.loans := rfl
@[simp] theorem State.emit_remoteReqs (s : State) (n r : Nat) (e : Event) :
    (s.emit n r e).remoteReqs = s.remoteReqs := rfl
@[simp] theorem State.emit_seqs (s : State) (n r : Nat) (e : Event) : (s.emit n r e).seqs = s.seqs := rfl
@[simp] theorem State.emit_unrouted (s : State) (n r : Nat) (e : Event) : (s.emit n r e).unrouted = s.unrouted := rfl
@[simp] theorem State.emit_replies (s : State) (n r : Nat) (e : Event) : (s.emit n r e).replies = s.replies := rfl
@[simp] theorem State.emit_staged (s : State) (n r : Nat) (e : Event) : (s.emit n r e).staged = s.staged := rfl
@[simp] theorem State.emit_owners (s : State) (n r : Nat) (e : Event) : (s.emit n r e).owners = s.owners := rfl
@[simp] theorem State.emit_endTimer (s : State) (n r : Nat) (e : Event) : (s.emit n r e).endTimer = s.endTimer := rfl
@[simp] theorem State.emit_invals (s : State) (n r : Nat) (e : Event) : (s.emit n r e).invals = s.invals := rfl
@[simp] theorem State.emit_nextId (s : State) (n r : Nat) (e : Event) : (s.emit n r e).nextId = s.nextId := rfl
@[simp] theorem State.emit_launches (s : State) (n r : Nat) (e : Event) : (s.emit n r e).launches = s.launches := rfl
@[simp] theorem State.emit_parts (s : State) (n r : Nat) (e : Event) : (s.emit n r e).parts = s.parts := rfl
@[simp] theorem State.emit_saved (s : State) (n r : Nat) (e : Event) : (s.emit n r e).saved = s.saved := rfl
@[simp] theorem State.emit_dies (s : State) (n r : Nat) (e : Event) : (s.emit n r e).dies = s.dies := rfl
@[simp] theorem State.emit_dieEvents (s : State) (n r : Nat) (e : Event) :
    (s.emit n r e).dieEvents = s.dieEvents := rfl
@[simp] theorem State.emit_coreWin (s : State) (n r : Nat) (e : Event) : (s.emit n r e).coreWin = s.coreWin := rfl
@[simp] theorem State.emit_dieWin (s : State) (n r : Nat) (e : Event) : (s.emit n r e).dieWin = s.dieWin := rfl
@[simp] theorem State.emit_spareFor (s : State) (n r : Nat) (e : Event) : (s.emit n r e).spareFor = s.spareFor := rfl
@[simp] theorem State.emit_coreStates (s : State) (n r : Nat) (e : Event) :
    (s.emit n r e).coreStates = s.coreStates := rfl
@[simp] theorem State.emit_flash (s : State) (n r : Nat) (e : Event) : (s.emit n r e).flash = s.flash := rfl
@[simp] theorem State.emit_flashQueue (s : State) (n r : Nat) (e : Event) :
    (s.emit n r e).flashQueue = s.flashQueue := rfl
@[simp] theorem State.emit_changes (s : State) (n r : Nat) (e : Event) : (s.emit n r e).changes = s.changes := rfl
@[simp] theorem State.emit_devState (s : State) (n r : Nat) (e : Event) : (s.emit n r e).devState = s.devState := rfl
@[simp] theorem State.emit_starting (s : State) (n r : Nat) (e : Event) : (s.emit n r e).starting = s.starting := rfl
@[simp] theorem State.emit_startNo (s : State) (n r : Nat) (e : Event) : (s.emit n r e).startNo = s.startNo := rfl
@[simp] theorem State.emit_bootAt (s : State) (n r : Nat) (e : Event) : (s.emit n r e).bootAt = s.bootAt := rfl
@[simp] theorem State.emit_runSince (s : State) (n r : Nat) (e : Event) : (s.emit n r e).runSince = s.runSince := rfl
@[simp] theorem State.emit_boxes (s : State) (n r : Nat) (e : Event) : (s.emit n r e).boxes = s.boxes := rfl
@[simp] theorem State.emit_loanNow (s : State) (n r : Nat) (e : Event) : (s.emit n r e).loanNow = s.loanNow := rfl
@[simp] theorem State.emit_cmdQueue (s : State) (n r : Nat) (e : Event) : (s.emit n r e).cmdQueue = s.cmdQueue := rfl
@[simp] theorem State.emit_cmd (s : State) (n r : Nat) (e : Event) : (s.emit n r e).cmd = s.cmd := rfl
@[simp] theorem State.emit_queues (s : State) (n r : Nat) (e : Event) : (s.emit n r e).queues = s.queues := rfl
@[simp] theorem State.emit_binds (s : State) (n r : Nat) (e : Event) : (s.emit n r e).binds = s.binds := rfl
@[simp] theorem State.emit_fnClass (s : State) (n r : Nat) (e : Event) : (s.emit n r e).fnClass = s.fnClass := rfl
@[simp] theorem State.emit_hostReplies (s : State) (n r : Nat) (e : Event) :
    (s.emit n r e).hostReplies = s.hostReplies := rfl
@[simp] theorem State.emit_barSizes (s : State) (n r : Nat) (e : Event) : (s.emit n r e).barSizes = s.barSizes := rfl
@[simp] theorem State.emit_hostAcc (s : State) (n r : Nat) (e : Event) : (s.emit n r e).hostAcc = s.hostAcc := rfl
@[simp] theorem State.emit_power (s : State) (n r : Nat) (e : Event) : (s.emit n r e).power = s.power := rfl
@[simp] theorem State.emit_heat (s : State) (n r : Nat) (e : Event) : (s.emit n r e).heat = s.heat := rfl
@[simp] theorem State.emit_silent (s : State) (n r : Nat) (e : Event) : (s.emit n r e).silent = s.silent := rfl
@[simp] theorem State.emit_powers (s : State) (n r : Nat) (e : Event) : (s.emit n r e).powers = s.powers := rfl
@[simp] theorem State.emit_overPower (s : State) (n r : Nat) (e : Event) :
    (s.emit n r e).overPower = s.overPower := rfl
@[simp] theorem State.emit_temps (s : State) (n r : Nat) (e : Event) : (s.emit n r e).temps = s.temps := rfl
@[simp] theorem State.emit_hot (s : State) (n r : Nat) (e : Event) : (s.emit n r e).hot = s.hot := rfl
@[simp] theorem State.emit_hotNamed (s : State) (n r : Nat) (e : Event) : (s.emit n r e).hotNamed = s.hotNamed := rfl
@[simp] theorem State.emit_reports (s : State) (n r : Nat) (e : Event) : (s.emit n r e).reports = s.reports := rfl
@[simp] theorem State.emit_stops (s : State) (n r : Nat) (e : Event) : (s.emit n r e).stops = s.stops := rfl
@[simp] theorem State.emit_linkReports (s : State) (n r : Nat) (e : Event) :
    (s.emit n r e).linkReports = s.linkReports := rfl

/-! ### `land` -/

@[simp] theorem State.land_now (s : State) (u n : Nat) (w : Write) : (s.land u n w).now = s.now := rfl
@[simp] theorem State.land_skew (s : State) (u n : Nat) (w : Write) : (s.land u n w).skew = s.skew := rfl
@[simp] theorem State.land_free (s : State) (u n : Nat) (w : Write) : (s.land u n w).free = s.free := rfl
@[simp] theorem State.land_todo (s : State) (u n : Nat) (w : Write) : (s.land u n w).todo = s.todo := rfl
@[simp] theorem State.land_agenda (s : State) (u n : Nat) (w : Write) : (s.land u n w).agenda = s.agenda := rfl
@[simp] theorem State.land_inputs (s : State) (u n : Nat) (w : Write) : (s.land u n w).inputs = s.inputs := rfl
@[simp] theorem State.land_ctxs (s : State) (u n : Nat) (w : Write) : (s.land u n w).ctxs = s.ctxs := rfl
@[simp] theorem State.land_cores (s : State) (u n : Nat) (w : Write) : (s.land u n w).cores = s.cores := rfl
@[simp] theorem State.land_place (s : State) (u n : Nat) (w : Write) : (s.land u n w).place = s.place := rfl
@[simp] theorem State.land_errata (s : State) (u n : Nat) (w : Write) : (s.land u n w).errata = s.errata := rfl
@[simp] theorem State.land_muls (s : State) (u n : Nat) (w : Write) : (s.land u n w).muls = s.muls := rfl
@[simp] theorem State.land_drains (s : State) (u n : Nat) (w : Write) : (s.land u n w).drains = s.drains := rfl
@[simp] theorem State.land_bars (s : State) (u n : Nat) (w : Write) : (s.land u n w).bars = s.bars := rfl
@[simp] theorem State.land_lpool (s : State) (u n : Nat) (w : Write) : (s.land u n w).lpool = s.lpool := rfl
@[simp] theorem State.land_latches (s : State) (u n : Nat) (w : Write) : (s.land u n w).latches = s.latches := rfl
@[simp] theorem State.land_mem (s : State) (u n : Nat) (w : Write) : (s.land u n w).mem = s.mem := rfl
@[simp] theorem State.land_badCols (s : State) (u n : Nat) (w : Write) : (s.land u n w).badCols = s.badCols := rfl
@[simp] theorem State.land_softCols (s : State) (u n : Nat) (w : Write) : (s.land u n w).softCols = s.softCols := rfl
@[simp] theorem State.land_eccCount (s : State) (u n : Nat) (w : Write) : (s.land u n w).eccCount = s.eccCount := rfl
@[simp] theorem State.land_pcs (s : State) (u n : Nat) (w : Write) : (s.land u n w).pcs = s.pcs := rfl
@[simp] theorem State.land_windows (s : State) (u n : Nat) (w : Write) : (s.land u n w).windows = s.windows := rfl
@[simp] theorem State.land_jedec (s : State) (u n : Nat) (w : Write) : (s.land u n w).jedec = s.jedec := rfl
@[simp] theorem State.land_timing (s : State) (u n : Nat) (w : Write) : (s.land u n w).timing = s.timing := rfl
@[simp] theorem State.land_refi (s : State) (u n : Nat) (w : Write) : (s.land u n w).refi = s.refi := rfl
@[simp] theorem State.land_refiNext (s : State) (u n : Nat) (w : Write) : (s.land u n w).refiNext = s.refiNext := rfl
@[simp] theorem State.land_wrData (s : State) (u n : Nat) (w : Write) : (s.land u n w).wrData = s.wrData := rfl
@[simp] theorem State.land_late (s : State) (u n : Nat) (w : Write) : (s.land u n w).late = s.late := rfl
@[simp] theorem State.land_links (s : State) (u n : Nat) (w : Write) : (s.land u n w).links = s.links := rfl
@[simp] theorem State.land_routes (s : State) (u n : Nat) (w : Write) : (s.land u n w).routes = s.routes := rfl
@[simp] theorem State.land_loans (s : State) (u n : Nat) (w : Write) : (s.land u n w).loans = s.loans := rfl
@[simp] theorem State.land_remoteReqs (s : State) (u n : Nat) (w : Write) :
    (s.land u n w).remoteReqs = s.remoteReqs := rfl
@[simp] theorem State.land_seqs (s : State) (u n : Nat) (w : Write) : (s.land u n w).seqs = s.seqs := rfl
@[simp] theorem State.land_unrouted (s : State) (u n : Nat) (w : Write) : (s.land u n w).unrouted = s.unrouted := rfl
@[simp] theorem State.land_replies (s : State) (u n : Nat) (w : Write) : (s.land u n w).replies = s.replies := rfl
@[simp] theorem State.land_staged (s : State) (u n : Nat) (w : Write) : (s.land u n w).staged = s.staged := rfl
@[simp] theorem State.land_owners (s : State) (u n : Nat) (w : Write) : (s.land u n w).owners = s.owners := rfl
@[simp] theorem State.land_endTimer (s : State) (u n : Nat) (w : Write) : (s.land u n w).endTimer = s.endTimer := rfl
@[simp] theorem State.land_invals (s : State) (u n : Nat) (w : Write) : (s.land u n w).invals = s.invals := rfl
@[simp] theorem State.land_nextId (s : State) (u n : Nat) (w : Write) : (s.land u n w).nextId = s.nextId := rfl
@[simp] theorem State.land_launches (s : State) (u n : Nat) (w : Write) : (s.land u n w).launches = s.launches := rfl
@[simp] theorem State.land_parts (s : State) (u n : Nat) (w : Write) : (s.land u n w).parts = s.parts := rfl
@[simp] theorem State.land_saved (s : State) (u n : Nat) (w : Write) : (s.land u n w).saved = s.saved := rfl
@[simp] theorem State.land_dies (s : State) (u n : Nat) (w : Write) : (s.land u n w).dies = s.dies := rfl
@[simp] theorem State.land_dieEvents (s : State) (u n : Nat) (w : Write) :
    (s.land u n w).dieEvents = s.dieEvents := rfl
@[simp] theorem State.land_coreWin (s : State) (u n : Nat) (w : Write) : (s.land u n w).coreWin = s.coreWin := rfl
@[simp] theorem State.land_dieWin (s : State) (u n : Nat) (w : Write) : (s.land u n w).dieWin = s.dieWin := rfl
@[simp] theorem State.land_spareFor (s : State) (u n : Nat) (w : Write) : (s.land u n w).spareFor = s.spareFor := rfl
@[simp] theorem State.land_coreStates (s : State) (u n : Nat) (w : Write) :
    (s.land u n w).coreStates = s.coreStates := rfl
@[simp] theorem State.land_flash (s : State) (u n : Nat) (w : Write) : (s.land u n w).flash = s.flash := rfl
@[simp] theorem State.land_flashQueue (s : State) (u n : Nat) (w : Write) :
    (s.land u n w).flashQueue = s.flashQueue := rfl
@[simp] theorem State.land_changes (s : State) (u n : Nat) (w : Write) : (s.land u n w).changes = s.changes := rfl
@[simp] theorem State.land_devState (s : State) (u n : Nat) (w : Write) : (s.land u n w).devState = s.devState := rfl
@[simp] theorem State.land_starting (s : State) (u n : Nat) (w : Write) : (s.land u n w).starting = s.starting := rfl
@[simp] theorem State.land_startNo (s : State) (u n : Nat) (w : Write) : (s.land u n w).startNo = s.startNo := rfl
@[simp] theorem State.land_bootAt (s : State) (u n : Nat) (w : Write) : (s.land u n w).bootAt = s.bootAt := rfl
@[simp] theorem State.land_runSince (s : State) (u n : Nat) (w : Write) : (s.land u n w).runSince = s.runSince := rfl
@[simp] theorem State.land_boxes (s : State) (u n : Nat) (w : Write) : (s.land u n w).boxes = s.boxes := rfl
@[simp] theorem State.land_loanNow (s : State) (u n : Nat) (w : Write) : (s.land u n w).loanNow = s.loanNow := rfl
@[simp] theorem State.land_cmdQueue (s : State) (u n : Nat) (w : Write) : (s.land u n w).cmdQueue = s.cmdQueue := rfl
@[simp] theorem State.land_cmd (s : State) (u n : Nat) (w : Write) : (s.land u n w).cmd = s.cmd := rfl
@[simp] theorem State.land_queues (s : State) (u n : Nat) (w : Write) : (s.land u n w).queues = s.queues := rfl
@[simp] theorem State.land_binds (s : State) (u n : Nat) (w : Write) : (s.land u n w).binds = s.binds := rfl
@[simp] theorem State.land_fnClass (s : State) (u n : Nat) (w : Write) : (s.land u n w).fnClass = s.fnClass := rfl
@[simp] theorem State.land_hostReplies (s : State) (u n : Nat) (w : Write) :
    (s.land u n w).hostReplies = s.hostReplies := rfl
@[simp] theorem State.land_barSizes (s : State) (u n : Nat) (w : Write) : (s.land u n w).barSizes = s.barSizes := rfl
@[simp] theorem State.land_hostAcc (s : State) (u n : Nat) (w : Write) : (s.land u n w).hostAcc = s.hostAcc := rfl
@[simp] theorem State.land_power (s : State) (u n : Nat) (w : Write) : (s.land u n w).power = s.power := rfl
@[simp] theorem State.land_heat (s : State) (u n : Nat) (w : Write) : (s.land u n w).heat = s.heat := rfl
@[simp] theorem State.land_silent (s : State) (u n : Nat) (w : Write) : (s.land u n w).silent = s.silent := rfl
@[simp] theorem State.land_powers (s : State) (u n : Nat) (w : Write) : (s.land u n w).powers = s.powers := rfl
@[simp] theorem State.land_overPower (s : State) (u n : Nat) (w : Write) :
    (s.land u n w).overPower = s.overPower := rfl
@[simp] theorem State.land_temps (s : State) (u n : Nat) (w : Write) : (s.land u n w).temps = s.temps := rfl
@[simp] theorem State.land_hot (s : State) (u n : Nat) (w : Write) : (s.land u n w).hot = s.hot := rfl
@[simp] theorem State.land_hotNamed (s : State) (u n : Nat) (w : Write) : (s.land u n w).hotNamed = s.hotNamed := rfl
@[simp] theorem State.land_reports (s : State) (u n : Nat) (w : Write) : (s.land u n w).reports = s.reports := rfl
@[simp] theorem State.land_stops (s : State) (u n : Nat) (w : Write) : (s.land u n w).stops = s.stops := rfl
@[simp] theorem State.land_linkReports (s : State) (u n : Nat) (w : Write) :
    (s.land u n w).linkReports = s.linkReports := rfl

/-! ### `drawn` -/

@[simp] theorem State.drawn_now (s : State) : s.drawn.now = s.now := rfl
@[simp] theorem State.drawn_skew (s : State) : s.drawn.skew = s.skew := rfl
@[simp] theorem State.drawn_cur (s : State) : s.drawn.cur = s.cur := rfl
@[simp] theorem State.drawn_todo (s : State) : s.drawn.todo = s.todo := rfl
@[simp] theorem State.drawn_agenda (s : State) : s.drawn.agenda = s.agenda := rfl
@[simp] theorem State.drawn_inputs (s : State) : s.drawn.inputs = s.inputs := rfl
@[simp] theorem State.drawn_ctxs (s : State) : s.drawn.ctxs = s.ctxs := rfl
@[simp] theorem State.drawn_cores (s : State) : s.drawn.cores = s.cores := rfl
@[simp] theorem State.drawn_place (s : State) : s.drawn.place = s.place := rfl
@[simp] theorem State.drawn_errata (s : State) : s.drawn.errata = s.errata := rfl
@[simp] theorem State.drawn_muls (s : State) : s.drawn.muls = s.muls := rfl
@[simp] theorem State.drawn_drains (s : State) : s.drawn.drains = s.drains := rfl
@[simp] theorem State.drawn_bars (s : State) : s.drawn.bars = s.bars := rfl
@[simp] theorem State.drawn_lpool (s : State) : s.drawn.lpool = s.lpool := rfl
@[simp] theorem State.drawn_latches (s : State) : s.drawn.latches = s.latches := rfl
@[simp] theorem State.drawn_mem (s : State) : s.drawn.mem = s.mem := rfl
@[simp] theorem State.drawn_badCols (s : State) : s.drawn.badCols = s.badCols := rfl
@[simp] theorem State.drawn_softCols (s : State) : s.drawn.softCols = s.softCols := rfl
@[simp] theorem State.drawn_eccCount (s : State) : s.drawn.eccCount = s.eccCount := rfl
@[simp] theorem State.drawn_pcs (s : State) : s.drawn.pcs = s.pcs := rfl
@[simp] theorem State.drawn_windows (s : State) : s.drawn.windows = s.windows := rfl
@[simp] theorem State.drawn_jedec (s : State) : s.drawn.jedec = s.jedec := rfl
@[simp] theorem State.drawn_timing (s : State) : s.drawn.timing = s.timing := rfl
@[simp] theorem State.drawn_refi (s : State) : s.drawn.refi = s.refi := rfl
@[simp] theorem State.drawn_refiNext (s : State) : s.drawn.refiNext = s.refiNext := rfl
@[simp] theorem State.drawn_wrData (s : State) : s.drawn.wrData = s.wrData := rfl
@[simp] theorem State.drawn_late (s : State) : s.drawn.late = s.late := rfl
@[simp] theorem State.drawn_links (s : State) : s.drawn.links = s.links := rfl
@[simp] theorem State.drawn_routes (s : State) : s.drawn.routes = s.routes := rfl
@[simp] theorem State.drawn_loans (s : State) : s.drawn.loans = s.loans := rfl
@[simp] theorem State.drawn_remoteReqs (s : State) : s.drawn.remoteReqs = s.remoteReqs := rfl
@[simp] theorem State.drawn_seqs (s : State) : s.drawn.seqs = s.seqs := rfl
@[simp] theorem State.drawn_unrouted (s : State) : s.drawn.unrouted = s.unrouted := rfl
@[simp] theorem State.drawn_replies (s : State) : s.drawn.replies = s.replies := rfl
@[simp] theorem State.drawn_staged (s : State) : s.drawn.staged = s.staged := rfl
@[simp] theorem State.drawn_owners (s : State) : s.drawn.owners = s.owners := rfl
@[simp] theorem State.drawn_endTimer (s : State) : s.drawn.endTimer = s.endTimer := rfl
@[simp] theorem State.drawn_invals (s : State) : s.drawn.invals = s.invals := rfl
@[simp] theorem State.drawn_nextId (s : State) : s.drawn.nextId = s.nextId := rfl
@[simp] theorem State.drawn_launches (s : State) : s.drawn.launches = s.launches := rfl
@[simp] theorem State.drawn_parts (s : State) : s.drawn.parts = s.parts := rfl
@[simp] theorem State.drawn_saved (s : State) : s.drawn.saved = s.saved := rfl
@[simp] theorem State.drawn_dies (s : State) : s.drawn.dies = s.dies := rfl
@[simp] theorem State.drawn_dieEvents (s : State) : s.drawn.dieEvents = s.dieEvents := rfl
@[simp] theorem State.drawn_coreWin (s : State) : s.drawn.coreWin = s.coreWin := rfl
@[simp] theorem State.drawn_dieWin (s : State) : s.drawn.dieWin = s.dieWin := rfl
@[simp] theorem State.drawn_spareFor (s : State) : s.drawn.spareFor = s.spareFor := rfl
@[simp] theorem State.drawn_coreStates (s : State) : s.drawn.coreStates = s.coreStates := rfl
@[simp] theorem State.drawn_flash (s : State) : s.drawn.flash = s.flash := rfl
@[simp] theorem State.drawn_flashQueue (s : State) : s.drawn.flashQueue = s.flashQueue := rfl
@[simp] theorem State.drawn_changes (s : State) : s.drawn.changes = s.changes := rfl
@[simp] theorem State.drawn_devState (s : State) : s.drawn.devState = s.devState := rfl
@[simp] theorem State.drawn_starting (s : State) : s.drawn.starting = s.starting := rfl
@[simp] theorem State.drawn_startNo (s : State) : s.drawn.startNo = s.startNo := rfl
@[simp] theorem State.drawn_bootAt (s : State) : s.drawn.bootAt = s.bootAt := rfl
@[simp] theorem State.drawn_runSince (s : State) : s.drawn.runSince = s.runSince := rfl
@[simp] theorem State.drawn_boxes (s : State) : s.drawn.boxes = s.boxes := rfl
@[simp] theorem State.drawn_loanNow (s : State) : s.drawn.loanNow = s.loanNow := rfl
@[simp] theorem State.drawn_cmdQueue (s : State) : s.drawn.cmdQueue = s.cmdQueue := rfl
@[simp] theorem State.drawn_cmd (s : State) : s.drawn.cmd = s.cmd := rfl
@[simp] theorem State.drawn_queues (s : State) : s.drawn.queues = s.queues := rfl
@[simp] theorem State.drawn_binds (s : State) : s.drawn.binds = s.binds := rfl
@[simp] theorem State.drawn_fnClass (s : State) : s.drawn.fnClass = s.fnClass := rfl
@[simp] theorem State.drawn_hostReplies (s : State) : s.drawn.hostReplies = s.hostReplies := rfl
@[simp] theorem State.drawn_barSizes (s : State) : s.drawn.barSizes = s.barSizes := rfl
@[simp] theorem State.drawn_hostAcc (s : State) : s.drawn.hostAcc = s.hostAcc := rfl
@[simp] theorem State.drawn_power (s : State) : s.drawn.power = s.power := rfl
@[simp] theorem State.drawn_heat (s : State) : s.drawn.heat = s.heat := rfl
@[simp] theorem State.drawn_silent (s : State) : s.drawn.silent = s.silent := rfl
@[simp] theorem State.drawn_powers (s : State) : s.drawn.powers = s.powers := rfl
@[simp] theorem State.drawn_overPower (s : State) : s.drawn.overPower = s.overPower := rfl
@[simp] theorem State.drawn_temps (s : State) : s.drawn.temps = s.temps := rfl
@[simp] theorem State.drawn_hot (s : State) : s.drawn.hot = s.hot := rfl
@[simp] theorem State.drawn_hotNamed (s : State) : s.drawn.hotNamed = s.hotNamed := rfl
@[simp] theorem State.drawn_reports (s : State) : s.drawn.reports = s.reports := rfl
@[simp] theorem State.drawn_stops (s : State) : s.drawn.stops = s.stops := rfl
@[simp] theorem State.drawn_linkReports (s : State) : s.drawn.linkReports = s.linkReports := rfl

/-! ### `modPseudo` -/

@[simp] theorem State.modPseudo_now (s : State) (n : Nat) (f : Pseudo → Pseudo) : (s.modPseudo n f).now = s.now := rfl
@[simp] theorem State.modPseudo_skew (s : State) (n : Nat) (f : Pseudo → Pseudo) :
    (s.modPseudo n f).skew = s.skew := rfl
@[simp] theorem State.modPseudo_free (s : State) (n : Nat) (f : Pseudo → Pseudo) :
    (s.modPseudo n f).free = s.free := rfl
@[simp] theorem State.modPseudo_cur (s : State) (n : Nat) (f : Pseudo → Pseudo) : (s.modPseudo n f).cur = s.cur := rfl
@[simp] theorem State.modPseudo_todo (s : State) (n : Nat) (f : Pseudo → Pseudo) :
    (s.modPseudo n f).todo = s.todo := rfl
@[simp] theorem State.modPseudo_agenda (s : State) (n : Nat) (f : Pseudo → Pseudo) :
    (s.modPseudo n f).agenda = s.agenda := rfl
@[simp] theorem State.modPseudo_inputs (s : State) (n : Nat) (f : Pseudo → Pseudo) :
    (s.modPseudo n f).inputs = s.inputs := rfl
@[simp] theorem State.modPseudo_ctxs (s : State) (n : Nat) (f : Pseudo → Pseudo) :
    (s.modPseudo n f).ctxs = s.ctxs := rfl
@[simp] theorem State.modPseudo_cores (s : State) (n : Nat) (f : Pseudo → Pseudo) :
    (s.modPseudo n f).cores = s.cores := rfl
@[simp] theorem State.modPseudo_place (s : State) (n : Nat) (f : Pseudo → Pseudo) :
    (s.modPseudo n f).place = s.place := rfl
@[simp] theorem State.modPseudo_errata (s : State) (n : Nat) (f : Pseudo → Pseudo) :
    (s.modPseudo n f).errata = s.errata := rfl
@[simp] theorem State.modPseudo_muls (s : State) (n : Nat) (f : Pseudo → Pseudo) :
    (s.modPseudo n f).muls = s.muls := rfl
@[simp] theorem State.modPseudo_drains (s : State) (n : Nat) (f : Pseudo → Pseudo) :
    (s.modPseudo n f).drains = s.drains := rfl
@[simp] theorem State.modPseudo_bars (s : State) (n : Nat) (f : Pseudo → Pseudo) :
    (s.modPseudo n f).bars = s.bars := rfl
@[simp] theorem State.modPseudo_lpool (s : State) (n : Nat) (f : Pseudo → Pseudo) :
    (s.modPseudo n f).lpool = s.lpool := rfl
@[simp] theorem State.modPseudo_latches (s : State) (n : Nat) (f : Pseudo → Pseudo) :
    (s.modPseudo n f).latches = s.latches := rfl
@[simp] theorem State.modPseudo_mem (s : State) (n : Nat) (f : Pseudo → Pseudo) : (s.modPseudo n f).mem = s.mem := rfl
@[simp] theorem State.modPseudo_badCols (s : State) (n : Nat) (f : Pseudo → Pseudo) :
    (s.modPseudo n f).badCols = s.badCols := rfl
@[simp] theorem State.modPseudo_softCols (s : State) (n : Nat) (f : Pseudo → Pseudo) :
    (s.modPseudo n f).softCols = s.softCols := rfl
@[simp] theorem State.modPseudo_eccCount (s : State) (n : Nat) (f : Pseudo → Pseudo) :
    (s.modPseudo n f).eccCount = s.eccCount := rfl
@[simp] theorem State.modPseudo_windows (s : State) (n : Nat) (f : Pseudo → Pseudo) :
    (s.modPseudo n f).windows = s.windows := rfl
@[simp] theorem State.modPseudo_jedec (s : State) (n : Nat) (f : Pseudo → Pseudo) :
    (s.modPseudo n f).jedec = s.jedec := rfl
@[simp] theorem State.modPseudo_timing (s : State) (n : Nat) (f : Pseudo → Pseudo) :
    (s.modPseudo n f).timing = s.timing := rfl
@[simp] theorem State.modPseudo_refi (s : State) (n : Nat) (f : Pseudo → Pseudo) :
    (s.modPseudo n f).refi = s.refi := rfl
@[simp] theorem State.modPseudo_refiNext (s : State) (n : Nat) (f : Pseudo → Pseudo) :
    (s.modPseudo n f).refiNext = s.refiNext := rfl
@[simp] theorem State.modPseudo_wrData (s : State) (n : Nat) (f : Pseudo → Pseudo) :
    (s.modPseudo n f).wrData = s.wrData := rfl
@[simp] theorem State.modPseudo_late (s : State) (n : Nat) (f : Pseudo → Pseudo) :
    (s.modPseudo n f).late = s.late := rfl
@[simp] theorem State.modPseudo_links (s : State) (n : Nat) (f : Pseudo → Pseudo) :
    (s.modPseudo n f).links = s.links := rfl
@[simp] theorem State.modPseudo_routes (s : State) (n : Nat) (f : Pseudo → Pseudo) :
    (s.modPseudo n f).routes = s.routes := rfl
@[simp] theorem State.modPseudo_loans (s : State) (n : Nat) (f : Pseudo → Pseudo) :
    (s.modPseudo n f).loans = s.loans := rfl
@[simp] theorem State.modPseudo_remoteReqs (s : State) (n : Nat) (f : Pseudo → Pseudo) :
    (s.modPseudo n f).remoteReqs = s.remoteReqs := rfl
@[simp] theorem State.modPseudo_seqs (s : State) (n : Nat) (f : Pseudo → Pseudo) :
    (s.modPseudo n f).seqs = s.seqs := rfl
@[simp] theorem State.modPseudo_unrouted (s : State) (n : Nat) (f : Pseudo → Pseudo) :
    (s.modPseudo n f).unrouted = s.unrouted := rfl
@[simp] theorem State.modPseudo_replies (s : State) (n : Nat) (f : Pseudo → Pseudo) :
    (s.modPseudo n f).replies = s.replies := rfl
@[simp] theorem State.modPseudo_staged (s : State) (n : Nat) (f : Pseudo → Pseudo) :
    (s.modPseudo n f).staged = s.staged := rfl
@[simp] theorem State.modPseudo_owners (s : State) (n : Nat) (f : Pseudo → Pseudo) :
    (s.modPseudo n f).owners = s.owners := rfl
@[simp] theorem State.modPseudo_endTimer (s : State) (n : Nat) (f : Pseudo → Pseudo) :
    (s.modPseudo n f).endTimer = s.endTimer := rfl
@[simp] theorem State.modPseudo_invals (s : State) (n : Nat) (f : Pseudo → Pseudo) :
    (s.modPseudo n f).invals = s.invals := rfl
@[simp] theorem State.modPseudo_nextId (s : State) (n : Nat) (f : Pseudo → Pseudo) :
    (s.modPseudo n f).nextId = s.nextId := rfl
@[simp] theorem State.modPseudo_launches (s : State) (n : Nat) (f : Pseudo → Pseudo) :
    (s.modPseudo n f).launches = s.launches := rfl
@[simp] theorem State.modPseudo_parts (s : State) (n : Nat) (f : Pseudo → Pseudo) :
    (s.modPseudo n f).parts = s.parts := rfl
@[simp] theorem State.modPseudo_saved (s : State) (n : Nat) (f : Pseudo → Pseudo) :
    (s.modPseudo n f).saved = s.saved := rfl
@[simp] theorem State.modPseudo_dies (s : State) (n : Nat) (f : Pseudo → Pseudo) :
    (s.modPseudo n f).dies = s.dies := rfl
@[simp] theorem State.modPseudo_dieEvents (s : State) (n : Nat) (f : Pseudo → Pseudo) :
    (s.modPseudo n f).dieEvents = s.dieEvents := rfl
@[simp] theorem State.modPseudo_coreWin (s : State) (n : Nat) (f : Pseudo → Pseudo) :
    (s.modPseudo n f).coreWin = s.coreWin := rfl
@[simp] theorem State.modPseudo_dieWin (s : State) (n : Nat) (f : Pseudo → Pseudo) :
    (s.modPseudo n f).dieWin = s.dieWin := rfl
@[simp] theorem State.modPseudo_spareFor (s : State) (n : Nat) (f : Pseudo → Pseudo) :
    (s.modPseudo n f).spareFor = s.spareFor := rfl
@[simp] theorem State.modPseudo_coreStates (s : State) (n : Nat) (f : Pseudo → Pseudo) :
    (s.modPseudo n f).coreStates = s.coreStates := rfl
@[simp] theorem State.modPseudo_flash (s : State) (n : Nat) (f : Pseudo → Pseudo) :
    (s.modPseudo n f).flash = s.flash := rfl
@[simp] theorem State.modPseudo_flashQueue (s : State) (n : Nat) (f : Pseudo → Pseudo) :
    (s.modPseudo n f).flashQueue = s.flashQueue := rfl
@[simp] theorem State.modPseudo_changes (s : State) (n : Nat) (f : Pseudo → Pseudo) :
    (s.modPseudo n f).changes = s.changes := rfl
@[simp] theorem State.modPseudo_devState (s : State) (n : Nat) (f : Pseudo → Pseudo) :
    (s.modPseudo n f).devState = s.devState := rfl
@[simp] theorem State.modPseudo_starting (s : State) (n : Nat) (f : Pseudo → Pseudo) :
    (s.modPseudo n f).starting = s.starting := rfl
@[simp] theorem State.modPseudo_startNo (s : State) (n : Nat) (f : Pseudo → Pseudo) :
    (s.modPseudo n f).startNo = s.startNo := rfl
@[simp] theorem State.modPseudo_bootAt (s : State) (n : Nat) (f : Pseudo → Pseudo) :
    (s.modPseudo n f).bootAt = s.bootAt := rfl
@[simp] theorem State.modPseudo_runSince (s : State) (n : Nat) (f : Pseudo → Pseudo) :
    (s.modPseudo n f).runSince = s.runSince := rfl
@[simp] theorem State.modPseudo_boxes (s : State) (n : Nat) (f : Pseudo → Pseudo) :
    (s.modPseudo n f).boxes = s.boxes := rfl
@[simp] theorem State.modPseudo_loanNow (s : State) (n : Nat) (f : Pseudo → Pseudo) :
    (s.modPseudo n f).loanNow = s.loanNow := rfl
@[simp] theorem State.modPseudo_cmdQueue (s : State) (n : Nat) (f : Pseudo → Pseudo) :
    (s.modPseudo n f).cmdQueue = s.cmdQueue := rfl
@[simp] theorem State.modPseudo_cmd (s : State) (n : Nat) (f : Pseudo → Pseudo) : (s.modPseudo n f).cmd = s.cmd := rfl
@[simp] theorem State.modPseudo_queues (s : State) (n : Nat) (f : Pseudo → Pseudo) :
    (s.modPseudo n f).queues = s.queues := rfl
@[simp] theorem State.modPseudo_binds (s : State) (n : Nat) (f : Pseudo → Pseudo) :
    (s.modPseudo n f).binds = s.binds := rfl
@[simp] theorem State.modPseudo_fnClass (s : State) (n : Nat) (f : Pseudo → Pseudo) :
    (s.modPseudo n f).fnClass = s.fnClass := rfl
@[simp] theorem State.modPseudo_hostReplies (s : State) (n : Nat) (f : Pseudo → Pseudo) :
    (s.modPseudo n f).hostReplies = s.hostReplies := rfl
@[simp] theorem State.modPseudo_barSizes (s : State) (n : Nat) (f : Pseudo → Pseudo) :
    (s.modPseudo n f).barSizes = s.barSizes := rfl
@[simp] theorem State.modPseudo_hostAcc (s : State) (n : Nat) (f : Pseudo → Pseudo) :
    (s.modPseudo n f).hostAcc = s.hostAcc := rfl
@[simp] theorem State.modPseudo_power (s : State) (n : Nat) (f : Pseudo → Pseudo) :
    (s.modPseudo n f).power = s.power := rfl
@[simp] theorem State.modPseudo_heat (s : State) (n : Nat) (f : Pseudo → Pseudo) :
    (s.modPseudo n f).heat = s.heat := rfl
@[simp] theorem State.modPseudo_silent (s : State) (n : Nat) (f : Pseudo → Pseudo) :
    (s.modPseudo n f).silent = s.silent := rfl
@[simp] theorem State.modPseudo_powers (s : State) (n : Nat) (f : Pseudo → Pseudo) :
    (s.modPseudo n f).powers = s.powers := rfl
@[simp] theorem State.modPseudo_overPower (s : State) (n : Nat) (f : Pseudo → Pseudo) :
    (s.modPseudo n f).overPower = s.overPower := rfl
@[simp] theorem State.modPseudo_temps (s : State) (n : Nat) (f : Pseudo → Pseudo) :
    (s.modPseudo n f).temps = s.temps := rfl
@[simp] theorem State.modPseudo_hot (s : State) (n : Nat) (f : Pseudo → Pseudo) : (s.modPseudo n f).hot = s.hot := rfl
@[simp] theorem State.modPseudo_hotNamed (s : State) (n : Nat) (f : Pseudo → Pseudo) :
    (s.modPseudo n f).hotNamed = s.hotNamed := rfl
@[simp] theorem State.modPseudo_reports (s : State) (n : Nat) (f : Pseudo → Pseudo) :
    (s.modPseudo n f).reports = s.reports := rfl
@[simp] theorem State.modPseudo_stops (s : State) (n : Nat) (f : Pseudo → Pseudo) :
    (s.modPseudo n f).stops = s.stops := rfl
@[simp] theorem State.modPseudo_linkReports (s : State) (n : Nat) (f : Pseudo → Pseudo) :
    (s.modPseudo n f).linkReports = s.linkReports := rfl

/-! ### `modLink` -/

@[simp] theorem State.modLink_now (s : State) (n : Nat) (f : Link → Link) : (s.modLink n f).now = s.now := rfl
@[simp] theorem State.modLink_skew (s : State) (n : Nat) (f : Link → Link) : (s.modLink n f).skew = s.skew := rfl
@[simp] theorem State.modLink_free (s : State) (n : Nat) (f : Link → Link) : (s.modLink n f).free = s.free := rfl
@[simp] theorem State.modLink_cur (s : State) (n : Nat) (f : Link → Link) : (s.modLink n f).cur = s.cur := rfl
@[simp] theorem State.modLink_todo (s : State) (n : Nat) (f : Link → Link) : (s.modLink n f).todo = s.todo := rfl
@[simp] theorem State.modLink_agenda (s : State) (n : Nat) (f : Link → Link) :
    (s.modLink n f).agenda = s.agenda := rfl
@[simp] theorem State.modLink_inputs (s : State) (n : Nat) (f : Link → Link) :
    (s.modLink n f).inputs = s.inputs := rfl
@[simp] theorem State.modLink_ctxs (s : State) (n : Nat) (f : Link → Link) : (s.modLink n f).ctxs = s.ctxs := rfl
@[simp] theorem State.modLink_cores (s : State) (n : Nat) (f : Link → Link) : (s.modLink n f).cores = s.cores := rfl
@[simp] theorem State.modLink_place (s : State) (n : Nat) (f : Link → Link) : (s.modLink n f).place = s.place := rfl
@[simp] theorem State.modLink_errata (s : State) (n : Nat) (f : Link → Link) :
    (s.modLink n f).errata = s.errata := rfl
@[simp] theorem State.modLink_muls (s : State) (n : Nat) (f : Link → Link) : (s.modLink n f).muls = s.muls := rfl
@[simp] theorem State.modLink_drains (s : State) (n : Nat) (f : Link → Link) :
    (s.modLink n f).drains = s.drains := rfl
@[simp] theorem State.modLink_bars (s : State) (n : Nat) (f : Link → Link) : (s.modLink n f).bars = s.bars := rfl
@[simp] theorem State.modLink_lpool (s : State) (n : Nat) (f : Link → Link) : (s.modLink n f).lpool = s.lpool := rfl
@[simp] theorem State.modLink_latches (s : State) (n : Nat) (f : Link → Link) :
    (s.modLink n f).latches = s.latches := rfl
@[simp] theorem State.modLink_mem (s : State) (n : Nat) (f : Link → Link) : (s.modLink n f).mem = s.mem := rfl
@[simp] theorem State.modLink_badCols (s : State) (n : Nat) (f : Link → Link) :
    (s.modLink n f).badCols = s.badCols := rfl
@[simp] theorem State.modLink_softCols (s : State) (n : Nat) (f : Link → Link) :
    (s.modLink n f).softCols = s.softCols := rfl
@[simp] theorem State.modLink_eccCount (s : State) (n : Nat) (f : Link → Link) :
    (s.modLink n f).eccCount = s.eccCount := rfl
@[simp] theorem State.modLink_pcs (s : State) (n : Nat) (f : Link → Link) : (s.modLink n f).pcs = s.pcs := rfl
@[simp] theorem State.modLink_windows (s : State) (n : Nat) (f : Link → Link) :
    (s.modLink n f).windows = s.windows := rfl
@[simp] theorem State.modLink_jedec (s : State) (n : Nat) (f : Link → Link) :
    (s.modLink n f).jedec = s.jedec := rfl
@[simp] theorem State.modLink_timing (s : State) (n : Nat) (f : Link → Link) :
    (s.modLink n f).timing = s.timing := rfl
@[simp] theorem State.modLink_refi (s : State) (n : Nat) (f : Link → Link) : (s.modLink n f).refi = s.refi := rfl
@[simp] theorem State.modLink_refiNext (s : State) (n : Nat) (f : Link → Link) :
    (s.modLink n f).refiNext = s.refiNext := rfl
@[simp] theorem State.modLink_wrData (s : State) (n : Nat) (f : Link → Link) :
    (s.modLink n f).wrData = s.wrData := rfl
@[simp] theorem State.modLink_late (s : State) (n : Nat) (f : Link → Link) :
    (s.modLink n f).late = s.late := rfl
@[simp] theorem State.modLink_routes (s : State) (n : Nat) (f : Link → Link) :
    (s.modLink n f).routes = s.routes := rfl
@[simp] theorem State.modLink_loans (s : State) (n : Nat) (f : Link → Link) : (s.modLink n f).loans = s.loans := rfl
@[simp] theorem State.modLink_remoteReqs (s : State) (n : Nat) (f : Link → Link) :
    (s.modLink n f).remoteReqs = s.remoteReqs := rfl
@[simp] theorem State.modLink_seqs (s : State) (n : Nat) (f : Link → Link) : (s.modLink n f).seqs = s.seqs := rfl
@[simp] theorem State.modLink_unrouted (s : State) (n : Nat) (f : Link → Link) :
    (s.modLink n f).unrouted = s.unrouted := rfl
@[simp] theorem State.modLink_replies (s : State) (n : Nat) (f : Link → Link) :
    (s.modLink n f).replies = s.replies := rfl
@[simp] theorem State.modLink_staged (s : State) (n : Nat) (f : Link → Link) :
    (s.modLink n f).staged = s.staged := rfl
@[simp] theorem State.modLink_owners (s : State) (n : Nat) (f : Link → Link) :
    (s.modLink n f).owners = s.owners := rfl
@[simp] theorem State.modLink_endTimer (s : State) (n : Nat) (f : Link → Link) :
    (s.modLink n f).endTimer = s.endTimer := rfl
@[simp] theorem State.modLink_invals (s : State) (n : Nat) (f : Link → Link) :
    (s.modLink n f).invals = s.invals := rfl
@[simp] theorem State.modLink_nextId (s : State) (n : Nat) (f : Link → Link) :
    (s.modLink n f).nextId = s.nextId := rfl
@[simp] theorem State.modLink_launches (s : State) (n : Nat) (f : Link → Link) :
    (s.modLink n f).launches = s.launches := rfl
@[simp] theorem State.modLink_parts (s : State) (n : Nat) (f : Link → Link) : (s.modLink n f).parts = s.parts := rfl
@[simp] theorem State.modLink_saved (s : State) (n : Nat) (f : Link → Link) : (s.modLink n f).saved = s.saved := rfl
@[simp] theorem State.modLink_dies (s : State) (n : Nat) (f : Link → Link) : (s.modLink n f).dies = s.dies := rfl
@[simp] theorem State.modLink_dieEvents (s : State) (n : Nat) (f : Link → Link) :
    (s.modLink n f).dieEvents = s.dieEvents := rfl
@[simp] theorem State.modLink_coreWin (s : State) (n : Nat) (f : Link → Link) :
    (s.modLink n f).coreWin = s.coreWin := rfl
@[simp] theorem State.modLink_dieWin (s : State) (n : Nat) (f : Link → Link) :
    (s.modLink n f).dieWin = s.dieWin := rfl
@[simp] theorem State.modLink_spareFor (s : State) (n : Nat) (f : Link → Link) :
    (s.modLink n f).spareFor = s.spareFor := rfl
@[simp] theorem State.modLink_coreStates (s : State) (n : Nat) (f : Link → Link) :
    (s.modLink n f).coreStates = s.coreStates := rfl
@[simp] theorem State.modLink_flash (s : State) (n : Nat) (f : Link → Link) : (s.modLink n f).flash = s.flash := rfl
@[simp] theorem State.modLink_flashQueue (s : State) (n : Nat) (f : Link → Link) :
    (s.modLink n f).flashQueue = s.flashQueue := rfl
@[simp] theorem State.modLink_changes (s : State) (n : Nat) (f : Link → Link) :
    (s.modLink n f).changes = s.changes := rfl
@[simp] theorem State.modLink_devState (s : State) (n : Nat) (f : Link → Link) :
    (s.modLink n f).devState = s.devState := rfl
@[simp] theorem State.modLink_starting (s : State) (n : Nat) (f : Link → Link) :
    (s.modLink n f).starting = s.starting := rfl
@[simp] theorem State.modLink_startNo (s : State) (n : Nat) (f : Link → Link) :
    (s.modLink n f).startNo = s.startNo := rfl
@[simp] theorem State.modLink_bootAt (s : State) (n : Nat) (f : Link → Link) :
    (s.modLink n f).bootAt = s.bootAt := rfl
@[simp] theorem State.modLink_runSince (s : State) (n : Nat) (f : Link → Link) :
    (s.modLink n f).runSince = s.runSince := rfl
@[simp] theorem State.modLink_boxes (s : State) (n : Nat) (f : Link → Link) : (s.modLink n f).boxes = s.boxes := rfl
@[simp] theorem State.modLink_loanNow (s : State) (n : Nat) (f : Link → Link) :
    (s.modLink n f).loanNow = s.loanNow := rfl
@[simp] theorem State.modLink_cmdQueue (s : State) (n : Nat) (f : Link → Link) :
    (s.modLink n f).cmdQueue = s.cmdQueue := rfl
@[simp] theorem State.modLink_cmd (s : State) (n : Nat) (f : Link → Link) : (s.modLink n f).cmd = s.cmd := rfl
@[simp] theorem State.modLink_queues (s : State) (n : Nat) (f : Link → Link) :
    (s.modLink n f).queues = s.queues := rfl
@[simp] theorem State.modLink_binds (s : State) (n : Nat) (f : Link → Link) : (s.modLink n f).binds = s.binds := rfl
@[simp] theorem State.modLink_fnClass (s : State) (n : Nat) (f : Link → Link) :
    (s.modLink n f).fnClass = s.fnClass := rfl
@[simp] theorem State.modLink_hostReplies (s : State) (n : Nat) (f : Link → Link) :
    (s.modLink n f).hostReplies = s.hostReplies := rfl
@[simp] theorem State.modLink_barSizes (s : State) (n : Nat) (f : Link → Link) :
    (s.modLink n f).barSizes = s.barSizes := rfl
@[simp] theorem State.modLink_hostAcc (s : State) (n : Nat) (f : Link → Link) :
    (s.modLink n f).hostAcc = s.hostAcc := rfl
@[simp] theorem State.modLink_power (s : State) (n : Nat) (f : Link → Link) :
    (s.modLink n f).power = s.power := rfl
@[simp] theorem State.modLink_heat (s : State) (n : Nat) (f : Link → Link) :
    (s.modLink n f).heat = s.heat := rfl
@[simp] theorem State.modLink_silent (s : State) (n : Nat) (f : Link → Link) :
    (s.modLink n f).silent = s.silent := rfl
@[simp] theorem State.modLink_powers (s : State) (n : Nat) (f : Link → Link) :
    (s.modLink n f).powers = s.powers := rfl
@[simp] theorem State.modLink_overPower (s : State) (n : Nat) (f : Link → Link) :
    (s.modLink n f).overPower = s.overPower := rfl
@[simp] theorem State.modLink_temps (s : State) (n : Nat) (f : Link → Link) : (s.modLink n f).temps = s.temps := rfl
@[simp] theorem State.modLink_hot (s : State) (n : Nat) (f : Link → Link) : (s.modLink n f).hot = s.hot := rfl
@[simp] theorem State.modLink_hotNamed (s : State) (n : Nat) (f : Link → Link) :
    (s.modLink n f).hotNamed = s.hotNamed := rfl
@[simp] theorem State.modLink_reports (s : State) (n : Nat) (f : Link → Link) :
    (s.modLink n f).reports = s.reports := rfl
@[simp] theorem State.modLink_stops (s : State) (n : Nat) (f : Link → Link) : (s.modLink n f).stops = s.stops := rfl
@[simp] theorem State.modLink_linkReports (s : State) (n : Nat) (f : Link → Link) :
    (s.modLink n f).linkReports = s.linkReports := rfl

/-! ### `modLoan` -/

@[simp] theorem State.modLoan_now (s : State) (n : Nat) (f : Loan → Loan) : (s.modLoan n f).now = s.now := rfl
@[simp] theorem State.modLoan_skew (s : State) (n : Nat) (f : Loan → Loan) : (s.modLoan n f).skew = s.skew := rfl
@[simp] theorem State.modLoan_free (s : State) (n : Nat) (f : Loan → Loan) : (s.modLoan n f).free = s.free := rfl
@[simp] theorem State.modLoan_cur (s : State) (n : Nat) (f : Loan → Loan) : (s.modLoan n f).cur = s.cur := rfl
@[simp] theorem State.modLoan_todo (s : State) (n : Nat) (f : Loan → Loan) : (s.modLoan n f).todo = s.todo := rfl
@[simp] theorem State.modLoan_agenda (s : State) (n : Nat) (f : Loan → Loan) :
    (s.modLoan n f).agenda = s.agenda := rfl
@[simp] theorem State.modLoan_inputs (s : State) (n : Nat) (f : Loan → Loan) :
    (s.modLoan n f).inputs = s.inputs := rfl
@[simp] theorem State.modLoan_ctxs (s : State) (n : Nat) (f : Loan → Loan) : (s.modLoan n f).ctxs = s.ctxs := rfl
@[simp] theorem State.modLoan_cores (s : State) (n : Nat) (f : Loan → Loan) : (s.modLoan n f).cores = s.cores := rfl
@[simp] theorem State.modLoan_place (s : State) (n : Nat) (f : Loan → Loan) : (s.modLoan n f).place = s.place := rfl
@[simp] theorem State.modLoan_errata (s : State) (n : Nat) (f : Loan → Loan) :
    (s.modLoan n f).errata = s.errata := rfl
@[simp] theorem State.modLoan_muls (s : State) (n : Nat) (f : Loan → Loan) : (s.modLoan n f).muls = s.muls := rfl
@[simp] theorem State.modLoan_drains (s : State) (n : Nat) (f : Loan → Loan) :
    (s.modLoan n f).drains = s.drains := rfl
@[simp] theorem State.modLoan_bars (s : State) (n : Nat) (f : Loan → Loan) : (s.modLoan n f).bars = s.bars := rfl
@[simp] theorem State.modLoan_lpool (s : State) (n : Nat) (f : Loan → Loan) : (s.modLoan n f).lpool = s.lpool := rfl
@[simp] theorem State.modLoan_latches (s : State) (n : Nat) (f : Loan → Loan) :
    (s.modLoan n f).latches = s.latches := rfl
@[simp] theorem State.modLoan_mem (s : State) (n : Nat) (f : Loan → Loan) : (s.modLoan n f).mem = s.mem := rfl
@[simp] theorem State.modLoan_badCols (s : State) (n : Nat) (f : Loan → Loan) :
    (s.modLoan n f).badCols = s.badCols := rfl
@[simp] theorem State.modLoan_softCols (s : State) (n : Nat) (f : Loan → Loan) :
    (s.modLoan n f).softCols = s.softCols := rfl
@[simp] theorem State.modLoan_eccCount (s : State) (n : Nat) (f : Loan → Loan) :
    (s.modLoan n f).eccCount = s.eccCount := rfl
@[simp] theorem State.modLoan_pcs (s : State) (n : Nat) (f : Loan → Loan) : (s.modLoan n f).pcs = s.pcs := rfl
@[simp] theorem State.modLoan_windows (s : State) (n : Nat) (f : Loan → Loan) :
    (s.modLoan n f).windows = s.windows := rfl
@[simp] theorem State.modLoan_jedec (s : State) (n : Nat) (f : Loan → Loan) :
    (s.modLoan n f).jedec = s.jedec := rfl
@[simp] theorem State.modLoan_timing (s : State) (n : Nat) (f : Loan → Loan) :
    (s.modLoan n f).timing = s.timing := rfl
@[simp] theorem State.modLoan_refi (s : State) (n : Nat) (f : Loan → Loan) : (s.modLoan n f).refi = s.refi := rfl
@[simp] theorem State.modLoan_refiNext (s : State) (n : Nat) (f : Loan → Loan) :
    (s.modLoan n f).refiNext = s.refiNext := rfl
@[simp] theorem State.modLoan_wrData (s : State) (n : Nat) (f : Loan → Loan) :
    (s.modLoan n f).wrData = s.wrData := rfl
@[simp] theorem State.modLoan_late (s : State) (n : Nat) (f : Loan → Loan) :
    (s.modLoan n f).late = s.late := rfl
@[simp] theorem State.modLoan_links (s : State) (n : Nat) (f : Loan → Loan) : (s.modLoan n f).links = s.links := rfl
@[simp] theorem State.modLoan_routes (s : State) (n : Nat) (f : Loan → Loan) :
    (s.modLoan n f).routes = s.routes := rfl
@[simp] theorem State.modLoan_remoteReqs (s : State) (n : Nat) (f : Loan → Loan) :
    (s.modLoan n f).remoteReqs = s.remoteReqs := rfl
@[simp] theorem State.modLoan_seqs (s : State) (n : Nat) (f : Loan → Loan) : (s.modLoan n f).seqs = s.seqs := rfl
@[simp] theorem State.modLoan_unrouted (s : State) (n : Nat) (f : Loan → Loan) :
    (s.modLoan n f).unrouted = s.unrouted := rfl
@[simp] theorem State.modLoan_replies (s : State) (n : Nat) (f : Loan → Loan) :
    (s.modLoan n f).replies = s.replies := rfl
@[simp] theorem State.modLoan_staged (s : State) (n : Nat) (f : Loan → Loan) :
    (s.modLoan n f).staged = s.staged := rfl
@[simp] theorem State.modLoan_owners (s : State) (n : Nat) (f : Loan → Loan) :
    (s.modLoan n f).owners = s.owners := rfl
@[simp] theorem State.modLoan_endTimer (s : State) (n : Nat) (f : Loan → Loan) :
    (s.modLoan n f).endTimer = s.endTimer := rfl
@[simp] theorem State.modLoan_invals (s : State) (n : Nat) (f : Loan → Loan) :
    (s.modLoan n f).invals = s.invals := rfl
@[simp] theorem State.modLoan_nextId (s : State) (n : Nat) (f : Loan → Loan) :
    (s.modLoan n f).nextId = s.nextId := rfl
@[simp] theorem State.modLoan_launches (s : State) (n : Nat) (f : Loan → Loan) :
    (s.modLoan n f).launches = s.launches := rfl
@[simp] theorem State.modLoan_parts (s : State) (n : Nat) (f : Loan → Loan) : (s.modLoan n f).parts = s.parts := rfl
@[simp] theorem State.modLoan_saved (s : State) (n : Nat) (f : Loan → Loan) : (s.modLoan n f).saved = s.saved := rfl
@[simp] theorem State.modLoan_dies (s : State) (n : Nat) (f : Loan → Loan) : (s.modLoan n f).dies = s.dies := rfl
@[simp] theorem State.modLoan_dieEvents (s : State) (n : Nat) (f : Loan → Loan) :
    (s.modLoan n f).dieEvents = s.dieEvents := rfl
@[simp] theorem State.modLoan_coreWin (s : State) (n : Nat) (f : Loan → Loan) :
    (s.modLoan n f).coreWin = s.coreWin := rfl
@[simp] theorem State.modLoan_dieWin (s : State) (n : Nat) (f : Loan → Loan) :
    (s.modLoan n f).dieWin = s.dieWin := rfl
@[simp] theorem State.modLoan_spareFor (s : State) (n : Nat) (f : Loan → Loan) :
    (s.modLoan n f).spareFor = s.spareFor := rfl
@[simp] theorem State.modLoan_coreStates (s : State) (n : Nat) (f : Loan → Loan) :
    (s.modLoan n f).coreStates = s.coreStates := rfl
@[simp] theorem State.modLoan_flash (s : State) (n : Nat) (f : Loan → Loan) : (s.modLoan n f).flash = s.flash := rfl
@[simp] theorem State.modLoan_flashQueue (s : State) (n : Nat) (f : Loan → Loan) :
    (s.modLoan n f).flashQueue = s.flashQueue := rfl
@[simp] theorem State.modLoan_changes (s : State) (n : Nat) (f : Loan → Loan) :
    (s.modLoan n f).changes = s.changes := rfl
@[simp] theorem State.modLoan_devState (s : State) (n : Nat) (f : Loan → Loan) :
    (s.modLoan n f).devState = s.devState := rfl
@[simp] theorem State.modLoan_starting (s : State) (n : Nat) (f : Loan → Loan) :
    (s.modLoan n f).starting = s.starting := rfl
@[simp] theorem State.modLoan_startNo (s : State) (n : Nat) (f : Loan → Loan) :
    (s.modLoan n f).startNo = s.startNo := rfl
@[simp] theorem State.modLoan_bootAt (s : State) (n : Nat) (f : Loan → Loan) :
    (s.modLoan n f).bootAt = s.bootAt := rfl
@[simp] theorem State.modLoan_runSince (s : State) (n : Nat) (f : Loan → Loan) :
    (s.modLoan n f).runSince = s.runSince := rfl
@[simp] theorem State.modLoan_boxes (s : State) (n : Nat) (f : Loan → Loan) : (s.modLoan n f).boxes = s.boxes := rfl
@[simp] theorem State.modLoan_loanNow (s : State) (n : Nat) (f : Loan → Loan) :
    (s.modLoan n f).loanNow = s.loanNow := rfl
@[simp] theorem State.modLoan_cmdQueue (s : State) (n : Nat) (f : Loan → Loan) :
    (s.modLoan n f).cmdQueue = s.cmdQueue := rfl
@[simp] theorem State.modLoan_cmd (s : State) (n : Nat) (f : Loan → Loan) : (s.modLoan n f).cmd = s.cmd := rfl
@[simp] theorem State.modLoan_queues (s : State) (n : Nat) (f : Loan → Loan) :
    (s.modLoan n f).queues = s.queues := rfl
@[simp] theorem State.modLoan_binds (s : State) (n : Nat) (f : Loan → Loan) : (s.modLoan n f).binds = s.binds := rfl
@[simp] theorem State.modLoan_fnClass (s : State) (n : Nat) (f : Loan → Loan) :
    (s.modLoan n f).fnClass = s.fnClass := rfl
@[simp] theorem State.modLoan_hostReplies (s : State) (n : Nat) (f : Loan → Loan) :
    (s.modLoan n f).hostReplies = s.hostReplies := rfl
@[simp] theorem State.modLoan_barSizes (s : State) (n : Nat) (f : Loan → Loan) :
    (s.modLoan n f).barSizes = s.barSizes := rfl
@[simp] theorem State.modLoan_hostAcc (s : State) (n : Nat) (f : Loan → Loan) :
    (s.modLoan n f).hostAcc = s.hostAcc := rfl
@[simp] theorem State.modLoan_power (s : State) (n : Nat) (f : Loan → Loan) :
    (s.modLoan n f).power = s.power := rfl
@[simp] theorem State.modLoan_heat (s : State) (n : Nat) (f : Loan → Loan) :
    (s.modLoan n f).heat = s.heat := rfl
@[simp] theorem State.modLoan_silent (s : State) (n : Nat) (f : Loan → Loan) :
    (s.modLoan n f).silent = s.silent := rfl
@[simp] theorem State.modLoan_powers (s : State) (n : Nat) (f : Loan → Loan) :
    (s.modLoan n f).powers = s.powers := rfl
@[simp] theorem State.modLoan_overPower (s : State) (n : Nat) (f : Loan → Loan) :
    (s.modLoan n f).overPower = s.overPower := rfl
@[simp] theorem State.modLoan_temps (s : State) (n : Nat) (f : Loan → Loan) : (s.modLoan n f).temps = s.temps := rfl
@[simp] theorem State.modLoan_hot (s : State) (n : Nat) (f : Loan → Loan) : (s.modLoan n f).hot = s.hot := rfl
@[simp] theorem State.modLoan_hotNamed (s : State) (n : Nat) (f : Loan → Loan) :
    (s.modLoan n f).hotNamed = s.hotNamed := rfl
@[simp] theorem State.modLoan_reports (s : State) (n : Nat) (f : Loan → Loan) :
    (s.modLoan n f).reports = s.reports := rfl
@[simp] theorem State.modLoan_stops (s : State) (n : Nat) (f : Loan → Loan) : (s.modLoan n f).stops = s.stops := rfl
@[simp] theorem State.modLoan_linkReports (s : State) (n : Nat) (f : Loan → Loan) :
    (s.modLoan n f).linkReports = s.linkReports := rfl

/-! ### Folds and the work lists -/

/-- What no step of a fold changes the fold does not change. -/
theorem foldl_keeps {α β γ : Type} (p : α → β) (g : α → γ → α) (h : ∀ a x, p (g a x) = p a) (l : List γ) (a : α) :
    p (l.foldl g a) = p a := by
  induction l generalizing a with
  | nil => rfl
  | cons x r ih => exact (ih (g a x)).trans (h a x)

/-- Posting work changes nothing but the work lists. -/
theorem State.post_keeps {β : Type} (p : State → β) (s : State) (d : Due)
    (h1 : ∀ l, p { s with todo := l } = p s) (h2 : ∀ l, p { s with agenda := l } = p s) : p (s.post d) = p s := by
  unfold State.post
  split
  · exact h1 _
  · exact h2 _

@[simp] theorem State.post_now (s : State) (d : Due) : (s.post d).now = s.now :=
  State.post_keeps State.now s d (fun _ => rfl) (fun _ => rfl)
@[simp] theorem State.post_skew (s : State) (d : Due) : (s.post d).skew = s.skew :=
  State.post_keeps State.skew s d (fun _ => rfl) (fun _ => rfl)
@[simp] theorem State.post_free (s : State) (d : Due) : (s.post d).free = s.free :=
  State.post_keeps State.free s d (fun _ => rfl) (fun _ => rfl)
@[simp] theorem State.post_cur (s : State) (d : Due) : (s.post d).cur = s.cur :=
  State.post_keeps State.cur s d (fun _ => rfl) (fun _ => rfl)
@[simp] theorem State.post_inputs (s : State) (d : Due) : (s.post d).inputs = s.inputs :=
  State.post_keeps State.inputs s d (fun _ => rfl) (fun _ => rfl)
@[simp] theorem State.post_ctxs (s : State) (d : Due) : (s.post d).ctxs = s.ctxs :=
  State.post_keeps State.ctxs s d (fun _ => rfl) (fun _ => rfl)
@[simp] theorem State.post_cores (s : State) (d : Due) : (s.post d).cores = s.cores :=
  State.post_keeps State.cores s d (fun _ => rfl) (fun _ => rfl)
@[simp] theorem State.post_place (s : State) (d : Due) : (s.post d).place = s.place :=
  State.post_keeps State.place s d (fun _ => rfl) (fun _ => rfl)
@[simp] theorem State.post_errata (s : State) (d : Due) : (s.post d).errata = s.errata :=
  State.post_keeps State.errata s d (fun _ => rfl) (fun _ => rfl)
@[simp] theorem State.post_muls (s : State) (d : Due) : (s.post d).muls = s.muls :=
  State.post_keeps State.muls s d (fun _ => rfl) (fun _ => rfl)
@[simp] theorem State.post_drains (s : State) (d : Due) : (s.post d).drains = s.drains :=
  State.post_keeps State.drains s d (fun _ => rfl) (fun _ => rfl)
@[simp] theorem State.post_bars (s : State) (d : Due) : (s.post d).bars = s.bars :=
  State.post_keeps State.bars s d (fun _ => rfl) (fun _ => rfl)
@[simp] theorem State.post_lpool (s : State) (d : Due) : (s.post d).lpool = s.lpool :=
  State.post_keeps State.lpool s d (fun _ => rfl) (fun _ => rfl)
@[simp] theorem State.post_latches (s : State) (d : Due) : (s.post d).latches = s.latches :=
  State.post_keeps State.latches s d (fun _ => rfl) (fun _ => rfl)
@[simp] theorem State.post_mem (s : State) (d : Due) : (s.post d).mem = s.mem :=
  State.post_keeps State.mem s d (fun _ => rfl) (fun _ => rfl)
@[simp] theorem State.post_badCols (s : State) (d : Due) : (s.post d).badCols = s.badCols :=
  State.post_keeps State.badCols s d (fun _ => rfl) (fun _ => rfl)
@[simp] theorem State.post_softCols (s : State) (d : Due) : (s.post d).softCols = s.softCols :=
  State.post_keeps State.softCols s d (fun _ => rfl) (fun _ => rfl)
@[simp] theorem State.post_eccCount (s : State) (d : Due) : (s.post d).eccCount = s.eccCount :=
  State.post_keeps State.eccCount s d (fun _ => rfl) (fun _ => rfl)
@[simp] theorem State.post_pcs (s : State) (d : Due) : (s.post d).pcs = s.pcs :=
  State.post_keeps State.pcs s d (fun _ => rfl) (fun _ => rfl)
@[simp] theorem State.post_windows (s : State) (d : Due) : (s.post d).windows = s.windows :=
  State.post_keeps State.windows s d (fun _ => rfl) (fun _ => rfl)
@[simp] theorem State.post_jedec (s : State) (d : Due) : (s.post d).jedec = s.jedec :=
  State.post_keeps State.jedec s d (fun _ => rfl) (fun _ => rfl)
@[simp] theorem State.post_timing (s : State) (d : Due) : (s.post d).timing = s.timing :=
  State.post_keeps State.timing s d (fun _ => rfl) (fun _ => rfl)
@[simp] theorem State.post_refi (s : State) (d : Due) : (s.post d).refi = s.refi :=
  State.post_keeps State.refi s d (fun _ => rfl) (fun _ => rfl)
@[simp] theorem State.post_refiNext (s : State) (d : Due) : (s.post d).refiNext = s.refiNext :=
  State.post_keeps State.refiNext s d (fun _ => rfl) (fun _ => rfl)
@[simp] theorem State.post_wrData (s : State) (d : Due) : (s.post d).wrData = s.wrData :=
  State.post_keeps State.wrData s d (fun _ => rfl) (fun _ => rfl)
@[simp] theorem State.post_late (s : State) (d : Due) : (s.post d).late = s.late :=
  State.post_keeps State.late s d (fun _ => rfl) (fun _ => rfl)
@[simp] theorem State.post_links (s : State) (d : Due) : (s.post d).links = s.links :=
  State.post_keeps State.links s d (fun _ => rfl) (fun _ => rfl)
@[simp] theorem State.post_routes (s : State) (d : Due) : (s.post d).routes = s.routes :=
  State.post_keeps State.routes s d (fun _ => rfl) (fun _ => rfl)
@[simp] theorem State.post_loans (s : State) (d : Due) : (s.post d).loans = s.loans :=
  State.post_keeps State.loans s d (fun _ => rfl) (fun _ => rfl)
@[simp] theorem State.post_remoteReqs (s : State) (d : Due) : (s.post d).remoteReqs = s.remoteReqs :=
  State.post_keeps State.remoteReqs s d (fun _ => rfl) (fun _ => rfl)
@[simp] theorem State.post_seqs (s : State) (d : Due) : (s.post d).seqs = s.seqs :=
  State.post_keeps State.seqs s d (fun _ => rfl) (fun _ => rfl)
@[simp] theorem State.post_unrouted (s : State) (d : Due) : (s.post d).unrouted = s.unrouted :=
  State.post_keeps State.unrouted s d (fun _ => rfl) (fun _ => rfl)
@[simp] theorem State.post_replies (s : State) (d : Due) : (s.post d).replies = s.replies :=
  State.post_keeps State.replies s d (fun _ => rfl) (fun _ => rfl)
@[simp] theorem State.post_staged (s : State) (d : Due) : (s.post d).staged = s.staged :=
  State.post_keeps State.staged s d (fun _ => rfl) (fun _ => rfl)
@[simp] theorem State.post_owners (s : State) (d : Due) : (s.post d).owners = s.owners :=
  State.post_keeps State.owners s d (fun _ => rfl) (fun _ => rfl)
@[simp] theorem State.post_endTimer (s : State) (d : Due) : (s.post d).endTimer = s.endTimer :=
  State.post_keeps State.endTimer s d (fun _ => rfl) (fun _ => rfl)
@[simp] theorem State.post_invals (s : State) (d : Due) : (s.post d).invals = s.invals :=
  State.post_keeps State.invals s d (fun _ => rfl) (fun _ => rfl)
@[simp] theorem State.post_nextId (s : State) (d : Due) : (s.post d).nextId = s.nextId :=
  State.post_keeps State.nextId s d (fun _ => rfl) (fun _ => rfl)
@[simp] theorem State.post_launches (s : State) (d : Due) : (s.post d).launches = s.launches :=
  State.post_keeps State.launches s d (fun _ => rfl) (fun _ => rfl)
@[simp] theorem State.post_parts (s : State) (d : Due) : (s.post d).parts = s.parts :=
  State.post_keeps State.parts s d (fun _ => rfl) (fun _ => rfl)
@[simp] theorem State.post_saved (s : State) (d : Due) : (s.post d).saved = s.saved :=
  State.post_keeps State.saved s d (fun _ => rfl) (fun _ => rfl)
@[simp] theorem State.post_dies (s : State) (d : Due) : (s.post d).dies = s.dies :=
  State.post_keeps State.dies s d (fun _ => rfl) (fun _ => rfl)
@[simp] theorem State.post_dieEvents (s : State) (d : Due) : (s.post d).dieEvents = s.dieEvents :=
  State.post_keeps State.dieEvents s d (fun _ => rfl) (fun _ => rfl)
@[simp] theorem State.post_coreWin (s : State) (d : Due) : (s.post d).coreWin = s.coreWin :=
  State.post_keeps State.coreWin s d (fun _ => rfl) (fun _ => rfl)
@[simp] theorem State.post_dieWin (s : State) (d : Due) : (s.post d).dieWin = s.dieWin :=
  State.post_keeps State.dieWin s d (fun _ => rfl) (fun _ => rfl)
@[simp] theorem State.post_spareFor (s : State) (d : Due) : (s.post d).spareFor = s.spareFor :=
  State.post_keeps State.spareFor s d (fun _ => rfl) (fun _ => rfl)
@[simp] theorem State.post_coreStates (s : State) (d : Due) : (s.post d).coreStates = s.coreStates :=
  State.post_keeps State.coreStates s d (fun _ => rfl) (fun _ => rfl)
@[simp] theorem State.post_flash (s : State) (d : Due) : (s.post d).flash = s.flash :=
  State.post_keeps State.flash s d (fun _ => rfl) (fun _ => rfl)
@[simp] theorem State.post_flashQueue (s : State) (d : Due) : (s.post d).flashQueue = s.flashQueue :=
  State.post_keeps State.flashQueue s d (fun _ => rfl) (fun _ => rfl)
@[simp] theorem State.post_changes (s : State) (d : Due) : (s.post d).changes = s.changes :=
  State.post_keeps State.changes s d (fun _ => rfl) (fun _ => rfl)
@[simp] theorem State.post_devState (s : State) (d : Due) : (s.post d).devState = s.devState :=
  State.post_keeps State.devState s d (fun _ => rfl) (fun _ => rfl)
@[simp] theorem State.post_starting (s : State) (d : Due) : (s.post d).starting = s.starting :=
  State.post_keeps State.starting s d (fun _ => rfl) (fun _ => rfl)
@[simp] theorem State.post_startNo (s : State) (d : Due) : (s.post d).startNo = s.startNo :=
  State.post_keeps State.startNo s d (fun _ => rfl) (fun _ => rfl)
@[simp] theorem State.post_bootAt (s : State) (d : Due) : (s.post d).bootAt = s.bootAt :=
  State.post_keeps State.bootAt s d (fun _ => rfl) (fun _ => rfl)
@[simp] theorem State.post_runSince (s : State) (d : Due) : (s.post d).runSince = s.runSince :=
  State.post_keeps State.runSince s d (fun _ => rfl) (fun _ => rfl)
@[simp] theorem State.post_boxes (s : State) (d : Due) : (s.post d).boxes = s.boxes :=
  State.post_keeps State.boxes s d (fun _ => rfl) (fun _ => rfl)
@[simp] theorem State.post_loanNow (s : State) (d : Due) : (s.post d).loanNow = s.loanNow :=
  State.post_keeps State.loanNow s d (fun _ => rfl) (fun _ => rfl)
@[simp] theorem State.post_cmdQueue (s : State) (d : Due) : (s.post d).cmdQueue = s.cmdQueue :=
  State.post_keeps State.cmdQueue s d (fun _ => rfl) (fun _ => rfl)
@[simp] theorem State.post_cmd (s : State) (d : Due) : (s.post d).cmd = s.cmd :=
  State.post_keeps State.cmd s d (fun _ => rfl) (fun _ => rfl)
@[simp] theorem State.post_queues (s : State) (d : Due) : (s.post d).queues = s.queues :=
  State.post_keeps State.queues s d (fun _ => rfl) (fun _ => rfl)
@[simp] theorem State.post_binds (s : State) (d : Due) : (s.post d).binds = s.binds :=
  State.post_keeps State.binds s d (fun _ => rfl) (fun _ => rfl)
@[simp] theorem State.post_fnClass (s : State) (d : Due) : (s.post d).fnClass = s.fnClass :=
  State.post_keeps State.fnClass s d (fun _ => rfl) (fun _ => rfl)
@[simp] theorem State.post_hostReplies (s : State) (d : Due) : (s.post d).hostReplies = s.hostReplies :=
  State.post_keeps State.hostReplies s d (fun _ => rfl) (fun _ => rfl)
@[simp] theorem State.post_barSizes (s : State) (d : Due) : (s.post d).barSizes = s.barSizes :=
  State.post_keeps State.barSizes s d (fun _ => rfl) (fun _ => rfl)
@[simp] theorem State.post_hostAcc (s : State) (d : Due) : (s.post d).hostAcc = s.hostAcc :=
  State.post_keeps State.hostAcc s d (fun _ => rfl) (fun _ => rfl)
@[simp] theorem State.post_power (s : State) (d : Due) : (s.post d).power = s.power :=
  State.post_keeps State.power s d (fun _ => rfl) (fun _ => rfl)
@[simp] theorem State.post_heat (s : State) (d : Due) : (s.post d).heat = s.heat :=
  State.post_keeps State.heat s d (fun _ => rfl) (fun _ => rfl)
@[simp] theorem State.post_silent (s : State) (d : Due) : (s.post d).silent = s.silent :=
  State.post_keeps State.silent s d (fun _ => rfl) (fun _ => rfl)
@[simp] theorem State.post_powers (s : State) (d : Due) : (s.post d).powers = s.powers :=
  State.post_keeps State.powers s d (fun _ => rfl) (fun _ => rfl)
@[simp] theorem State.post_overPower (s : State) (d : Due) : (s.post d).overPower = s.overPower :=
  State.post_keeps State.overPower s d (fun _ => rfl) (fun _ => rfl)
@[simp] theorem State.post_temps (s : State) (d : Due) : (s.post d).temps = s.temps :=
  State.post_keeps State.temps s d (fun _ => rfl) (fun _ => rfl)
@[simp] theorem State.post_hot (s : State) (d : Due) : (s.post d).hot = s.hot :=
  State.post_keeps State.hot s d (fun _ => rfl) (fun _ => rfl)
@[simp] theorem State.post_hotNamed (s : State) (d : Due) : (s.post d).hotNamed = s.hotNamed :=
  State.post_keeps State.hotNamed s d (fun _ => rfl) (fun _ => rfl)
@[simp] theorem State.post_reports (s : State) (d : Due) : (s.post d).reports = s.reports :=
  State.post_keeps State.reports s d (fun _ => rfl) (fun _ => rfl)
@[simp] theorem State.post_stops (s : State) (d : Due) : (s.post d).stops = s.stops :=
  State.post_keeps State.stops s d (fun _ => rfl) (fun _ => rfl)
@[simp] theorem State.post_linkReports (s : State) (d : Due) : (s.post d).linkReports = s.linkReports :=
  State.post_keeps State.linkReports s d (fun _ => rfl) (fun _ => rfl)

@[simp] theorem State.after_now (s : State) (n r : Nat) (e : Event) : (s.after n r e).now = s.now :=
  State.post_now s _
@[simp] theorem State.after_skew (s : State) (n r : Nat) (e : Event) : (s.after n r e).skew = s.skew :=
  State.post_skew s _
@[simp] theorem State.after_free (s : State) (n r : Nat) (e : Event) : (s.after n r e).free = s.free :=
  State.post_free s _
@[simp] theorem State.after_cur (s : State) (n r : Nat) (e : Event) : (s.after n r e).cur = s.cur :=
  State.post_cur s _
@[simp] theorem State.after_inputs (s : State) (n r : Nat) (e : Event) : (s.after n r e).inputs = s.inputs :=
  State.post_inputs s _
@[simp] theorem State.after_ctxs (s : State) (n r : Nat) (e : Event) : (s.after n r e).ctxs = s.ctxs :=
  State.post_ctxs s _
@[simp] theorem State.after_cores (s : State) (n r : Nat) (e : Event) : (s.after n r e).cores = s.cores :=
  State.post_cores s _
@[simp] theorem State.after_place (s : State) (n r : Nat) (e : Event) : (s.after n r e).place = s.place :=
  State.post_place s _
@[simp] theorem State.after_errata (s : State) (n r : Nat) (e : Event) : (s.after n r e).errata = s.errata :=
  State.post_errata s _
@[simp] theorem State.after_muls (s : State) (n r : Nat) (e : Event) : (s.after n r e).muls = s.muls :=
  State.post_muls s _
@[simp] theorem State.after_drains (s : State) (n r : Nat) (e : Event) : (s.after n r e).drains = s.drains :=
  State.post_drains s _
@[simp] theorem State.after_bars (s : State) (n r : Nat) (e : Event) : (s.after n r e).bars = s.bars :=
  State.post_bars s _
@[simp] theorem State.after_lpool (s : State) (n r : Nat) (e : Event) : (s.after n r e).lpool = s.lpool :=
  State.post_lpool s _
@[simp] theorem State.after_latches (s : State) (n r : Nat) (e : Event) : (s.after n r e).latches = s.latches :=
  State.post_latches s _
@[simp] theorem State.after_mem (s : State) (n r : Nat) (e : Event) : (s.after n r e).mem = s.mem :=
  State.post_mem s _
@[simp] theorem State.after_badCols (s : State) (n r : Nat) (e : Event) : (s.after n r e).badCols = s.badCols :=
  State.post_badCols s _
@[simp] theorem State.after_softCols (s : State) (n r : Nat) (e : Event) : (s.after n r e).softCols = s.softCols :=
  State.post_softCols s _
@[simp] theorem State.after_eccCount (s : State) (n r : Nat) (e : Event) : (s.after n r e).eccCount = s.eccCount :=
  State.post_eccCount s _
@[simp] theorem State.after_pcs (s : State) (n r : Nat) (e : Event) : (s.after n r e).pcs = s.pcs :=
  State.post_pcs s _
@[simp] theorem State.after_windows (s : State) (n r : Nat) (e : Event) : (s.after n r e).windows = s.windows :=
  State.post_windows s _
@[simp] theorem State.after_jedec (s : State) (n r : Nat) (e : Event) : (s.after n r e).jedec = s.jedec :=
  State.post_jedec s _
@[simp] theorem State.after_timing (s : State) (n r : Nat) (e : Event) : (s.after n r e).timing = s.timing :=
  State.post_timing s _
@[simp] theorem State.after_refi (s : State) (n r : Nat) (e : Event) : (s.after n r e).refi = s.refi :=
  State.post_refi s _
@[simp] theorem State.after_refiNext (s : State) (n r : Nat) (e : Event) : (s.after n r e).refiNext = s.refiNext :=
  State.post_refiNext s _
@[simp] theorem State.after_wrData (s : State) (n r : Nat) (e : Event) : (s.after n r e).wrData = s.wrData :=
  State.post_wrData s _
@[simp] theorem State.after_late (s : State) (n r : Nat) (e : Event) : (s.after n r e).late = s.late :=
  State.post_late s _
@[simp] theorem State.after_links (s : State) (n r : Nat) (e : Event) : (s.after n r e).links = s.links :=
  State.post_links s _
@[simp] theorem State.after_routes (s : State) (n r : Nat) (e : Event) : (s.after n r e).routes = s.routes :=
  State.post_routes s _
@[simp] theorem State.after_loans (s : State) (n r : Nat) (e : Event) : (s.after n r e).loans = s.loans :=
  State.post_loans s _
@[simp] theorem State.after_remoteReqs (s : State) (n r : Nat) (e : Event) : (s.after n r e).remoteReqs = s.remoteReqs :=
  State.post_remoteReqs s _
@[simp] theorem State.after_seqs (s : State) (n r : Nat) (e : Event) : (s.after n r e).seqs = s.seqs :=
  State.post_seqs s _
@[simp] theorem State.after_unrouted (s : State) (n r : Nat) (e : Event) : (s.after n r e).unrouted = s.unrouted :=
  State.post_unrouted s _
@[simp] theorem State.after_replies (s : State) (n r : Nat) (e : Event) : (s.after n r e).replies = s.replies :=
  State.post_replies s _
@[simp] theorem State.after_staged (s : State) (n r : Nat) (e : Event) : (s.after n r e).staged = s.staged :=
  State.post_staged s _
@[simp] theorem State.after_owners (s : State) (n r : Nat) (e : Event) : (s.after n r e).owners = s.owners :=
  State.post_owners s _
@[simp] theorem State.after_endTimer (s : State) (n r : Nat) (e : Event) : (s.after n r e).endTimer = s.endTimer :=
  State.post_endTimer s _
@[simp] theorem State.after_invals (s : State) (n r : Nat) (e : Event) : (s.after n r e).invals = s.invals :=
  State.post_invals s _
@[simp] theorem State.after_nextId (s : State) (n r : Nat) (e : Event) : (s.after n r e).nextId = s.nextId :=
  State.post_nextId s _
@[simp] theorem State.after_launches (s : State) (n r : Nat) (e : Event) : (s.after n r e).launches = s.launches :=
  State.post_launches s _
@[simp] theorem State.after_parts (s : State) (n r : Nat) (e : Event) : (s.after n r e).parts = s.parts :=
  State.post_parts s _
@[simp] theorem State.after_saved (s : State) (n r : Nat) (e : Event) : (s.after n r e).saved = s.saved :=
  State.post_saved s _
@[simp] theorem State.after_dies (s : State) (n r : Nat) (e : Event) : (s.after n r e).dies = s.dies :=
  State.post_dies s _
@[simp] theorem State.after_dieEvents (s : State) (n r : Nat) (e : Event) : (s.after n r e).dieEvents = s.dieEvents :=
  State.post_dieEvents s _
@[simp] theorem State.after_coreWin (s : State) (n r : Nat) (e : Event) : (s.after n r e).coreWin = s.coreWin :=
  State.post_coreWin s _
@[simp] theorem State.after_dieWin (s : State) (n r : Nat) (e : Event) : (s.after n r e).dieWin = s.dieWin :=
  State.post_dieWin s _
@[simp] theorem State.after_spareFor (s : State) (n r : Nat) (e : Event) : (s.after n r e).spareFor = s.spareFor :=
  State.post_spareFor s _
@[simp] theorem State.after_coreStates (s : State) (n r : Nat) (e : Event) : (s.after n r e).coreStates = s.coreStates :=
  State.post_coreStates s _
@[simp] theorem State.after_flash (s : State) (n r : Nat) (e : Event) : (s.after n r e).flash = s.flash :=
  State.post_flash s _
@[simp] theorem State.after_flashQueue (s : State) (n r : Nat) (e : Event) : (s.after n r e).flashQueue = s.flashQueue :=
  State.post_flashQueue s _
@[simp] theorem State.after_changes (s : State) (n r : Nat) (e : Event) : (s.after n r e).changes = s.changes :=
  State.post_changes s _
@[simp] theorem State.after_devState (s : State) (n r : Nat) (e : Event) : (s.after n r e).devState = s.devState :=
  State.post_devState s _
@[simp] theorem State.after_starting (s : State) (n r : Nat) (e : Event) : (s.after n r e).starting = s.starting :=
  State.post_starting s _
@[simp] theorem State.after_startNo (s : State) (n r : Nat) (e : Event) : (s.after n r e).startNo = s.startNo :=
  State.post_startNo s _
@[simp] theorem State.after_bootAt (s : State) (n r : Nat) (e : Event) : (s.after n r e).bootAt = s.bootAt :=
  State.post_bootAt s _
@[simp] theorem State.after_runSince (s : State) (n r : Nat) (e : Event) : (s.after n r e).runSince = s.runSince :=
  State.post_runSince s _
@[simp] theorem State.after_boxes (s : State) (n r : Nat) (e : Event) : (s.after n r e).boxes = s.boxes :=
  State.post_boxes s _
@[simp] theorem State.after_loanNow (s : State) (n r : Nat) (e : Event) : (s.after n r e).loanNow = s.loanNow :=
  State.post_loanNow s _
@[simp] theorem State.after_cmdQueue (s : State) (n r : Nat) (e : Event) : (s.after n r e).cmdQueue = s.cmdQueue :=
  State.post_cmdQueue s _
@[simp] theorem State.after_cmd (s : State) (n r : Nat) (e : Event) : (s.after n r e).cmd = s.cmd :=
  State.post_cmd s _
@[simp] theorem State.after_queues (s : State) (n r : Nat) (e : Event) : (s.after n r e).queues = s.queues :=
  State.post_queues s _
@[simp] theorem State.after_binds (s : State) (n r : Nat) (e : Event) : (s.after n r e).binds = s.binds :=
  State.post_binds s _
@[simp] theorem State.after_fnClass (s : State) (n r : Nat) (e : Event) : (s.after n r e).fnClass = s.fnClass :=
  State.post_fnClass s _
@[simp] theorem State.after_hostReplies (s : State) (n r : Nat) (e : Event) : (s.after n r e).hostReplies = s.hostReplies :=
  State.post_hostReplies s _
@[simp] theorem State.after_barSizes (s : State) (n r : Nat) (e : Event) : (s.after n r e).barSizes = s.barSizes :=
  State.post_barSizes s _
@[simp] theorem State.after_hostAcc (s : State) (n r : Nat) (e : Event) : (s.after n r e).hostAcc = s.hostAcc :=
  State.post_hostAcc s _
@[simp] theorem State.after_power (s : State) (n r : Nat) (e : Event) : (s.after n r e).power = s.power :=
  State.post_power s _
@[simp] theorem State.after_heat (s : State) (n r : Nat) (e : Event) : (s.after n r e).heat = s.heat :=
  State.post_heat s _
@[simp] theorem State.after_silent (s : State) (n r : Nat) (e : Event) : (s.after n r e).silent = s.silent :=
  State.post_silent s _
@[simp] theorem State.after_powers (s : State) (n r : Nat) (e : Event) : (s.after n r e).powers = s.powers :=
  State.post_powers s _
@[simp] theorem State.after_overPower (s : State) (n r : Nat) (e : Event) : (s.after n r e).overPower = s.overPower :=
  State.post_overPower s _
@[simp] theorem State.after_temps (s : State) (n r : Nat) (e : Event) : (s.after n r e).temps = s.temps :=
  State.post_temps s _
@[simp] theorem State.after_hot (s : State) (n r : Nat) (e : Event) : (s.after n r e).hot = s.hot :=
  State.post_hot s _
@[simp] theorem State.after_hotNamed (s : State) (n r : Nat) (e : Event) : (s.after n r e).hotNamed = s.hotNamed :=
  State.post_hotNamed s _
@[simp] theorem State.after_reports (s : State) (n r : Nat) (e : Event) : (s.after n r e).reports = s.reports :=
  State.post_reports s _
@[simp] theorem State.after_stops (s : State) (n r : Nat) (e : Event) : (s.after n r e).stops = s.stops :=
  State.post_stops s _
@[simp] theorem State.after_linkReports (s : State) (n r : Nat) (e : Event) : (s.after n r e).linkReports = s.linkReports :=
  State.post_linkReports s _

@[simp] theorem State.postAll_now (s : State) (l : List Due) : (s.postAll l).now = s.now :=
  foldl_keeps State.now State.post State.post_now l s
@[simp] theorem State.postAll_skew (s : State) (l : List Due) : (s.postAll l).skew = s.skew :=
  foldl_keeps State.skew State.post State.post_skew l s
@[simp] theorem State.postAll_free (s : State) (l : List Due) : (s.postAll l).free = s.free :=
  foldl_keeps State.free State.post State.post_free l s
@[simp] theorem State.postAll_cur (s : State) (l : List Due) : (s.postAll l).cur = s.cur :=
  foldl_keeps State.cur State.post State.post_cur l s
@[simp] theorem State.postAll_inputs (s : State) (l : List Due) : (s.postAll l).inputs = s.inputs :=
  foldl_keeps State.inputs State.post State.post_inputs l s
@[simp] theorem State.postAll_ctxs (s : State) (l : List Due) : (s.postAll l).ctxs = s.ctxs :=
  foldl_keeps State.ctxs State.post State.post_ctxs l s
@[simp] theorem State.postAll_cores (s : State) (l : List Due) : (s.postAll l).cores = s.cores :=
  foldl_keeps State.cores State.post State.post_cores l s
@[simp] theorem State.postAll_place (s : State) (l : List Due) : (s.postAll l).place = s.place :=
  foldl_keeps State.place State.post State.post_place l s
@[simp] theorem State.postAll_errata (s : State) (l : List Due) : (s.postAll l).errata = s.errata :=
  foldl_keeps State.errata State.post State.post_errata l s
@[simp] theorem State.postAll_muls (s : State) (l : List Due) : (s.postAll l).muls = s.muls :=
  foldl_keeps State.muls State.post State.post_muls l s
@[simp] theorem State.postAll_drains (s : State) (l : List Due) : (s.postAll l).drains = s.drains :=
  foldl_keeps State.drains State.post State.post_drains l s
@[simp] theorem State.postAll_bars (s : State) (l : List Due) : (s.postAll l).bars = s.bars :=
  foldl_keeps State.bars State.post State.post_bars l s
@[simp] theorem State.postAll_lpool (s : State) (l : List Due) : (s.postAll l).lpool = s.lpool :=
  foldl_keeps State.lpool State.post State.post_lpool l s
@[simp] theorem State.postAll_latches (s : State) (l : List Due) : (s.postAll l).latches = s.latches :=
  foldl_keeps State.latches State.post State.post_latches l s
@[simp] theorem State.postAll_mem (s : State) (l : List Due) : (s.postAll l).mem = s.mem :=
  foldl_keeps State.mem State.post State.post_mem l s
@[simp] theorem State.postAll_badCols (s : State) (l : List Due) : (s.postAll l).badCols = s.badCols :=
  foldl_keeps State.badCols State.post State.post_badCols l s
@[simp] theorem State.postAll_softCols (s : State) (l : List Due) : (s.postAll l).softCols = s.softCols :=
  foldl_keeps State.softCols State.post State.post_softCols l s
@[simp] theorem State.postAll_eccCount (s : State) (l : List Due) : (s.postAll l).eccCount = s.eccCount :=
  foldl_keeps State.eccCount State.post State.post_eccCount l s
@[simp] theorem State.postAll_pcs (s : State) (l : List Due) : (s.postAll l).pcs = s.pcs :=
  foldl_keeps State.pcs State.post State.post_pcs l s
@[simp] theorem State.postAll_windows (s : State) (l : List Due) : (s.postAll l).windows = s.windows :=
  foldl_keeps State.windows State.post State.post_windows l s
@[simp] theorem State.postAll_jedec (s : State) (l : List Due) : (s.postAll l).jedec = s.jedec :=
  foldl_keeps State.jedec State.post State.post_jedec l s
@[simp] theorem State.postAll_timing (s : State) (l : List Due) : (s.postAll l).timing = s.timing :=
  foldl_keeps State.timing State.post State.post_timing l s
@[simp] theorem State.postAll_refi (s : State) (l : List Due) : (s.postAll l).refi = s.refi :=
  foldl_keeps State.refi State.post State.post_refi l s
@[simp] theorem State.postAll_refiNext (s : State) (l : List Due) : (s.postAll l).refiNext = s.refiNext :=
  foldl_keeps State.refiNext State.post State.post_refiNext l s
@[simp] theorem State.postAll_wrData (s : State) (l : List Due) : (s.postAll l).wrData = s.wrData :=
  foldl_keeps State.wrData State.post State.post_wrData l s
@[simp] theorem State.postAll_late (s : State) (l : List Due) : (s.postAll l).late = s.late :=
  foldl_keeps State.late State.post State.post_late l s
@[simp] theorem State.postAll_links (s : State) (l : List Due) : (s.postAll l).links = s.links :=
  foldl_keeps State.links State.post State.post_links l s
@[simp] theorem State.postAll_routes (s : State) (l : List Due) : (s.postAll l).routes = s.routes :=
  foldl_keeps State.routes State.post State.post_routes l s
@[simp] theorem State.postAll_loans (s : State) (l : List Due) : (s.postAll l).loans = s.loans :=
  foldl_keeps State.loans State.post State.post_loans l s
@[simp] theorem State.postAll_remoteReqs (s : State) (l : List Due) : (s.postAll l).remoteReqs = s.remoteReqs :=
  foldl_keeps State.remoteReqs State.post State.post_remoteReqs l s
@[simp] theorem State.postAll_seqs (s : State) (l : List Due) : (s.postAll l).seqs = s.seqs :=
  foldl_keeps State.seqs State.post State.post_seqs l s
@[simp] theorem State.postAll_unrouted (s : State) (l : List Due) : (s.postAll l).unrouted = s.unrouted :=
  foldl_keeps State.unrouted State.post State.post_unrouted l s
@[simp] theorem State.postAll_replies (s : State) (l : List Due) : (s.postAll l).replies = s.replies :=
  foldl_keeps State.replies State.post State.post_replies l s
@[simp] theorem State.postAll_staged (s : State) (l : List Due) : (s.postAll l).staged = s.staged :=
  foldl_keeps State.staged State.post State.post_staged l s
@[simp] theorem State.postAll_owners (s : State) (l : List Due) : (s.postAll l).owners = s.owners :=
  foldl_keeps State.owners State.post State.post_owners l s
@[simp] theorem State.postAll_endTimer (s : State) (l : List Due) : (s.postAll l).endTimer = s.endTimer :=
  foldl_keeps State.endTimer State.post State.post_endTimer l s
@[simp] theorem State.postAll_invals (s : State) (l : List Due) : (s.postAll l).invals = s.invals :=
  foldl_keeps State.invals State.post State.post_invals l s
@[simp] theorem State.postAll_nextId (s : State) (l : List Due) : (s.postAll l).nextId = s.nextId :=
  foldl_keeps State.nextId State.post State.post_nextId l s
@[simp] theorem State.postAll_launches (s : State) (l : List Due) : (s.postAll l).launches = s.launches :=
  foldl_keeps State.launches State.post State.post_launches l s
@[simp] theorem State.postAll_parts (s : State) (l : List Due) : (s.postAll l).parts = s.parts :=
  foldl_keeps State.parts State.post State.post_parts l s
@[simp] theorem State.postAll_saved (s : State) (l : List Due) : (s.postAll l).saved = s.saved :=
  foldl_keeps State.saved State.post State.post_saved l s
@[simp] theorem State.postAll_dies (s : State) (l : List Due) : (s.postAll l).dies = s.dies :=
  foldl_keeps State.dies State.post State.post_dies l s
@[simp] theorem State.postAll_dieEvents (s : State) (l : List Due) : (s.postAll l).dieEvents = s.dieEvents :=
  foldl_keeps State.dieEvents State.post State.post_dieEvents l s
@[simp] theorem State.postAll_coreWin (s : State) (l : List Due) : (s.postAll l).coreWin = s.coreWin :=
  foldl_keeps State.coreWin State.post State.post_coreWin l s
@[simp] theorem State.postAll_dieWin (s : State) (l : List Due) : (s.postAll l).dieWin = s.dieWin :=
  foldl_keeps State.dieWin State.post State.post_dieWin l s
@[simp] theorem State.postAll_spareFor (s : State) (l : List Due) : (s.postAll l).spareFor = s.spareFor :=
  foldl_keeps State.spareFor State.post State.post_spareFor l s
@[simp] theorem State.postAll_coreStates (s : State) (l : List Due) : (s.postAll l).coreStates = s.coreStates :=
  foldl_keeps State.coreStates State.post State.post_coreStates l s
@[simp] theorem State.postAll_flash (s : State) (l : List Due) : (s.postAll l).flash = s.flash :=
  foldl_keeps State.flash State.post State.post_flash l s
@[simp] theorem State.postAll_flashQueue (s : State) (l : List Due) : (s.postAll l).flashQueue = s.flashQueue :=
  foldl_keeps State.flashQueue State.post State.post_flashQueue l s
@[simp] theorem State.postAll_changes (s : State) (l : List Due) : (s.postAll l).changes = s.changes :=
  foldl_keeps State.changes State.post State.post_changes l s
@[simp] theorem State.postAll_devState (s : State) (l : List Due) : (s.postAll l).devState = s.devState :=
  foldl_keeps State.devState State.post State.post_devState l s
@[simp] theorem State.postAll_starting (s : State) (l : List Due) : (s.postAll l).starting = s.starting :=
  foldl_keeps State.starting State.post State.post_starting l s
@[simp] theorem State.postAll_startNo (s : State) (l : List Due) : (s.postAll l).startNo = s.startNo :=
  foldl_keeps State.startNo State.post State.post_startNo l s
@[simp] theorem State.postAll_bootAt (s : State) (l : List Due) : (s.postAll l).bootAt = s.bootAt :=
  foldl_keeps State.bootAt State.post State.post_bootAt l s
@[simp] theorem State.postAll_runSince (s : State) (l : List Due) : (s.postAll l).runSince = s.runSince :=
  foldl_keeps State.runSince State.post State.post_runSince l s
@[simp] theorem State.postAll_boxes (s : State) (l : List Due) : (s.postAll l).boxes = s.boxes :=
  foldl_keeps State.boxes State.post State.post_boxes l s
@[simp] theorem State.postAll_loanNow (s : State) (l : List Due) : (s.postAll l).loanNow = s.loanNow :=
  foldl_keeps State.loanNow State.post State.post_loanNow l s
@[simp] theorem State.postAll_cmdQueue (s : State) (l : List Due) : (s.postAll l).cmdQueue = s.cmdQueue :=
  foldl_keeps State.cmdQueue State.post State.post_cmdQueue l s
@[simp] theorem State.postAll_cmd (s : State) (l : List Due) : (s.postAll l).cmd = s.cmd :=
  foldl_keeps State.cmd State.post State.post_cmd l s
@[simp] theorem State.postAll_queues (s : State) (l : List Due) : (s.postAll l).queues = s.queues :=
  foldl_keeps State.queues State.post State.post_queues l s
@[simp] theorem State.postAll_binds (s : State) (l : List Due) : (s.postAll l).binds = s.binds :=
  foldl_keeps State.binds State.post State.post_binds l s
@[simp] theorem State.postAll_fnClass (s : State) (l : List Due) : (s.postAll l).fnClass = s.fnClass :=
  foldl_keeps State.fnClass State.post State.post_fnClass l s
@[simp] theorem State.postAll_hostReplies (s : State) (l : List Due) : (s.postAll l).hostReplies = s.hostReplies :=
  foldl_keeps State.hostReplies State.post State.post_hostReplies l s
@[simp] theorem State.postAll_barSizes (s : State) (l : List Due) : (s.postAll l).barSizes = s.barSizes :=
  foldl_keeps State.barSizes State.post State.post_barSizes l s
@[simp] theorem State.postAll_hostAcc (s : State) (l : List Due) : (s.postAll l).hostAcc = s.hostAcc :=
  foldl_keeps State.hostAcc State.post State.post_hostAcc l s
@[simp] theorem State.postAll_power (s : State) (l : List Due) : (s.postAll l).power = s.power :=
  foldl_keeps State.power State.post State.post_power l s
@[simp] theorem State.postAll_heat (s : State) (l : List Due) : (s.postAll l).heat = s.heat :=
  foldl_keeps State.heat State.post State.post_heat l s
@[simp] theorem State.postAll_silent (s : State) (l : List Due) : (s.postAll l).silent = s.silent :=
  foldl_keeps State.silent State.post State.post_silent l s
@[simp] theorem State.postAll_powers (s : State) (l : List Due) : (s.postAll l).powers = s.powers :=
  foldl_keeps State.powers State.post State.post_powers l s
@[simp] theorem State.postAll_overPower (s : State) (l : List Due) : (s.postAll l).overPower = s.overPower :=
  foldl_keeps State.overPower State.post State.post_overPower l s
@[simp] theorem State.postAll_temps (s : State) (l : List Due) : (s.postAll l).temps = s.temps :=
  foldl_keeps State.temps State.post State.post_temps l s
@[simp] theorem State.postAll_hot (s : State) (l : List Due) : (s.postAll l).hot = s.hot :=
  foldl_keeps State.hot State.post State.post_hot l s
@[simp] theorem State.postAll_hotNamed (s : State) (l : List Due) : (s.postAll l).hotNamed = s.hotNamed :=
  foldl_keeps State.hotNamed State.post State.post_hotNamed l s
@[simp] theorem State.postAll_reports (s : State) (l : List Due) : (s.postAll l).reports = s.reports :=
  foldl_keeps State.reports State.post State.post_reports l s
@[simp] theorem State.postAll_stops (s : State) (l : List Due) : (s.postAll l).stops = s.stops :=
  foldl_keeps State.stops State.post State.post_stops l s
@[simp] theorem State.postAll_linkReports (s : State) (l : List Due) : (s.postAll l).linkReports = s.linkReports :=
  foldl_keeps State.linkReports State.post State.post_linkReports l s

/-! ### Reads after updates -/

theorem State.ctxAt_setCtx (s : State) (k j : Nat) (c : Context) :
    (s.setCtx k c).ctxAt j = if k = j then c else s.ctxAt j := sget_sset _ _ _ _ _

@[simp] theorem State.ctxAt_setCtx_same (s : State) (k : Nat) (c : Context) : (s.setCtx k c).ctxAt k = c := by
  simp [State.ctxAt_setCtx]

theorem State.ctxAt_setCtx_other (s : State) {k j : Nat} (c : Context) (h : k ≠ j) :
    (s.setCtx k c).ctxAt j = s.ctxAt j := by simp [State.ctxAt_setCtx, h]

theorem State.ctxAt_modCtx (s : State) (k j : Nat) (f : Context → Context) :
    (s.modCtx k f).ctxAt j = if k = j then f (s.ctxAt k) else s.ctxAt j := State.ctxAt_setCtx _ _ _ _

@[simp] theorem State.ctxAt_modCtx_same (s : State) (k : Nat) (f : Context → Context) :
    (s.modCtx k f).ctxAt k = f (s.ctxAt k) := by simp [State.ctxAt_modCtx]

theorem State.ctxAt_modCtx_other (s : State) {k j : Nat} (f : Context → Context) (h : k ≠ j) :
    (s.modCtx k f).ctxAt j = s.ctxAt j := by simp [State.ctxAt_modCtx, h]

theorem State.coreAt_setCore (s : State) (n m : Nat) (c : Core) :
    (s.setCore n c).coreAt m = if n = m then c else s.coreAt m := sget_sset _ _ _ _ _

@[simp] theorem State.coreAt_setCore_same (s : State) (n : Nat) (c : Core) : (s.setCore n c).coreAt n = c := by
  simp [State.coreAt_setCore]

theorem State.coreAt_modCore (s : State) (n m : Nat) (f : Core → Core) :
    (s.modCore n f).coreAt m = if n = m then f (s.coreAt n) else s.coreAt m := State.coreAt_setCore _ _ _ _

@[simp] theorem State.coreAt_modCore_same (s : State) (n : Nat) (f : Core → Core) :
    (s.modCore n f).coreAt n = f (s.coreAt n) := by simp [State.coreAt_modCore]

theorem State.pseudo_modPseudo (s : State) (n m : Nat) (f : Pseudo → Pseudo) :
    (s.modPseudo n f).pseudo m = if n = m then f (s.pseudo n) else s.pseudo m := sget_sset _ _ _ _ _

@[simp] theorem State.pseudo_modPseudo_same (s : State) (n : Nat) (f : Pseudo → Pseudo) :
    (s.modPseudo n f).pseudo n = f (s.pseudo n) := by simp [State.pseudo_modPseudo]

theorem State.link_modLink (s : State) (n m : Nat) (f : Link → Link) :
    (s.modLink n f).link m = if n = m then f (s.link n) else s.link m := sget_sset _ _ _ _ _

@[simp] theorem State.link_modLink_same (s : State) (n : Nat) (f : Link → Link) :
    (s.modLink n f).link n = f (s.link n) := by simp [State.link_modLink]

/-- A state with the same contexts, cores, pseudo-channels or links reads the same. -/
theorem State.ctxAt_congr {s t : State} (h : t.ctxs = s.ctxs) (k : Nat) : t.ctxAt k = s.ctxAt k := by
  simp [State.ctxAt, h]

theorem State.coreAt_congr {s t : State} (h : t.cores = s.cores) (n : Nat) : t.coreAt n = s.coreAt n := by
  simp [State.coreAt, h]

theorem State.poolByte_congr {s t : State} (h : t.cores = s.cores) (n a : Nat) : t.poolByte n a = s.poolByte n a := by
  simp [State.poolByte, State.coreAt, h]

@[simp] theorem State.post_ctxAt (s : State) (d : Due) (k : Nat) : (s.post d).ctxAt k = s.ctxAt k :=
  State.ctxAt_congr (by simp) k
@[simp] theorem State.post_coreAt (s : State) (d : Due) (k : Nat) : (s.post d).coreAt k = s.coreAt k :=
  State.coreAt_congr (by simp) k
@[simp] theorem State.after_ctxAt (s : State) (n r : Nat) (e : Event) (k : Nat) : (s.after n r e).ctxAt k = s.ctxAt k :=
  State.ctxAt_congr (by simp) k
@[simp] theorem State.after_coreAt (s : State) (n r : Nat) (e : Event) (k : Nat) : (s.after n r e).coreAt k = s.coreAt k :=
  State.coreAt_congr (by simp) k
@[simp] theorem State.postAll_ctxAt (s : State) (l : List Due) (k : Nat) : (s.postAll l).ctxAt k = s.ctxAt k :=
  State.ctxAt_congr (by simp) k
@[simp] theorem State.postAll_coreAt (s : State) (l : List Due) (k : Nat) : (s.postAll l).coreAt k = s.coreAt k :=
  State.coreAt_congr (by simp) k
@[simp] theorem State.emit_ctxAt (s : State) (n r : Nat) (e : Event) (k : Nat) : (s.emit n r e).ctxAt k = s.ctxAt k :=
  State.ctxAt_congr (by simp) k
@[simp] theorem State.emit_coreAt (s : State) (n r : Nat) (e : Event) (k : Nat) : (s.emit n r e).coreAt k = s.coreAt k :=
  State.coreAt_congr (by simp) k
@[simp] theorem State.drawn_ctxAt (s : State) (k : Nat) : s.drawn.ctxAt k = s.ctxAt k :=
  State.ctxAt_congr (by simp) k
@[simp] theorem State.drawn_coreAt (s : State) (k : Nat) : s.drawn.coreAt k = s.coreAt k :=
  State.coreAt_congr (by simp) k
@[simp] theorem State.setCtx_coreAt (s : State) (k : Nat) (c : Context) (n : Nat) : (s.setCtx k c).coreAt n = s.coreAt n := rfl
@[simp] theorem State.modCtx_coreAt (s : State) (k : Nat) (f : Context → Context) (n : Nat) : (s.modCtx k f).coreAt n = s.coreAt n := rfl
@[simp] theorem State.touch_coreAt (s : State) (k : Nat) (n : Nat) : (s.touch k).coreAt n = s.coreAt n := rfl
@[simp] theorem State.setCore_ctxAt (s : State) (n : Nat) (c : Core) (k : Nat) : (s.setCore n c).ctxAt k = s.ctxAt k := rfl
@[simp] theorem State.modCore_ctxAt (s : State) (n : Nat) (f : Core → Core) (k : Nat) : (s.modCore n f).ctxAt k = s.ctxAt k := rfl
@[simp] theorem State.poolWrite_ctxAt (s : State) (n a : Nat) (bs : List Byte) (k : Nat) : (s.poolWrite n a bs).ctxAt k = s.ctxAt k := rfl
@[simp] theorem State.poolCells_ctxAt (s : State) (n : Nat) (l : List (Nat × Byte)) (k : Nat) : (s.poolCells n l).ctxAt k = s.ctxAt k := rfl

/-! ### Bytes of a pool -/

/-- A pool write: the bytes written read as written, every other byte of every pool as before. -/
theorem State.poolByte_poolWrite (s : State) (n a : Nat) (bs : List Byte) (m b : Nat) :
    (s.poolWrite n a bs).poolByte m b =
      if n = m ∧ a ≤ b ∧ b < a + bs.length then bs.getD (b - a) 0 else s.poolByte m b := by
  unfold State.poolByte State.poolWrite
  rw [State.coreAt_modCore]
  by_cases h : n = m
  · subst h; simp [sget_swrite]
  · simp [h]

/-- Memory reads after a write. -/
theorem State.memByte_memWrite (s : State) (a : Nat) (bs : List Byte) (b : Nat) :
    (s.memWrite a bs).memByte b = if a ≤ b ∧ b < a + bs.length then bs.getD (b - a) 0 else s.memByte b := by
  simp [State.memByte, State.memWrite, sget_swrite]

/-- Every memory operation keeps the canonical form. -/
theorem Memory.wf_memWrite (s : State) (a : Nat) (bs : List Byte) (h : Memory.wf s.mem = true) :
    Memory.wf (s.memWrite a bs).mem = true := swf_swrite _ _ _ _ h

theorem Memory.wf_sset (m : Store Byte) (a : Nat) (b : Byte) (h : Memory.wf m = true) : Memory.wf (sset 0 m a b) = true :=
  swf_sset _ _ _ _ h

theorem Memory.wf_reset : Memory.wf State.reset.mem = true := rfl

end Sys2Proof.Machine
end

