-- ==== Sys2Proof/Laws/Ops.lean ====
section
/-!
SUPPORT. What each shared operation can do, said once: which fields of the state it may change (an equation that rebuilds the
state from those fields alone), and what it does where it succeeds.
-/

namespace Sys2Proof.Machine

/-! ### Shadowed writes -/

theorem State.applyShadow_eq (s : State) (k : Nat) (w : Shadow) :
    s.applyShadow k w = { s with ctxs := (s.applyShadow k w).ctxs, links := (s.applyShadow k w).links } := by
  unfold State.applyShadow
  split <;> rfl

theorem applyShadows_eq (k : Nat) (ws : List Shadow) (s : State) :
    ws.foldl (fun t w => t.applyShadow k w) s =
      { s with
        ctxs := (ws.foldl (fun t w => t.applyShadow k w) s).ctxs
        links := (ws.foldl (fun t w => t.applyShadow k w) s).links } := by
  induction ws generalizing s with
  | nil => rfl
  | cons w r ih =>
    simp only [List.foldl_cons]
    rw [ih (s.applyShadow k w)]
    rw [State.applyShadow_eq s k w]

/-- Making every shadowed write of a context effective changes contexts and the links' queue formats only. -/
theorem State.flushShadow_eq (s : State) (k : Nat) :
    s.flushShadow k = { s with ctxs := (s.flushShadow k).ctxs, links := (s.flushShadow k).links } := by
  unfold State.flushShadow
  rw [applyShadows_eq]
  rfl

theorem State.endShadow_eq (s : State) (k : Nat) :
    s.endShadow k = { s with ctxs := (s.endShadow k).ctxs, links := (s.endShadow k).links } := by
  unfold State.endShadow
  rw [applyShadows_eq]
  rfl

/-! ### Traps -/

/-- Raising a trap changes contexts only: no memory, no pool, no work. -/
theorem State.raiseTrap_eq (s : State) (k cause : Nat) (dfr : Bool) (pc : Word) (info : Reg) (more : Bool) :
    s.raiseTrap k cause dfr pc info more = { s with ctxs := (s.raiseTrap k cause dfr pc info more).ctxs } := rfl

/-- An issue trap also drops the bundle that is being issued, with all that its slots had in store. -/
theorem State.issueTrap_eq (s : State) (cause : Nat) (info : Reg) :
    s.issueTrap cause info = { s with ctxs := (s.issueTrap cause info).ctxs, cur := {} } := rfl

/-- A trap that is raised: its context leaves its bundles, for its handler, in supervisor mode for good. -/
theorem State.raiseTrap_ctx (s : State) (k cause : Nat) (dfr : Bool) (pc : Word) (info : Reg) (more : Bool) :
    (s.raiseTrap k cause dfr pc info more).ctxAt k =
      { s.ctxAt k with
        stage := if (s.ctxAt k).sup then .stopped else .trap
        bySup := (s.ctxAt k).sup || (s.ctxAt k).bySup
        trap := some { cause := cause, dfr := dfr, more := more, pc := pc, info := info, at_ := s.now }
        deferred := []
        held := none
        xfers := [.no, .no, .no] } := by
  simp [State.raiseTrap]

/-- A trap of user code: the context awaits its handler with the cause, the address and the information given. -/
theorem State.raiseTrap_user (s : State) (k cause : Nat) (dfr : Bool) (pc : Word) (info : Reg) (more : Bool)
    (h : (s.ctxAt k).sup = false) :
    ((s.raiseTrap k cause dfr pc info more).ctxAt k).stage = .trap ∧
      ((s.raiseTrap k cause dfr pc info more).ctxAt k).trap =
        some { cause := cause, dfr := dfr, more := more, pc := pc, info := info, at_ := s.now } := by
  simp [State.raiseTrap_ctx, h]

/-- Dropping the later steps of an instruction touches the work lists and the operations under way only. -/
theorem State.cancel_eq (s : State) (o : Origin) :
    s.cancel o =
      { s with
        agenda := (s.cancel o).agenda
        todo := (s.cancel o).todo
        muls := (s.cancel o).muls
        drains := (s.cancel o).drains } := rfl

theorem State.cancel_agenda (s : State) (o : Origin) (d : Due) :
    d ∈ (s.cancel o).agenda ↔ d ∈ s.agenda ∧ d.ev.origin ≠ some o := by
  simp [State.cancel]

/-- A deferred fault: the later steps of its instruction go, and only its own context changes. -/
theorem State.fault_eq (s : State) (o : Origin) (sub cause : Nat) (info : Reg) :
    s.fault o sub cause info =
      { s with
        agenda := (s.cancel o).agenda
        todo := (s.cancel o).todo
        muls := (s.cancel o).muls
        drains := (s.cancel o).drains
        ctxs := (s.fault o sub cause info).ctxs } := by
  unfold State.fault
  dsimp only
  split <;> rfl

theorem State.fault_ctxAt (s : State) (o : Origin) (sub cause : Nat) (info : Reg) (k : Nat) (h : k ≠ o.ctx) :
    (s.fault o sub cause info).ctxAt k = s.ctxAt k := by
  have hc : ∀ j, (s.cancel o).ctxAt j = s.ctxAt j := fun _ => rfl
  unfold State.fault
  dsimp only
  split <;> simp [State.ctxAt_modCtx_other _ _ (Ne.symm h), hc]

/-- The deferred fault of a running context stands in its list. -/
theorem State.fault_run (s : State) (o : Origin) (sub cause : Nat) (info : Reg) (h : (s.ctxAt o.ctx).stage = .run) :
    ((s.fault o sub cause info).ctxAt o.ctx) =
      { s.ctxAt o.ctx with
        deferred := (s.ctxAt o.ctx).deferred ++ [s.deferredOf o sub cause info] } := by
  have hc : ∀ j, (s.cancel o).ctxAt j = s.ctxAt j := fun _ => rfl
  have hd : (s.cancel o).deferredOf o sub cause info = s.deferredOf o sub cause info := rfl
  simp [State.fault, hc, hd, h]

theorem State.resolveCtx_eq (s : State) (k : Nat) : s.resolveCtx k = { s with ctxs := (s.resolveCtx k).ctxs } := by
  unfold State.resolveCtx
  dsimp only
  split
  · rfl
  · split <;> rfl

theorem State.enterHandler_eq (s : State) (k : Nat) :
    s.enterHandler k = { s with ctxs := (s.enterHandler k).ctxs, links := (s.enterHandler k).links } := by
  unfold State.enterHandler
  split
  · rfl
  · unfold State.modCtx State.setCtx
    rw [State.flushShadow_eq s k]

/-! ### The quiet record -/

theorem State.record_eq (s : State) (k : Nat) (pc : Word) :
    s.record k pc = { s with ctxs := (s.record k pc).ctxs, loans := (s.record k pc).loans } := rfl

theorem State.returnToRecord_eq (s : State) (k : Nat) :
    s.returnToRecord k = { s with ctxs := (s.returnToRecord k).ctxs, loans := (s.returnToRecord k).loans } := rfl

/-! ### Writes that land -/

/-- A landing write changes contexts and cores only. -/
theorem State.applyWrite_eq (s : State) (k : Nat) (w : Write) :
    s.applyWrite k w = { s with ctxs := (s.applyWrite k w).ctxs, cores := (s.applyWrite k w).cores } := by
  unfold State.applyWrite
  split <;> rfl

/-! ### Guards, modes and grants -/

theorem whenGuard_pass (s : State) (g : Guard) (f : State → State) (h : s.me.passes g = true) :
    whenGuard s g f = .next (f s) := by simp [whenGuard, h]

theorem whenGuard_fail (s : State) (g : Guard) (f : State → State) (h : s.me.passes g = false) :
    whenGuard s g f = .next s := by simp [whenGuard, h]

theorem whenPriv_sup (s : State) (f : State → Out) (h : s.me.sup = true) : whenPriv s f = f s := by simp [whenPriv, h]

theorem whenPriv_user (s : State) (f : State → Out) (h : s.me.sup = false) :
    whenPriv s f = .next (s.issueTrap 0x03 (infoPrivilege s.slotWord s.slotNo 0 0)) := by simp [whenPriv, h]

theorem whenGrant_has (s : State) (f : State → Out) : whenGrant s true f = f s := rfl

theorem whenGrant_lacks (s : State) (f : State → Out) :
    whenGrant s false f = .next (s.issueTrap 0x03 (infoPrivilege s.slotWord s.slotNo 2 0)) := rfl

/-! ### Shelves -/

theorem State.changeShelf_eq (s : State) (k sh : Nat) (d : Shelf) :
    s.changeShelf k sh d = { s with ctxs := (s.changeShelf k sh d).ctxs } := rfl

/-- Counting corrected errors changes the counter of its core only. -/
theorem State.countPool_eq (s : State) (k addr n : Nat) :
    s.countPool k addr n = { s with cores := (s.countPool k addr n).cores } := by
  unfold State.countPool
  dsimp only
  split <;> rfl

@[simp] theorem State.countPool_ctxAt (s : State) (k addr n j : Nat) : (s.countPool k addr n).ctxAt j = s.ctxAt j := by
  rw [State.countPool_eq]; rfl

/-- A pool without stored errors has none to count. -/
theorem State.countPool_clean (s : State) (k addr n : Nat) (h : (s.coreAt (coreOf k)).poolSoft = []) :
    s.countPool k addr n = s := by simp [State.countPool, h]

/-- A read of pool bytes may only mark its own shelf poisoned and count corrected errors. -/
theorem State.readPoison_eq (s : State) (k : Nat) (a : Access) (back : Bool) :
    (s.readPoison k a back).1 =
      { s with ctxs := ((s.readPoison k a back).1).ctxs, cores := ((s.readPoison k a back).1).cores } := by
  unfold State.readPoison
  dsimp only
  rw [State.countPool_eq]
  split <;> rfl

/-- A read that finds no poison counts the errors that the code corrects, and changes nothing else. -/
theorem State.readPoison_pass (s : State) (k : Nat) (a : Access) (back : Bool) (h : (s.readPoison k a back).2 = false) :
    (s.readPoison k a back).1 = s.countPool k ((s.ctxAt k).accessAddr a back) a.size := by
  simp only [State.readPoison, Bool.or_eq_false_iff] at h ⊢
  simp [h.1]

/-- A read check may only mark its own shelf poisoned and count corrected errors. -/
theorem State.readHalf_eq (s : State) (k : Nat) (a : Access) (align : Nat) (back : Bool) :
    (s.readHalf k a align back).1 =
      { s with ctxs := ((s.readHalf k a align back).1).ctxs, cores := ((s.readHalf k a align back).1).cores } := by
  unfold State.readHalf State.readBytes
  dsimp only
  split
  · rfl
  · split
    · rfl
    · exact s.readPoison_eq k a back

theorem State.readCheck_eq (s : State) (k : Nat) (a : Access) (align : Nat) :
    (s.readCheck k a align).1 =
      { s with ctxs := ((s.readCheck k a align).1).ctxs, cores := ((s.readCheck k a align).1).cores } :=
  s.readHalf_eq k a align false

/-- A read check that passes counts the errors that the code corrects, and changes nothing else. -/
theorem State.readCheck_pass (s : State) (k : Nat) (a : Access) (align : Nat) (h : (s.readCheck k a align).2 = none) :
    (s.readCheck k a align).1 = s.countPool k ((s.ctxAt k).accessAddr a false) a.size := by
  unfold State.readCheck State.readHalf State.readBytes at h ⊢
  dsimp only at h ⊢
  split at h
  · cases h
  · split at h
    · cases h
    · rename_i h1 h2
      simp only [h1, h2, if_false, Bool.false_eq_true]
      cases hb : (s.readPoison k a false).2
      · exact s.readPoison_pass k a false hb
      · simp [hb] at h

theorem State.shelfStore_mem (s : State) (k : Nat) (a : Access) (bs : List Byte) : (s.shelfStore k a bs).mem = s.mem := rfl

theorem State.timedTransition_eq (s : State) (o : Origin) (sub sh : Nat) (t : Trans) :
    s.timedTransition o sub sh t =
      { s with
        agenda := (s.timedTransition o sub sh t).agenda
        todo := (s.timedTransition o sub sh t).todo
        muls := (s.timedTransition o sub sh t).muls
        drains := (s.timedTransition o sub sh t).drains
        ctxs := (s.timedTransition o sub sh t).ctxs } := by
  unfold State.timedTransition
  split
  · split
    · rfl
    · simp only [State.changeShelf, State.keepSeen, State.keepOlder, State.modCtx, State.setCtx]
  · rw [State.fault_eq]

/-! ### Slots of L and copies -/

/-- A scalar load slot: nothing, a poison trap, or the sample at t+2. -/
theorem loadSlot_clean (s : State) (g : Guard) (regs : List Nat) (acc : Context → Access) (d : BitVec 5) (x spec : Bool)
    (hg : s.me.passes g = true) (hc : regs.find? (fun i => s.me.poisonL i) = none) :
    loadSlot s g regs acc d x spec =
      .next (s.emit 2 rankSample (.op (.scalarLoadSample (s.here unitL) (acc s.me) d.toNat x spec))) := by
  simp only [loadSlot, whenGuard, hg, hc, if_true]

theorem loadSlot_poisoned (s : State) (g : Guard) (regs : List Nat) (acc : Context → Access) (d : BitVec 5) (x spec : Bool)
    (i : Nat) (hg : s.me.passes g = true) (hc : regs.find? (fun i => s.me.poisonL i) = some i) :
    loadSlot s g regs acc d x spec = .next (s.poisoned unitL i) := by
  simp only [loadSlot, whenGuard, hg, hc, if_true]

theorem storeSlot_clean (s : State) (g : Guard) (regs : List Nat) (acc : Context → Access) (v : BitVec 5)
    (hg : s.me.passes g = true) (hc : regs.find? (fun i => s.me.poisonL i) = none) :
    storeSlot s g regs acc v = .next (s.emit 2 (rankPerform unitL)
      (.op (.scalarStorePerform (s.here unitL) (acc s.me) (s.me.regL v.toNat)))) := by
  simp only [storeSlot, whenGuard, hg, hc, if_true]

theorem storeSlot_poisoned (s : State) (g : Guard) (regs : List Nat) (acc : Context → Access) (v : BitVec 5) (i : Nat)
    (hg : s.me.passes g = true) (hc : regs.find? (fun i => s.me.poisonL i) = some i) :
    storeSlot s g regs acc v = .next (s.poisoned unitL i) := by
  simp only [storeSlot, whenGuard, hg, hc, if_true]

theorem shelfSlot_pass (s : State) (g : Guard) (sh : BitVec 6) (t : Trans) (hg : s.me.passes g = true) :
    shelfSlot s g sh t = .next (s.emit 2 (rankShelf unitL)
      (.op (.shelfTransitionApply (s.here unitL) sh.toNat t))) := by
  simp only [shelfSlot, whenGuard, hg, if_true]

theorem copySlotL_pass (s : State) (g : Guard) (d : BitVec 5) (v : Context → Reg) (hg : s.me.passes g = true) :
    copySlotL s g d v = .next (s.land unitL 2 (.l d.toNat (v s.me) false)) := by
  simp only [copySlotL, whenGuard, hg, if_true]

/-! ### The step -/

theorem step_slot (s : State) (h : s.cur.open_ = true) (hi : s.cur.idx < s.cur.words.length) : step s = s.runSlot := by
  simp [step, h, hi]

theorem step_commit (s : State) (h : s.cur.open_ = true) (hi : ¬ s.cur.idx < s.cur.words.length) :
    step s = .next s.commitBundle := by simp [step, h, hi]

theorem step_event (s : State) (d : Due) (r : List Due) (h : s.cur.open_ = false) (ht : s.todo = d :: r) :
    step s = State.runEvent { s with todo := r } d.ev := by
  simp only [step, h, ht, Bool.false_eq_true, if_false]

theorem step_advance (s : State) (h : s.cur.open_ = false) (ht : s.todo = []) : step s = .next s.advance := by
  simp only [step, h, ht, Bool.false_eq_true, if_false]

/-- The next cycle changes the clock and the work lists only. -/
theorem State.advance_eq (s : State) :
    s.advance = { s with
      now := s.now + 1
      agenda := (s.advance).agenda
      late := (s.advance).late
      inputs := (s.advance).inputs
      todo := (s.advance).todo } := rfl

/-! ### Fields that stand -/

@[simp] theorem State.flushShadow_mem (s : State) (k : Nat) :
    (s.flushShadow k).mem = s.mem := by rw [State.flushShadow_eq]
@[simp] theorem State.flushShadow_badCols (s : State) (k : Nat) :
    (s.flushShadow k).badCols = s.badCols := by rw [State.flushShadow_eq]
@[simp] theorem State.flushShadow_cores (s : State) (k : Nat) :
    (s.flushShadow k).cores = s.cores := by rw [State.flushShadow_eq]
@[simp] theorem State.flushShadow_pcs (s : State) (k : Nat) :
    (s.flushShadow k).pcs = s.pcs := by rw [State.flushShadow_eq]
@[simp] theorem State.flushShadow_errata (s : State) (k : Nat) :
    (s.flushShadow k).errata = s.errata := by rw [State.flushShadow_eq]
@[simp] theorem State.flushShadow_bars (s : State) (k : Nat) :
    (s.flushShadow k).bars = s.bars := by rw [State.flushShadow_eq]
@[simp] theorem State.flushShadow_now (s : State) (k : Nat) :
    (s.flushShadow k).now = s.now := by rw [State.flushShadow_eq]
@[simp] theorem State.flushShadow_launches (s : State) (k : Nat) :
    (s.flushShadow k).launches = s.launches := by rw [State.flushShadow_eq]
@[simp] theorem State.flushShadow_latches (s : State) (k : Nat) :
    (s.flushShadow k).latches = s.latches := by rw [State.flushShadow_eq]
@[simp] theorem State.flushShadow_loans (s : State) (k : Nat) :
    (s.flushShadow k).loans = s.loans := by rw [State.flushShadow_eq]
@[simp] theorem State.flushShadow_timing (s : State) (k : Nat) :
    (s.flushShadow k).timing = s.timing := by rw [State.flushShadow_eq]
@[simp] theorem State.flushShadow_owners (s : State) (k : Nat) :
    (s.flushShadow k).owners = s.owners := by rw [State.flushShadow_eq]
@[simp] theorem State.flushShadow_skew (s : State) (k : Nat) :
    (s.flushShadow k).skew = s.skew := by rw [State.flushShadow_eq]
@[simp] theorem State.flushShadow_free (s : State) (k : Nat) :
    (s.flushShadow k).free = s.free := by rw [State.flushShadow_eq]
@[simp] theorem State.flushShadow_todo (s : State) (k : Nat) :
    (s.flushShadow k).todo = s.todo := by rw [State.flushShadow_eq]
@[simp] theorem State.flushShadow_agenda (s : State) (k : Nat) :
    (s.flushShadow k).agenda = s.agenda := by rw [State.flushShadow_eq]

@[simp] theorem State.endShadow_mem (s : State) (k : Nat) :
    (s.endShadow k).mem = s.mem := by rw [State.endShadow_eq]
@[simp] theorem State.endShadow_badCols (s : State) (k : Nat) :
    (s.endShadow k).badCols = s.badCols := by rw [State.endShadow_eq]
@[simp] theorem State.endShadow_cores (s : State) (k : Nat) :
    (s.endShadow k).cores = s.cores := by rw [State.endShadow_eq]
@[simp] theorem State.endShadow_pcs (s : State) (k : Nat) :
    (s.endShadow k).pcs = s.pcs := by rw [State.endShadow_eq]
@[simp] theorem State.endShadow_errata (s : State) (k : Nat) :
    (s.endShadow k).errata = s.errata := by rw [State.endShadow_eq]
@[simp] theorem State.endShadow_bars (s : State) (k : Nat) :
    (s.endShadow k).bars = s.bars := by rw [State.endShadow_eq]
@[simp] theorem State.endShadow_now (s : State) (k : Nat) :
    (s.endShadow k).now = s.now := by rw [State.endShadow_eq]
@[simp] theorem State.endShadow_launches (s : State) (k : Nat) :
    (s.endShadow k).launches = s.launches := by rw [State.endShadow_eq]
@[simp] theorem State.endShadow_latches (s : State) (k : Nat) :
    (s.endShadow k).latches = s.latches := by rw [State.endShadow_eq]
@[simp] theorem State.endShadow_loans (s : State) (k : Nat) :
    (s.endShadow k).loans = s.loans := by rw [State.endShadow_eq]
@[simp] theorem State.endShadow_timing (s : State) (k : Nat) :
    (s.endShadow k).timing = s.timing := by rw [State.endShadow_eq]
@[simp] theorem State.endShadow_owners (s : State) (k : Nat) :
    (s.endShadow k).owners = s.owners := by rw [State.endShadow_eq]
@[simp] theorem State.endShadow_skew (s : State) (k : Nat) :
    (s.endShadow k).skew = s.skew := by rw [State.endShadow_eq]
@[simp] theorem State.endShadow_free (s : State) (k : Nat) :
    (s.endShadow k).free = s.free := by rw [State.endShadow_eq]
@[simp] theorem State.endShadow_todo (s : State) (k : Nat) :
    (s.endShadow k).todo = s.todo := by rw [State.endShadow_eq]
@[simp] theorem State.endShadow_agenda (s : State) (k : Nat) :
    (s.endShadow k).agenda = s.agenda := by rw [State.endShadow_eq]

@[simp] theorem State.raiseTrap_mem (s : State) (k c : Nat) (d : Bool) (pc : Word) (i : Reg) (m : Bool) :
    (s.raiseTrap k c d pc i m).mem = s.mem := by rw [State.raiseTrap_eq]
@[simp] theorem State.raiseTrap_badCols (s : State) (k c : Nat) (d : Bool) (pc : Word) (i : Reg) (m : Bool) :
    (s.raiseTrap k c d pc i m).badCols = s.badCols := by rw [State.raiseTrap_eq]
@[simp] theorem State.raiseTrap_cores (s : State) (k c : Nat) (d : Bool) (pc : Word) (i : Reg) (m : Bool) :
    (s.raiseTrap k c d pc i m).cores = s.cores := by rw [State.raiseTrap_eq]
@[simp] theorem State.raiseTrap_pcs (s : State) (k c : Nat) (d : Bool) (pc : Word) (i : Reg) (m : Bool) :
    (s.raiseTrap k c d pc i m).pcs = s.pcs := by rw [State.raiseTrap_eq]
@[simp] theorem State.raiseTrap_errata (s : State) (k c : Nat) (d : Bool) (pc : Word) (i : Reg) (m : Bool) :
    (s.raiseTrap k c d pc i m).errata = s.errata := by rw [State.raiseTrap_eq]
@[simp] theorem State.raiseTrap_bars (s : State) (k c : Nat) (d : Bool) (pc : Word) (i : Reg) (m : Bool) :
    (s.raiseTrap k c d pc i m).bars = s.bars := by rw [State.raiseTrap_eq]
@[simp] theorem State.raiseTrap_now (s : State) (k c : Nat) (d : Bool) (pc : Word) (i : Reg) (m : Bool) :
    (s.raiseTrap k c d pc i m).now = s.now := by rw [State.raiseTrap_eq]
@[simp] theorem State.raiseTrap_launches (s : State) (k c : Nat) (d : Bool) (pc : Word) (i : Reg) (m : Bool) :
    (s.raiseTrap k c d pc i m).launches = s.launches := by rw [State.raiseTrap_eq]
@[simp] theorem State.raiseTrap_latches (s : State) (k c : Nat) (d : Bool) (pc : Word) (i : Reg) (m : Bool) :
    (s.raiseTrap k c d pc i m).latches = s.latches := by rw [State.raiseTrap_eq]
@[simp] theorem State.raiseTrap_loans (s : State) (k c : Nat) (d : Bool) (pc : Word) (i : Reg) (m : Bool) :
    (s.raiseTrap k c d pc i m).loans = s.loans := by rw [State.raiseTrap_eq]
@[simp] theorem State.raiseTrap_timing (s : State) (k c : Nat) (d : Bool) (pc : Word) (i : Reg) (m : Bool) :
    (s.raiseTrap k c d pc i m).timing = s.timing := by rw [State.raiseTrap_eq]
@[simp] theorem State.raiseTrap_owners (s : State) (k c : Nat) (d : Bool) (pc : Word) (i : Reg) (m : Bool) :
    (s.raiseTrap k c d pc i m).owners = s.owners := by rw [State.raiseTrap_eq]
@[simp] theorem State.raiseTrap_skew (s : State) (k c : Nat) (d : Bool) (pc : Word) (i : Reg) (m : Bool) :
    (s.raiseTrap k c d pc i m).skew = s.skew := by rw [State.raiseTrap_eq]
@[simp] theorem State.raiseTrap_free (s : State) (k c : Nat) (d : Bool) (pc : Word) (i : Reg) (m : Bool) :
    (s.raiseTrap k c d pc i m).free = s.free := by rw [State.raiseTrap_eq]
@[simp] theorem State.raiseTrap_todo (s : State) (k c : Nat) (d : Bool) (pc : Word) (i : Reg) (m : Bool) :
    (s.raiseTrap k c d pc i m).todo = s.todo := by rw [State.raiseTrap_eq]
@[simp] theorem State.raiseTrap_agenda (s : State) (k c : Nat) (d : Bool) (pc : Word) (i : Reg) (m : Bool) :
    (s.raiseTrap k c d pc i m).agenda = s.agenda := by rw [State.raiseTrap_eq]

@[simp] theorem State.issueTrap_mem (s : State) (c : Nat) (i : Reg) :
    (s.issueTrap c i).mem = s.mem := by rw [State.issueTrap_eq]
@[simp] theorem State.issueTrap_badCols (s : State) (c : Nat) (i : Reg) :
    (s.issueTrap c i).badCols = s.badCols := by rw [State.issueTrap_eq]
@[simp] theorem State.issueTrap_cores (s : State) (c : Nat) (i : Reg) :
    (s.issueTrap c i).cores = s.cores := by rw [State.issueTrap_eq]
@[simp] theorem State.issueTrap_pcs (s : State) (c : Nat) (i : Reg) :
    (s.issueTrap c i).pcs = s.pcs := by rw [State.issueTrap_eq]
@[simp] theorem State.issueTrap_errata (s : State) (c : Nat) (i : Reg) :
    (s.issueTrap c i).errata = s.errata := by rw [State.issueTrap_eq]
@[simp] theorem State.issueTrap_bars (s : State) (c : Nat) (i : Reg) :
    (s.issueTrap c i).bars = s.bars := by rw [State.issueTrap_eq]
@[simp] theorem State.issueTrap_now (s : State) (c : Nat) (i : Reg) :
    (s.issueTrap c i).now = s.now := by rw [State.issueTrap_eq]
@[simp] theorem State.issueTrap_launches (s : State) (c : Nat) (i : Reg) :
    (s.issueTrap c i).launches = s.launches := by rw [State.issueTrap_eq]
@[simp] theorem State.issueTrap_latches (s : State) (c : Nat) (i : Reg) :
    (s.issueTrap c i).latches = s.latches := by rw [State.issueTrap_eq]
@[simp] theorem State.issueTrap_loans (s : State) (c : Nat) (i : Reg) :
    (s.issueTrap c i).loans = s.loans := by rw [State.issueTrap_eq]
@[simp] theorem State.issueTrap_timing (s : State) (c : Nat) (i : Reg) :
    (s.issueTrap c i).timing = s.timing := by rw [State.issueTrap_eq]
@[simp] theorem State.issueTrap_owners (s : State) (c : Nat) (i : Reg) :
    (s.issueTrap c i).owners = s.owners := by rw [State.issueTrap_eq]
@[simp] theorem State.issueTrap_skew (s : State) (c : Nat) (i : Reg) :
    (s.issueTrap c i).skew = s.skew := by rw [State.issueTrap_eq]
@[simp] theorem State.issueTrap_free (s : State) (c : Nat) (i : Reg) :
    (s.issueTrap c i).free = s.free := by rw [State.issueTrap_eq]
@[simp] theorem State.issueTrap_todo (s : State) (c : Nat) (i : Reg) :
    (s.issueTrap c i).todo = s.todo := by rw [State.issueTrap_eq]
@[simp] theorem State.issueTrap_agenda (s : State) (c : Nat) (i : Reg) :
    (s.issueTrap c i).agenda = s.agenda := by rw [State.issueTrap_eq]

@[simp] theorem State.fault_mem (s : State) (o : Origin) (n c : Nat) (i : Reg) :
    (s.fault o n c i).mem = s.mem := by rw [State.fault_eq]
@[simp] theorem State.fault_badCols (s : State) (o : Origin) (n c : Nat) (i : Reg) :
    (s.fault o n c i).badCols = s.badCols := by rw [State.fault_eq]
@[simp] theorem State.fault_cores (s : State) (o : Origin) (n c : Nat) (i : Reg) :
    (s.fault o n c i).cores = s.cores := by rw [State.fault_eq]
@[simp] theorem State.fault_pcs (s : State) (o : Origin) (n c : Nat) (i : Reg) :
    (s.fault o n c i).pcs = s.pcs := by rw [State.fault_eq]
@[simp] theorem State.fault_errata (s : State) (o : Origin) (n c : Nat) (i : Reg) :
    (s.fault o n c i).errata = s.errata := by rw [State.fault_eq]
@[simp] theorem State.fault_bars (s : State) (o : Origin) (n c : Nat) (i : Reg) :
    (s.fault o n c i).bars = s.bars := by rw [State.fault_eq]
@[simp] theorem State.fault_now (s : State) (o : Origin) (n c : Nat) (i : Reg) :
    (s.fault o n c i).now = s.now := by rw [State.fault_eq]
@[simp] theorem State.fault_launches (s : State) (o : Origin) (n c : Nat) (i : Reg) :
    (s.fault o n c i).launches = s.launches := by rw [State.fault_eq]
@[simp] theorem State.fault_latches (s : State) (o : Origin) (n c : Nat) (i : Reg) :
    (s.fault o n c i).latches = s.latches := by rw [State.fault_eq]
@[simp] theorem State.fault_loans (s : State) (o : Origin) (n c : Nat) (i : Reg) :
    (s.fault o n c i).loans = s.loans := by rw [State.fault_eq]
@[simp] theorem State.fault_timing (s : State) (o : Origin) (n c : Nat) (i : Reg) :
    (s.fault o n c i).timing = s.timing := by rw [State.fault_eq]
@[simp] theorem State.fault_owners (s : State) (o : Origin) (n c : Nat) (i : Reg) :
    (s.fault o n c i).owners = s.owners := by rw [State.fault_eq]
@[simp] theorem State.fault_skew (s : State) (o : Origin) (n c : Nat) (i : Reg) :
    (s.fault o n c i).skew = s.skew := by rw [State.fault_eq]
@[simp] theorem State.fault_free (s : State) (o : Origin) (n c : Nat) (i : Reg) :
    (s.fault o n c i).free = s.free := by rw [State.fault_eq]
@[simp] theorem State.fault_links (s : State) (o : Origin) (n c : Nat) (i : Reg) :
    (s.fault o n c i).links = s.links := by rw [State.fault_eq]

@[simp] theorem State.resolveCtx_mem (s : State) (k : Nat) :
    (s.resolveCtx k).mem = s.mem := by rw [State.resolveCtx_eq]
@[simp] theorem State.resolveCtx_badCols (s : State) (k : Nat) :
    (s.resolveCtx k).badCols = s.badCols := by rw [State.resolveCtx_eq]
@[simp] theorem State.resolveCtx_cores (s : State) (k : Nat) :
    (s.resolveCtx k).cores = s.cores := by rw [State.resolveCtx_eq]
@[simp] theorem State.resolveCtx_pcs (s : State) (k : Nat) :
    (s.resolveCtx k).pcs = s.pcs := by rw [State.resolveCtx_eq]
@[simp] theorem State.resolveCtx_errata (s : State) (k : Nat) :
    (s.resolveCtx k).errata = s.errata := by rw [State.resolveCtx_eq]
@[simp] theorem State.resolveCtx_bars (s : State) (k : Nat) :
    (s.resolveCtx k).bars = s.bars := by rw [State.resolveCtx_eq]
@[simp] theorem State.resolveCtx_now (s : State) (k : Nat) :
    (s.resolveCtx k).now = s.now := by rw [State.resolveCtx_eq]
@[simp] theorem State.resolveCtx_launches (s : State) (k : Nat) :
    (s.resolveCtx k).launches = s.launches := by rw [State.resolveCtx_eq]
@[simp] theorem State.resolveCtx_latches (s : State) (k : Nat) :
    (s.resolveCtx k).latches = s.latches := by rw [State.resolveCtx_eq]
@[simp] theorem State.resolveCtx_loans (s : State) (k : Nat) :
    (s.resolveCtx k).loans = s.loans := by rw [State.resolveCtx_eq]
@[simp] theorem State.resolveCtx_timing (s : State) (k : Nat) :
    (s.resolveCtx k).timing = s.timing := by rw [State.resolveCtx_eq]
@[simp] theorem State.resolveCtx_owners (s : State) (k : Nat) :
    (s.resolveCtx k).owners = s.owners := by rw [State.resolveCtx_eq]
@[simp] theorem State.resolveCtx_skew (s : State) (k : Nat) :
    (s.resolveCtx k).skew = s.skew := by rw [State.resolveCtx_eq]
@[simp] theorem State.resolveCtx_free (s : State) (k : Nat) :
    (s.resolveCtx k).free = s.free := by rw [State.resolveCtx_eq]
@[simp] theorem State.resolveCtx_todo (s : State) (k : Nat) :
    (s.resolveCtx k).todo = s.todo := by rw [State.resolveCtx_eq]
@[simp] theorem State.resolveCtx_agenda (s : State) (k : Nat) :
    (s.resolveCtx k).agenda = s.agenda := by rw [State.resolveCtx_eq]

@[simp] theorem State.enterHandler_mem (s : State) (k : Nat) :
    (s.enterHandler k).mem = s.mem := by rw [State.enterHandler_eq]
@[simp] theorem State.enterHandler_badCols (s : State) (k : Nat) :
    (s.enterHandler k).badCols = s.badCols := by rw [State.enterHandler_eq]
@[simp] theorem State.enterHandler_cores (s : State) (k : Nat) :
    (s.enterHandler k).cores = s.cores := by rw [State.enterHandler_eq]
@[simp] theorem State.enterHandler_pcs (s : State) (k : Nat) :
    (s.enterHandler k).pcs = s.pcs := by rw [State.enterHandler_eq]
@[simp] theorem State.enterHandler_errata (s : State) (k : Nat) :
    (s.enterHandler k).errata = s.errata := by rw [State.enterHandler_eq]
@[simp] theorem State.enterHandler_bars (s : State) (k : Nat) :
    (s.enterHandler k).bars = s.bars := by rw [State.enterHandler_eq]
@[simp] theorem State.enterHandler_now (s : State) (k : Nat) :
    (s.enterHandler k).now = s.now := by rw [State.enterHandler_eq]
@[simp] theorem State.enterHandler_launches (s : State) (k : Nat) :
    (s.enterHandler k).launches = s.launches := by rw [State.enterHandler_eq]
@[simp] theorem State.enterHandler_latches (s : State) (k : Nat) :
    (s.enterHandler k).latches = s.latches := by rw [State.enterHandler_eq]
@[simp] theorem State.enterHandler_loans (s : State) (k : Nat) :
    (s.enterHandler k).loans = s.loans := by rw [State.enterHandler_eq]
@[simp] theorem State.enterHandler_timing (s : State) (k : Nat) :
    (s.enterHandler k).timing = s.timing := by rw [State.enterHandler_eq]
@[simp] theorem State.enterHandler_owners (s : State) (k : Nat) :
    (s.enterHandler k).owners = s.owners := by rw [State.enterHandler_eq]
@[simp] theorem State.enterHandler_skew (s : State) (k : Nat) :
    (s.enterHandler k).skew = s.skew := by rw [State.enterHandler_eq]
@[simp] theorem State.enterHandler_free (s : State) (k : Nat) :
    (s.enterHandler k).free = s.free := by rw [State.enterHandler_eq]
@[simp] theorem State.enterHandler_todo (s : State) (k : Nat) :
    (s.enterHandler k).todo = s.todo := by rw [State.enterHandler_eq]
@[simp] theorem State.enterHandler_agenda (s : State) (k : Nat) :
    (s.enterHandler k).agenda = s.agenda := by rw [State.enterHandler_eq]
@[simp] theorem State.resolveCtx_links (s : State) (k : Nat) :
    (s.resolveCtx k).links = s.links := by rw [State.resolveCtx_eq]
@[simp] theorem State.issueTrap_links (s : State) (c : Nat) (i : Reg) :
    (s.issueTrap c i).links = s.links := by rw [State.issueTrap_eq]
@[simp] theorem State.raiseTrap_links (s : State) (k c : Nat) (d : Bool) (pc : Word) (i : Reg) (m : Bool) :
    (s.raiseTrap k c d pc i m).links = s.links := by rw [State.raiseTrap_eq]

@[simp] theorem State.timedTransition_mem (s : State) (o : Origin) (n sh : Nat) (t : Trans) :
    (s.timedTransition o n sh t).mem = s.mem := by rw [State.timedTransition_eq]
@[simp] theorem State.timedTransition_badCols (s : State) (o : Origin) (n sh : Nat) (t : Trans) :
    (s.timedTransition o n sh t).badCols = s.badCols := by rw [State.timedTransition_eq]
@[simp] theorem State.timedTransition_cores (s : State) (o : Origin) (n sh : Nat) (t : Trans) :
    (s.timedTransition o n sh t).cores = s.cores := by rw [State.timedTransition_eq]
@[simp] theorem State.timedTransition_pcs (s : State) (o : Origin) (n sh : Nat) (t : Trans) :
    (s.timedTransition o n sh t).pcs = s.pcs := by rw [State.timedTransition_eq]
@[simp] theorem State.timedTransition_errata (s : State) (o : Origin) (n sh : Nat) (t : Trans) :
    (s.timedTransition o n sh t).errata = s.errata := by rw [State.timedTransition_eq]
@[simp] theorem State.timedTransition_bars (s : State) (o : Origin) (n sh : Nat) (t : Trans) :
    (s.timedTransition o n sh t).bars = s.bars := by rw [State.timedTransition_eq]
@[simp] theorem State.timedTransition_now (s : State) (o : Origin) (n sh : Nat) (t : Trans) :
    (s.timedTransition o n sh t).now = s.now := by rw [State.timedTransition_eq]
@[simp] theorem State.timedTransition_launches (s : State) (o : Origin) (n sh : Nat) (t : Trans) :
    (s.timedTransition o n sh t).launches = s.launches := by rw [State.timedTransition_eq]
@[simp] theorem State.timedTransition_latches (s : State) (o : Origin) (n sh : Nat) (t : Trans) :
    (s.timedTransition o n sh t).latches = s.latches := by rw [State.timedTransition_eq]
@[simp] theorem State.timedTransition_loans (s : State) (o : Origin) (n sh : Nat) (t : Trans) :
    (s.timedTransition o n sh t).loans = s.loans := by rw [State.timedTransition_eq]
@[simp] theorem State.timedTransition_timing (s : State) (o : Origin) (n sh : Nat) (t : Trans) :
    (s.timedTransition o n sh t).timing = s.timing := by rw [State.timedTransition_eq]
@[simp] theorem State.timedTransition_owners (s : State) (o : Origin) (n sh : Nat) (t : Trans) :
    (s.timedTransition o n sh t).owners = s.owners := by rw [State.timedTransition_eq]
@[simp] theorem State.timedTransition_skew (s : State) (o : Origin) (n sh : Nat) (t : Trans) :
    (s.timedTransition o n sh t).skew = s.skew := by rw [State.timedTransition_eq]
@[simp] theorem State.timedTransition_free (s : State) (o : Origin) (n sh : Nat) (t : Trans) :
    (s.timedTransition o n sh t).free = s.free := by rw [State.timedTransition_eq]
@[simp] theorem State.timedTransition_links (s : State) (o : Origin) (n sh : Nat) (t : Trans) :
    (s.timedTransition o n sh t).links = s.links := by rw [State.timedTransition_eq]

@[simp] theorem State.applyWrite_mem (s : State) (k : Nat) (w : Write) :
    (s.applyWrite k w).mem = s.mem := by rw [State.applyWrite_eq]
@[simp] theorem State.applyWrite_badCols (s : State) (k : Nat) (w : Write) :
    (s.applyWrite k w).badCols = s.badCols := by rw [State.applyWrite_eq]
@[simp] theorem State.applyWrite_pcs (s : State) (k : Nat) (w : Write) :
    (s.applyWrite k w).pcs = s.pcs := by rw [State.applyWrite_eq]
@[simp] theorem State.applyWrite_errata (s : State) (k : Nat) (w : Write) :
    (s.applyWrite k w).errata = s.errata := by rw [State.applyWrite_eq]
@[simp] theorem State.applyWrite_bars (s : State) (k : Nat) (w : Write) :
    (s.applyWrite k w).bars = s.bars := by rw [State.applyWrite_eq]
@[simp] theorem State.applyWrite_now (s : State) (k : Nat) (w : Write) :
    (s.applyWrite k w).now = s.now := by rw [State.applyWrite_eq]
@[simp] theorem State.applyWrite_launches (s : State) (k : Nat) (w : Write) :
    (s.applyWrite k w).launches = s.launches := by rw [State.applyWrite_eq]
@[simp] theorem State.applyWrite_latches (s : State) (k : Nat) (w : Write) :
    (s.applyWrite k w).latches = s.latches := by rw [State.applyWrite_eq]
@[simp] theorem State.applyWrite_loans (s : State) (k : Nat) (w : Write) :
    (s.applyWrite k w).loans = s.loans := by rw [State.applyWrite_eq]
@[simp] theorem State.applyWrite_timing (s : State) (k : Nat) (w : Write) :
    (s.applyWrite k w).timing = s.timing := by rw [State.applyWrite_eq]
@[simp] theorem State.applyWrite_owners (s : State) (k : Nat) (w : Write) :
    (s.applyWrite k w).owners = s.owners := by rw [State.applyWrite_eq]
@[simp] theorem State.applyWrite_skew (s : State) (k : Nat) (w : Write) :
    (s.applyWrite k w).skew = s.skew := by rw [State.applyWrite_eq]
@[simp] theorem State.applyWrite_free (s : State) (k : Nat) (w : Write) :
    (s.applyWrite k w).free = s.free := by rw [State.applyWrite_eq]
@[simp] theorem State.applyWrite_todo (s : State) (k : Nat) (w : Write) :
    (s.applyWrite k w).todo = s.todo := by rw [State.applyWrite_eq]
@[simp] theorem State.applyWrite_agenda (s : State) (k : Nat) (w : Write) :
    (s.applyWrite k w).agenda = s.agenda := by rw [State.applyWrite_eq]
@[simp] theorem State.applyWrite_links (s : State) (k : Nat) (w : Write) :
    (s.applyWrite k w).links = s.links := by rw [State.applyWrite_eq]

@[simp] theorem State.readCheck_mem (s : State) (k : Nat) (a : Access) (n : Nat) :
    (s.readCheck k a n).1.mem = s.mem := by rw [State.readCheck_eq]
@[simp] theorem State.readCheck_badCols (s : State) (k : Nat) (a : Access) (n : Nat) :
    (s.readCheck k a n).1.badCols = s.badCols := by rw [State.readCheck_eq]
@[simp] theorem State.readCheck_pcs (s : State) (k : Nat) (a : Access) (n : Nat) :
    (s.readCheck k a n).1.pcs = s.pcs := by rw [State.readCheck_eq]
@[simp] theorem State.readCheck_errata (s : State) (k : Nat) (a : Access) (n : Nat) :
    (s.readCheck k a n).1.errata = s.errata := by rw [State.readCheck_eq]
@[simp] theorem State.readCheck_bars (s : State) (k : Nat) (a : Access) (n : Nat) :
    (s.readCheck k a n).1.bars = s.bars := by rw [State.readCheck_eq]
@[simp] theorem State.readCheck_now (s : State) (k : Nat) (a : Access) (n : Nat) :
    (s.readCheck k a n).1.now = s.now := by rw [State.readCheck_eq]
@[simp] theorem State.readCheck_launches (s : State) (k : Nat) (a : Access) (n : Nat) :
    (s.readCheck k a n).1.launches = s.launches := by rw [State.readCheck_eq]
@[simp] theorem State.readCheck_latches (s : State) (k : Nat) (a : Access) (n : Nat) :
    (s.readCheck k a n).1.latches = s.latches := by rw [State.readCheck_eq]
@[simp] theorem State.readCheck_loans (s : State) (k : Nat) (a : Access) (n : Nat) :
    (s.readCheck k a n).1.loans = s.loans := by rw [State.readCheck_eq]
@[simp] theorem State.readCheck_timing (s : State) (k : Nat) (a : Access) (n : Nat) :
    (s.readCheck k a n).1.timing = s.timing := by rw [State.readCheck_eq]
@[simp] theorem State.readCheck_owners (s : State) (k : Nat) (a : Access) (n : Nat) :
    (s.readCheck k a n).1.owners = s.owners := by rw [State.readCheck_eq]
@[simp] theorem State.readCheck_skew (s : State) (k : Nat) (a : Access) (n : Nat) :
    (s.readCheck k a n).1.skew = s.skew := by rw [State.readCheck_eq]
@[simp] theorem State.readCheck_free (s : State) (k : Nat) (a : Access) (n : Nat) :
    (s.readCheck k a n).1.free = s.free := by rw [State.readCheck_eq]
@[simp] theorem State.readCheck_todo (s : State) (k : Nat) (a : Access) (n : Nat) :
    (s.readCheck k a n).1.todo = s.todo := by rw [State.readCheck_eq]
@[simp] theorem State.readCheck_agenda (s : State) (k : Nat) (a : Access) (n : Nat) :
    (s.readCheck k a n).1.agenda = s.agenda := by rw [State.readCheck_eq]
@[simp] theorem State.readCheck_links (s : State) (k : Nat) (a : Access) (n : Nat) :
    (s.readCheck k a n).1.links = s.links := by rw [State.readCheck_eq]

/-- A byte that a loan writes stands where a byte of one of its elements stands. -/
theorem mem_cellsBy (l : Loan) (at_ : Nat → Nat) (e : Nat × Option (Byte × Bool)) (h : e ∈ l.cellsBy at_) :
    ∃ x ∈ l.elems, ∃ i, i < (l.elemBytes x).length ∧ e.1 = at_ (x.2.toNat + i) := by
  unfold Loan.cellsBy at h
  suffices H : ∀ (xs : List Elem) (m : Store (Option (Byte × Bool))),
      e ∈ xs.foldl (fun m e => let bs := l.elemBytes e
        (List.zip bs (List.range bs.length)).foldl (fun m p => sset none m (at_ (e.2.toNat + p.2)) (some p.1)) m) m →
      (∃ x ∈ xs, ∃ i, i < (l.elemBytes x).length ∧ e.1 = at_ (x.2.toNat + i)) ∨ e ∈ m by
    rcases H _ _ h with h | h
    · exact h
    · cases h
  intro xs
  induction xs with
  | nil => exact fun m h => .inr h
  | cons x r ih =>
    intro m h
    rcases ih _ h with ⟨y, hy, hi⟩ | h
    · exact .inl ⟨y, List.mem_cons_of_mem _ hy, hi⟩
    · rcases mem_foldl_sset none (fun (p : (Byte × Bool) × Nat) => at_ (x.2.toNat + p.2)) (fun p => some p.1) _ _ _ h with ⟨p, hp, he⟩ | h
      · exact .inl ⟨x, List.mem_cons_self, p.2, List.mem_range.1 (List.of_mem_zip hp).2, he⟩
      · exact .inr h

end Sys2Proof.Machine
end

