-- ==== Sys2Proof/Laws/PerInstr.lean ====
section
/-!
SUPPORT. One lemma for each constructor of `Instr`: where the slot word of a form carries its S bit and its unit class
(spec/02_bundles_and_encoding.md R46, R47). The words of the rows that are no slot form are not constrained.
-/

namespace Sys2Proof.Laws.Encoding

/-- The top four bits of a form's word are its S bit and its unit class. -/
def Statement (i : Instr) : Prop := i.unit < 8 → ∀ e : Bool, (encode e i).toNat / 2 ^ 28 = 8 * e.toNat + i.unit

theorem mkWord_top (e : Bool) (u op rest : Nat) (hu : u < 8) (h : op * 8388608 + rest < 268435456) :
    (mkWord e u op rest).toNat / 2 ^ 28 = 8 * e.toNat + u := by
  have := Bool.toNat_lt e
  simp only [mkWord, BitVec.toNat_ofNat]
  omega

theorem guarded_top (e : Bool) (u op : Nat) (g : Guard) (rest : Nat) (hu : u < 8) (h : rest < 524288) (ho : op < 31) :
    (guarded e u op g rest).toNat / 2 ^ 28 = 8 * e.toNat + u := by
  have h1 := Bool.toNat_lt g.neg
  have h2 := g.p.isLt
  exact mkWord_top e u _ _ hu (by omega)

theorem unit_lt (u : AB) : u.unit < 8 := by cases u <;> decide

theorem code_lt (t : ElemType) : t.code < 8 := by cases t <;> decide

theorem encAR_top (e : Bool) (u : AB) (op : Nat) (g : Guard) (d s t fn : Nat) (hd : d < 32) (hs : s < 32) (ht : t < 32)
    (hf : fn < 16) (ho : op < 31) : (encAR e u op g d s t fn).toNat / 2 ^ 28 = 8 * e.toNat + u.unit :=
  guarded_top e u.unit op g _ (unit_lt u) (by omega) ho

theorem encAI_top (e : Bool) (u : AB) (op : Nat) (g : Guard) (d s imm : Nat) (hd : d < 32) (hs : s < 32) (hi : imm < 512)
    (ho : op < 31) : (encAI e u op g d s imm).toNat / 2 ^ 28 = 8 * e.toNat + u.unit :=
  guarded_top e u.unit op g _ (unit_lt u) (by omega) ho

theorem encV_top (e : Bool) (op t q d s v : Nat) (ho : op < 32) (ht : t < 8) (hq : q < 4) (hd : d < 64) (hs : s < 64)
    (hv : v < 64) : (encV e op t q d s v).toNat / 2 ^ 28 = 8 * e.toNat + 3 := mkWord_top e 3 op _ (by omega) (by omega)

theorem encDCmd_top (e : Bool) (op : Nat) (g : Guard) (d : BitVec 4) (u : BitVec 2) (f : BitVec 5) (ho : op < 31) :
    (encDCmd e op g d u f).toNat / 2 ^ 28 = 8 * e.toNat + 7 :=
  guarded_top e 7 op g _ (by omega) (by omega) ho

theorem encMul_top (e : Bool) (pin : Nat) (g : Guard) (z : BitVec 4) (c : BitVec 2) (w : Bool) (a : BitVec 5) (pq : Nat)
    (hp : pin < 4) (hq : pq < 16) : (encMul e pin g z c w a pq).toNat / 2 ^ 28 = 8 * e.toNat + 5 := by
  have := Bool.toNat_lt w
  exact guarded_top e 5 8 g _ (by omega) (by omega) (by omega)

theorem kTrap (n : BitVec 8) : Statement (.kTrap n) := by
  intro _ e
  exact mkWord_top e _ _ _ (by omega) (by omega)

theorem kBr (g : Guard) (off : BitVec 19) : Statement (.kBr g off) := by
  intro _ e
  exact guarded_top e _ _ _ _ (by omega) (by omega) (by omega)

theorem kCall (g : Guard) (off : BitVec 19) : Statement (.kCall g off) := by
  intro _ e
  exact guarded_top e _ _ _ _ (by omega) (by omega) (by omega)

theorem kJr (g : Guard) (s : BitVec 5) (off : BitVec 14) : Statement (.kJr g s off) := by
  intro _ e
  exact guarded_top e _ _ _ _ (by omega) (by omega) (by omega)

theorem kRet (g : Guard) : Statement (.kRet g) := by
  intro _ e
  exact guarded_top e _ _ _ _ (by omega) (by omega) (by omega)

theorem kLoop (cnt : BitVec 8) (e : BitVec 11) : Statement (.kLoop cnt e) := by
  intro _ e
  exact mkWord_top e _ _ _ (by omega) (by omega)

theorem kLoopReg (s : BitVec 5) (e : BitVec 11) : Statement (.kLoopReg s e) := by
  intro _ e
  exact mkWord_top e _ _ _ (by omega) (by omega)

theorem kBrk (g : Guard) : Statement (.kBrk g) := by
  intro _ e
  exact guarded_top e _ _ _ _ (by omega) (by omega) (by omega)

theorem kRot (v : Bool) (cnt : BitVec 6) (e : BitVec 11) : Statement (.kRot v cnt e) := by
  intro _ e
  have := Bool.toNat_lt v
  exact mkWord_top e _ _ _ (by omega) (by omega)

theorem kRotReg (v : Bool) (s : BitVec 5) (e : BitVec 11) : Statement (.kRotReg v s e) := by
  intro _ e
  have := Bool.toNat_lt v
  exact mkWord_top e _ _ _ (by omega) (by omega)

theorem kHold (s : BitVec 5) : Statement (.kHold s) := by
  intro _ e
  exact mkWord_top e _ _ _ (by omega) (by omega)

theorem kWait (m : BitVec 8) : Statement (.kWait m) := by
  intro _ e
  exact mkWord_top e _ _ _ (by omega) (by omega)

theorem kArrive (b : BitVec 2) (bar : BitVec 8) : Statement (.kArrive b bar) := by
  intro _ e
  exact mkWord_top e _ _ _ (by omega) (by omega)

theorem kBwait (b : BitVec 2) : Statement (.kBwait b) := by
  intro _ e
  exact mkWord_top e _ _ _ (by omega) (by omega)

theorem kSpawn (g : Guard) (pd : BitVec 4) (sh : BitVec 6) (idx : BitVec 9) : Statement (.kSpawn g pd sh idx) := by
  intro _ e
  exact guarded_top e _ _ _ _ (by omega) (by omega) (by omega)

theorem kChk (grp : BitVec 3) (m : BitVec 4) (off : BitVec 12) : Statement (.kChk grp m off) := by
  intro _ e
  exact mkWord_top e _ _ _ (by omega) (by omega)

theorem kMsr (s : BitVec 5) (num : BitVec 10) : Statement (.kMsr s num) := by
  intro _ e
  exact mkWord_top e _ _ _ (by omega) (by omega)

theorem kMrs (s : BitVec 5) (num : BitVec 10) : Statement (.kMrs s num) := by
  intro _ e
  exact mkWord_top e _ _ _ (by omega) (by omega)

theorem kInval (s : BitVec 5) (tk : BitVec 3) : Statement (.kInval s tk) := by
  intro _ e
  exact mkWord_top e _ _ _ (by omega) (by omega)

theorem kInvalAll (tk : BitVec 3) : Statement (.kInvalAll tk) := by
  intro _ e
  exact mkWord_top e _ _ _ (by omega) (by omega)

theorem kMode (il : Bool) : Statement (.kMode il) := by
  intro _ e
  have := Bool.toNat_lt il
  exact mkWord_top e _ _ _ (by omega) (by omega)

theorem nop (u : AB) : Statement (.nop u) := by
  intro _ e
  cases u <;> exact mkWord_top e _ _ _ (by decide) (by omega)

theorem add (u : AB) (g : Guard) (d s t : BitVec 5) : Statement (.add u g d s t) := by
  intro _ e
  cases u <;> exact encAR_top e _ _ _ _ _ _ _ (by omega) (by omega) (by omega) (by omega) (by omega)

theorem sub (u : AB) (g : Guard) (d s t : BitVec 5) : Statement (.sub u g d s t) := by
  intro _ e
  cases u <;> exact encAR_top e _ _ _ _ _ _ _ (by omega) (by omega) (by omega) (by omega) (by omega)

theorem and (u : AB) (g : Guard) (d s t : BitVec 5) : Statement (.and u g d s t) := by
  intro _ e
  cases u <;> exact encAR_top e _ _ _ _ _ _ _ (by omega) (by omega) (by omega) (by omega) (by omega)

theorem or (u : AB) (g : Guard) (d s t : BitVec 5) : Statement (.or u g d s t) := by
  intro _ e
  cases u <;> exact encAR_top e _ _ _ _ _ _ _ (by omega) (by omega) (by omega) (by omega) (by omega)

theorem xor (u : AB) (g : Guard) (d s t : BitVec 5) : Statement (.xor u g d s t) := by
  intro _ e
  cases u <;> exact encAR_top e _ _ _ _ _ _ _ (by omega) (by omega) (by omega) (by omega) (by omega)

theorem andn (u : AB) (g : Guard) (d s t : BitVec 5) : Statement (.andn u g d s t) := by
  intro _ e
  cases u <;> exact encAR_top e _ _ _ _ _ _ _ (by omega) (by omega) (by omega) (by omega) (by omega)

theorem min (u : AB) (g : Guard) (d s t : BitVec 5) : Statement (.min u g d s t) := by
  intro _ e
  cases u <;> exact encAR_top e _ _ _ _ _ _ _ (by omega) (by omega) (by omega) (by omega) (by omega)

theorem max (u : AB) (g : Guard) (d s t : BitVec 5) : Statement (.max u g d s t) := by
  intro _ e
  cases u <;> exact encAR_top e _ _ _ _ _ _ _ (by omega) (by omega) (by omega) (by omega) (by omega)

theorem minn (u : AB) (g : Guard) (d s t : BitVec 5) : Statement (.minn u g d s t) := by
  intro _ e
  cases u <;> exact encAR_top e _ _ _ _ _ _ _ (by omega) (by omega) (by omega) (by omega) (by omega)

theorem maxn (u : AB) (g : Guard) (d s t : BitVec 5) : Statement (.maxn u g d s t) := by
  intro _ e
  cases u <;> exact encAR_top e _ _ _ _ _ _ _ (by omega) (by omega) (by omega) (by omega) (by omega)

theorem shl (u : AB) (g : Guard) (d s t : BitVec 5) : Statement (.shl u g d s t) := by
  intro _ e
  cases u <;> exact encAR_top e _ _ _ _ _ _ _ (by omega) (by omega) (by omega) (by omega) (by omega)

theorem shr (u : AB) (g : Guard) (d s t : BitVec 5) : Statement (.shr u g d s t) := by
  intro _ e
  cases u <;> exact encAR_top e _ _ _ _ _ _ _ (by omega) (by omega) (by omega) (by omega) (by omega)

theorem sar (u : AB) (g : Guard) (d s t : BitVec 5) : Statement (.sar u g d s t) := by
  intro _ e
  cases u <;> exact encAR_top e _ _ _ _ _ _ _ (by omega) (by omega) (by omega) (by omega) (by omega)

theorem rol (u : AB) (g : Guard) (d s t : BitVec 5) : Statement (.rol u g d s t) := by
  intro _ e
  cases u <;> exact encAR_top e _ _ _ _ _ _ _ (by omega) (by omega) (by omega) (by omega) (by omega)

theorem popc (u : AB) (g : Guard) (d s : BitVec 5) : Statement (.popc u g d s) := by
  intro _ e
  cases u <;> exact encAR_top e _ _ _ _ _ _ _ (by omega) (by omega) (by omega) (by omega) (by omega)

theorem clz (u : AB) (g : Guard) (d s : BitVec 5) : Statement (.clz u g d s) := by
  intro _ e
  cases u <;> exact encAR_top e _ _ _ _ _ _ _ (by omega) (by omega) (by omega) (by omega) (by omega)

theorem brev (u : AB) (g : Guard) (d s : BitVec 5) : Statement (.brev u g d s) := by
  intro _ e
  cases u <;> exact encAR_top e _ _ _ _ _ _ _ (by omega) (by omega) (by omega) (by omega) (by omega)

theorem bfx (u : AB) (g : Guard) (d s t : BitVec 5) : Statement (.bfx u g d s t) := by
  intro _ e
  cases u <;> exact encAR_top e _ _ _ _ _ _ _ (by omega) (by omega) (by omega) (by omega) (by omega)

theorem bfxs (u : AB) (g : Guard) (d s t : BitVec 5) : Statement (.bfxs u g d s t) := by
  intro _ e
  cases u <;> exact encAR_top e _ _ _ _ _ _ _ (by omega) (by omega) (by omega) (by omega) (by omega)

theorem bfi (u : AB) (g : Guard) (d s t : BitVec 5) : Statement (.bfi u g d s t) := by
  intro _ e
  cases u <;> exact encAR_top e _ _ _ _ _ _ _ (by omega) (by omega) (by omega) (by omega) (by omega)

theorem mul (u : AB) (g : Guard) (d s t : BitVec 5) : Statement (.mul u g d s t) := by
  intro _ e
  cases u <;> exact encAR_top e _ _ _ _ _ _ _ (by omega) (by omega) (by omega) (by omega) (by omega)

theorem mulh (u : AB) (g : Guard) (d s t : BitVec 5) : Statement (.mulh u g d s t) := by
  intro _ e
  cases u <;> exact encAR_top e _ _ _ _ _ _ _ (by omega) (by omega) (by omega) (by omega) (by omega)

theorem mulhn (u : AB) (g : Guard) (d s t : BitVec 5) : Statement (.mulhn u g d s t) := by
  intro _ e
  cases u <;> exact encAR_top e _ _ _ _ _ _ _ (by omega) (by omega) (by omega) (by omega) (by omega)

theorem eq (u : AB) (g : Guard) (pd : BitVec 4) (s t : BitVec 5) : Statement (.eq u g pd s t) := by
  intro _ e
  cases u <;> exact encAR_top e _ _ _ _ _ _ _ (by omega) (by omega) (by omega) (by omega) (by omega)

theorem ne (u : AB) (g : Guard) (pd : BitVec 4) (s t : BitVec 5) : Statement (.ne u g pd s t) := by
  intro _ e
  cases u <;> exact encAR_top e _ _ _ _ _ _ _ (by omega) (by omega) (by omega) (by omega) (by omega)

theorem lt (u : AB) (g : Guard) (pd : BitVec 4) (s t : BitVec 5) : Statement (.lt u g pd s t) := by
  intro _ e
  cases u <;> exact encAR_top e _ _ _ _ _ _ _ (by omega) (by omega) (by omega) (by omega) (by omega)

theorem ltn (u : AB) (g : Guard) (pd : BitVec 4) (s t : BitVec 5) : Statement (.ltn u g pd s t) := by
  intro _ e
  cases u <;> exact encAR_top e _ _ _ _ _ _ _ (by omega) (by omega) (by omega) (by omega) (by omega)

theorem le (u : AB) (g : Guard) (pd : BitVec 4) (s t : BitVec 5) : Statement (.le u g pd s t) := by
  intro _ e
  cases u <;> exact encAR_top e _ _ _ _ _ _ _ (by omega) (by omega) (by omega) (by omega) (by omega)

theorem len (u : AB) (g : Guard) (pd : BitVec 4) (s t : BitVec 5) : Statement (.len u g pd s t) := by
  intro _ e
  cases u <;> exact encAR_top e _ _ _ _ _ _ _ (by omega) (by omega) (by omega) (by omega) (by omega)

theorem pand (u : AB) (g : Guard) (pd ps pt : BitVec 4) : Statement (.pand u g pd ps pt) := by
  intro _ e
  cases u <;> exact encAR_top e _ _ _ _ _ _ _ (by omega) (by omega) (by omega) (by omega) (by omega)

theorem por (u : AB) (g : Guard) (pd ps pt : BitVec 4) : Statement (.por u g pd ps pt) := by
  intro _ e
  cases u <;> exact encAR_top e _ _ _ _ _ _ _ (by omega) (by omega) (by omega) (by omega) (by omega)

theorem pxor (u : AB) (g : Guard) (pd ps pt : BitVec 4) : Statement (.pxor u g pd ps pt) := by
  intro _ e
  cases u <;> exact encAR_top e _ _ _ _ _ _ _ (by omega) (by omega) (by omega) (by omega) (by omega)

theorem pandn (u : AB) (g : Guard) (pd ps pt : BitVec 4) : Statement (.pandn u g pd ps pt) := by
  intro _ e
  cases u <;> exact encAR_top e _ _ _ _ _ _ _ (by omega) (by omega) (by omega) (by omega) (by omega)

theorem sel (u : AB) (g : Guard) (d s t : BitVec 5) (pn : BitVec 4) : Statement (.sel u g d s t pn) := by
  intro _ e
  cases u <;> exact encAR_top e _ _ _ _ _ _ _ (by omega) (by omega) (by omega) (by omega) (by omega)

theorem getOther (u : AB) (g : Guard) (d s : BitVec 5) : Statement (.getOther u g d s) := by
  intro _ e
  cases u <;> exact encAR_top e _ _ _ _ _ _ _ (by omega) (by omega) (by omega) (by omega) (by omega)

theorem getL (u : AB) (g : Guard) (d s : BitVec 5) : Statement (.getL u g d s) := by
  intro _ e
  cases u <;> exact encAR_top e _ _ _ _ _ _ _ (by omega) (by omega) (by omega) (by omega) (by omega)

theorem getN (u : AB) (g : Guard) (d : BitVec 5) (s : BitVec 4) : Statement (.getN u g d s) := by
  intro _ e
  cases u <;> exact encAR_top e _ _ _ _ _ _ _ (by omega) (by omega) (by omega) (by omega) (by omega)

theorem getD (u : AB) (g : Guard) (d : BitVec 5) (s : BitVec 4) : Statement (.getD u g d s) := by
  intro _ e
  cases u <;> exact encAR_top e _ _ _ _ _ _ _ (by omega) (by omega) (by omega) (by omega) (by omega)

theorem addImm (u : AB) (g : Guard) (d s : BitVec 5) (imm : BitVec 9) : Statement (.addImm u g d s imm) := by
  intro _ e
  cases u <;> exact encAI_top e _ _ _ _ _ _ (by omega) (by omega) (by omega) (by omega)

theorem andImm (u : AB) (g : Guard) (d s : BitVec 5) (imm : BitVec 9) : Statement (.andImm u g d s imm) := by
  intro _ e
  cases u <;> exact encAI_top e _ _ _ _ _ _ (by omega) (by omega) (by omega) (by omega)

theorem orImm (u : AB) (g : Guard) (d s : BitVec 5) (imm : BitVec 9) : Statement (.orImm u g d s imm) := by
  intro _ e
  cases u <;> exact encAI_top e _ _ _ _ _ _ (by omega) (by omega) (by omega) (by omega)

theorem xorImm (u : AB) (g : Guard) (d s : BitVec 5) (imm : BitVec 9) : Statement (.xorImm u g d s imm) := by
  intro _ e
  cases u <;> exact encAI_top e _ _ _ _ _ _ (by omega) (by omega) (by omega) (by omega)

theorem shlImm (u : AB) (g : Guard) (d s : BitVec 5) (amt : BitVec 6) : Statement (.shlImm u g d s amt) := by
  intro _ e
  cases u <;> exact encAI_top e _ _ _ _ _ _ (by omega) (by omega) (by omega) (by omega)

theorem shrImm (u : AB) (g : Guard) (d s : BitVec 5) (amt : BitVec 6) : Statement (.shrImm u g d s amt) := by
  intro _ e
  cases u <;> exact encAI_top e _ _ _ _ _ _ (by omega) (by omega) (by omega) (by omega)

theorem sarImm (u : AB) (g : Guard) (d s : BitVec 5) (amt : BitVec 6) : Statement (.sarImm u g d s amt) := by
  intro _ e
  cases u <;> exact encAI_top e _ _ _ _ _ _ (by omega) (by omega) (by omega) (by omega)

theorem rolImm (u : AB) (g : Guard) (d s : BitVec 5) (amt : BitVec 6) : Statement (.rolImm u g d s amt) := by
  intro _ e
  cases u <;> exact encAI_top e _ _ _ _ _ _ (by omega) (by omega) (by omega) (by omega)

theorem eqImm (u : AB) (g : Guard) (pd : BitVec 4) (s : BitVec 5) (imm : BitVec 6) : Statement (.eqImm u g pd s imm) := by
  intro _ e
  cases u <;> exact encAI_top e _ _ _ _ _ _ (by omega) (by omega) (by omega) (by omega)

theorem neImm (u : AB) (g : Guard) (pd : BitVec 4) (s : BitVec 5) (imm : BitVec 6) : Statement (.neImm u g pd s imm) := by
  intro _ e
  cases u <;> exact encAI_top e _ _ _ _ _ _ (by omega) (by omega) (by omega) (by omega)

theorem ltImm (u : AB) (g : Guard) (pd : BitVec 4) (s : BitVec 5) (imm : BitVec 6) : Statement (.ltImm u g pd s imm) := by
  intro _ e
  cases u <;> exact encAI_top e _ _ _ _ _ _ (by omega) (by omega) (by omega) (by omega)

theorem ltnImm (u : AB) (g : Guard) (pd : BitVec 4) (s : BitVec 5) (imm : BitVec 6) : Statement (.ltnImm u g pd s imm) := by
  intro _ e
  cases u <;> exact encAI_top e _ _ _ _ _ _ (by omega) (by omega) (by omega) (by omega)

theorem leImm (u : AB) (g : Guard) (pd : BitVec 4) (s : BitVec 5) (imm : BitVec 6) : Statement (.leImm u g pd s imm) := by
  intro _ e
  cases u <;> exact encAI_top e _ _ _ _ _ _ (by omega) (by omega) (by omega) (by omega)

theorem lenImm (u : AB) (g : Guard) (pd : BitVec 4) (s : BitVec 5) (imm : BitVec 6) : Statement (.lenImm u g pd s imm) := by
  intro _ e
  cases u <;> exact encAI_top e _ _ _ _ _ _ (by omega) (by omega) (by omega) (by omega)

theorem li (u : AB) (d : BitVec 5) (imm : BitVec 16) : Statement (.li u d imm) := by
  intro _ e
  cases u <;> exact mkWord_top e _ _ _ (by decide) (by omega)

theorem lui (u : AB) (d : BitVec 5) (imm : BitVec 16) : Statement (.lui u d imm) := by
  intro _ e
  cases u <;> exact mkWord_top e _ _ _ (by decide) (by omega)

theorem rsr (u : AB) (d : BitVec 5) (num : BitVec 10) : Statement (.rsr u d num) := by
  intro _ e
  cases u <;> exact mkWord_top e _ _ _ (by decide) (by omega)

theorem vAdd (t : ElemType) (q : BitVec 2) (vd vs vt : BitVec 6) : Statement (.vAdd t q vd vs vt) := by
  intro _ e
  have := code_lt t
  exact encV_top e _ _ _ _ _ _ (by omega) (by omega) (by omega) (by omega) (by omega) (by omega)

theorem vSub (t : ElemType) (q : BitVec 2) (vd vs vt : BitVec 6) : Statement (.vSub t q vd vs vt) := by
  intro _ e
  have := code_lt t
  exact encV_top e _ _ _ _ _ _ (by omega) (by omega) (by omega) (by omega) (by omega) (by omega)

theorem vMul (t : ElemType) (q : BitVec 2) (vd vs vt : BitVec 6) : Statement (.vMul t q vd vs vt) := by
  intro _ e
  have := code_lt t
  exact encV_top e _ _ _ _ _ _ (by omega) (by omega) (by omega) (by omega) (by omega) (by omega)

theorem vFma (t : ElemType) (q : BitVec 2) (vd vs vt : BitVec 6) : Statement (.vFma t q vd vs vt) := by
  intro _ e
  have := code_lt t
  exact encV_top e _ _ _ _ _ _ (by omega) (by omega) (by omega) (by omega) (by omega) (by omega)

theorem vMin (t : ElemType) (q : BitVec 2) (vd vs vt : BitVec 6) : Statement (.vMin t q vd vs vt) := by
  intro _ e
  have := code_lt t
  exact encV_top e _ _ _ _ _ _ (by omega) (by omega) (by omega) (by omega) (by omega) (by omega)

theorem vMax (t : ElemType) (q : BitVec 2) (vd vs vt : BitVec 6) : Statement (.vMax t q vd vs vt) := by
  intro _ e
  have := code_lt t
  exact encV_top e _ _ _ _ _ _ (by omega) (by omega) (by omega) (by omega) (by omega) (by omega)

theorem vAbs (t : ElemType) (q : BitVec 2) (vd vs : BitVec 6) : Statement (.vAbs t q vd vs) := by
  intro _ e
  have := code_lt t
  exact encV_top e _ _ _ _ _ _ (by omega) (by omega) (by omega) (by omega) (by omega) (by omega)

theorem vNeg (t : ElemType) (q : BitVec 2) (vd vs : BitVec 6) : Statement (.vNeg t q vd vs) := by
  intro _ e
  have := code_lt t
  exact encV_top e _ _ _ _ _ _ (by omega) (by omega) (by omega) (by omega) (by omega) (by omega)

theorem vNot (t : ElemType) (q : BitVec 2) (vd vs : BitVec 6) : Statement (.vNot t q vd vs) := by
  intro _ e
  have := code_lt t
  exact encV_top e _ _ _ _ _ _ (by omega) (by omega) (by omega) (by omega) (by omega) (by omega)

theorem vExp2 (t : ElemType) (q : BitVec 2) (vd vs : BitVec 6) : Statement (.vExp2 t q vd vs) := by
  intro _ e
  have := code_lt t
  exact encV_top e _ _ _ _ _ _ (by omega) (by omega) (by omega) (by omega) (by omega) (by omega)

theorem vRcp (t : ElemType) (q : BitVec 2) (vd vs : BitVec 6) : Statement (.vRcp t q vd vs) := by
  intro _ e
  have := code_lt t
  exact encV_top e _ _ _ _ _ _ (by omega) (by omega) (by omega) (by omega) (by omega) (by omega)

theorem vRsqrt (t : ElemType) (q : BitVec 2) (vd vs : BitVec 6) : Statement (.vRsqrt t q vd vs) := by
  intro _ e
  have := code_lt t
  exact encV_top e _ _ _ _ _ _ (by omega) (by omega) (by omega) (by omega) (by omega) (by omega)

theorem vQp (t : ElemType) (q : BitVec 2) (qd : BitVec 2) (p : BitVec 4) : Statement (.vQp t q qd p) := by
  intro _ e
  have := code_lt t
  exact encV_top e _ _ _ _ _ _ (by omega) (by omega) (by omega) (by omega) (by omega) (by omega)

theorem vGet (t : ElemType) (q : BitVec 2) (vd : BitVec 6) (l : BitVec 5) : Statement (.vGet t q vd l) := by
  intro _ e
  have := code_lt t
  exact encV_top e _ _ _ _ _ _ (by omega) (by omega) (by omega) (by omega) (by omega) (by omega)

theorem vAnd (t : ElemType) (q : BitVec 2) (vd vs vt : BitVec 6) : Statement (.vAnd t q vd vs vt) := by
  intro _ e
  have := code_lt t
  exact encV_top e _ _ _ _ _ _ (by omega) (by omega) (by omega) (by omega) (by omega) (by omega)

theorem vOr (t : ElemType) (q : BitVec 2) (vd vs vt : BitVec 6) : Statement (.vOr t q vd vs vt) := by
  intro _ e
  have := code_lt t
  exact encV_top e _ _ _ _ _ _ (by omega) (by omega) (by omega) (by omega) (by omega) (by omega)

theorem vXor (t : ElemType) (q : BitVec 2) (vd vs vt : BitVec 6) : Statement (.vXor t q vd vs vt) := by
  intro _ e
  have := code_lt t
  exact encV_top e _ _ _ _ _ _ (by omega) (by omega) (by omega) (by omega) (by omega) (by omega)

theorem vAndn (t : ElemType) (q : BitVec 2) (vd vs vt : BitVec 6) : Statement (.vAndn t q vd vs vt) := by
  intro _ e
  have := code_lt t
  exact encV_top e _ _ _ _ _ _ (by omega) (by omega) (by omega) (by omega) (by omega) (by omega)

theorem vShl (t : ElemType) (q : BitVec 2) (vd vs : BitVec 6) (amt : BitVec 6) : Statement (.vShl t q vd vs amt) := by
  intro _ e
  have := code_lt t
  exact encV_top e _ _ _ _ _ _ (by omega) (by omega) (by omega) (by omega) (by omega) (by omega)

theorem vShr (t : ElemType) (q : BitVec 2) (vd vs : BitVec 6) (amt : BitVec 6) : Statement (.vShr t q vd vs amt) := by
  intro _ e
  have := code_lt t
  exact encV_top e _ _ _ _ _ _ (by omega) (by omega) (by omega) (by omega) (by omega) (by omega)

theorem vSar (t : ElemType) (q : BitVec 2) (vd vs : BitVec 6) (amt : BitVec 6) : Statement (.vSar t q vd vs amt) := by
  intro _ e
  have := code_lt t
  exact encV_top e _ _ _ _ _ _ (by omega) (by omega) (by omega) (by omega) (by omega) (by omega)

theorem vEq (t : ElemType) (q : BitVec 2) (qd : BitVec 2) (vs vt : BitVec 6) : Statement (.vEq t q qd vs vt) := by
  intro _ e
  have := code_lt t
  exact encV_top e _ _ _ _ _ _ (by omega) (by omega) (by omega) (by omega) (by omega) (by omega)

theorem vNe (t : ElemType) (q : BitVec 2) (qd : BitVec 2) (vs vt : BitVec 6) : Statement (.vNe t q qd vs vt) := by
  intro _ e
  have := code_lt t
  exact encV_top e _ _ _ _ _ _ (by omega) (by omega) (by omega) (by omega) (by omega) (by omega)

theorem vLt (t : ElemType) (q : BitVec 2) (qd : BitVec 2) (vs vt : BitVec 6) : Statement (.vLt t q qd vs vt) := by
  intro _ e
  have := code_lt t
  exact encV_top e _ _ _ _ _ _ (by omega) (by omega) (by omega) (by omega) (by omega) (by omega)

theorem vLe (t : ElemType) (q : BitVec 2) (qd : BitVec 2) (vs vt : BitVec 6) : Statement (.vLe t q qd vs vt) := by
  intro _ e
  have := code_lt t
  exact encV_top e _ _ _ _ _ _ (by omega) (by omega) (by omega) (by omega) (by omega) (by omega)

theorem vSel (t : ElemType) (q : BitVec 2) (vd vs vt : BitVec 6) : Statement (.vSel t q vd vs vt) := by
  intro _ e
  have := code_lt t
  exact encV_top e _ _ _ _ _ _ (by omega) (by omega) (by omega) (by omega) (by omega) (by omega)

theorem vCvt (t : ElemType) (q : BitVec 2) (vd vs : BitVec 6) (mode : BitVec 3) (target : ElemType) : Statement (.vCvt t q vd vs mode target) := by
  intro _ e
  have := code_lt t
  have := code_lt target
  exact encV_top e _ _ _ _ _ _ (by omega) (by omega) (by omega) (by omega) (by omega) (by omega)

theorem vCvtSr (t : ElemType) (q : BitVec 2) (vd vs vt : BitVec 6) : Statement (.vCvtSr t q vd vs vt) := by
  intro _ e
  have := code_lt t
  exact encV_top e _ _ _ _ _ _ (by omega) (by omega) (by omega) (by omega) (by omega) (by omega)

theorem vQuant (vd vs : BitVec 6) (mode : BitVec 2) (target : BitVec 4) : Statement (.vQuant vd vs mode target) := by
  intro _ e
  exact encV_top e _ _ _ _ _ _ (by omega) (by omega) (by omega) (by omega) (by omega) (by omega)

theorem vHash (q : BitVec 2) (vd vs vt : BitVec 6) : Statement (.vHash q vd vs vt) := by
  intro _ e
  exact encV_top e _ _ _ _ _ _ (by omega) (by omega) (by omega) (by omega) (by omega) (by omega)

theorem vScan (t : ElemType) (q : BitVec 2) (vd vs : BitVec 6) (segq : BitVec 2) (seg : Bool) (op : BitVec 2) (excl : Bool) : Statement (.vScan t q vd vs segq seg op excl) := by
  intro _ e
  have := Bool.toNat_lt seg
  have := Bool.toNat_lt excl
  have := code_lt t
  exact encV_top e _ _ _ _ _ _ (by omega) (by omega) (by omega) (by omega) (by omega) (by omega)

theorem vRed (t : ElemType) (q : BitVec 2) (vd vs : BitVec 6) (op : BitVec 2) : Statement (.vRed t q vd vs op) := by
  intro _ e
  have := code_lt t
  exact encV_top e _ _ _ _ _ _ (by omega) (by omega) (by omega) (by omega) (by omega) (by omega)

theorem vPerm (t : ElemType) (q : BitVec 2) (vd vs vt : BitVec 6) : Statement (.vPerm t q vd vs vt) := by
  intro _ e
  have := code_lt t
  exact encV_top e _ _ _ _ _ _ (by omega) (by omega) (by omega) (by omega) (by omega) (by omega)

theorem vBcast (t : ElemType) (q : BitVec 2) (vd vs : BitVec 6) (grp : BitVec 6) : Statement (.vBcast t q vd vs grp) := by
  intro _ e
  have := code_lt t
  exact encV_top e _ _ _ _ _ _ (by omega) (by omega) (by omega) (by omega) (by omega) (by omega)

theorem vWiden (t : ElemType) (q : BitVec 2) (vd vs : BitVec 6) : Statement (.vWiden t q vd vs) := by
  intro _ e
  have := code_lt t
  exact encV_top e _ _ _ _ _ _ (by omega) (by omega) (by omega) (by omega) (by omega) (by omega)

theorem vNarrow (t : ElemType) (q : BitVec 2) (vd vs : BitVec 6) : Statement (.vNarrow t q vd vs) := by
  intro _ e
  have := code_lt t
  exact encV_top e _ _ _ _ _ _ (by omega) (by omega) (by omega) (by omega) (by omega) (by omega)

theorem vLd (t : ElemType) (q : BitVec 2) (vd : BitVec 6) (l : BitVec 5) (off : BitVec 6) : Statement (.vLd t q vd l off) := by
  intro _ e
  have := code_lt t
  exact encV_top e _ _ _ _ _ _ (by omega) (by omega) (by omega) (by omega) (by omega) (by omega)

theorem vLdS (t : ElemType) (q : BitVec 2) (vd : BitVec 6) (l : BitVec 5) (off : BitVec 6) : Statement (.vLdS t q vd l off) := by
  intro _ e
  have := code_lt t
  exact encV_top e _ _ _ _ _ _ (by omega) (by omega) (by omega) (by omega) (by omega) (by omega)

theorem vLdt (t : ElemType) (q : BitVec 2) (vd : BitVec 6) (l : BitVec 5) (off : BitVec 6) : Statement (.vLdt t q vd l off) := by
  intro _ e
  have := code_lt t
  exact encV_top e _ _ _ _ _ _ (by omega) (by omega) (by omega) (by omega) (by omega) (by omega)

theorem vSt (t : ElemType) (q : BitVec 2) (l : BitVec 5) (vs : BitVec 6) (off : BitVec 6) : Statement (.vSt t q l vs off) := by
  intro _ e
  have := code_lt t
  exact encV_top e _ _ _ _ _ _ (by omega) (by omega) (by omega) (by omega) (by omega) (by omega)

theorem vLdz (t : ElemType) (q : BitVec 2) (vd : BitVec 6) (z : BitVec 4) (grp : BitVec 4) : Statement (.vLdz t q vd z grp) := by
  intro _ e
  have := code_lt t
  exact encV_top e _ _ _ _ _ _ (by omega) (by omega) (by omega) (by omega) (by omega) (by omega)

theorem lLd (g : Guard) (d s : BitVec 5) (sz : BitVec 2) (x : Bool) (off : BitVec 6) : Statement (.lLd g d s sz x off) := by
  intro _ e
  have := Bool.toNat_lt x
  exact guarded_top e _ _ _ _ (by omega) (by omega) (by omega)

theorem lSt (g : Guard) (v s : BitVec 5) (sz : BitVec 2) (off : BitVec 6) : Statement (.lSt g v s sz off) := by
  intro _ e
  exact guarded_top e _ _ _ _ (by omega) (by omega) (by omega)

theorem lLdx (g : Guard) (d s t : BitVec 5) (sz : BitVec 2) (x sc : Bool) : Statement (.lLdx g d s t sz x sc) := by
  intro _ e
  have := Bool.toNat_lt x
  have := Bool.toNat_lt sc
  exact guarded_top e _ _ _ _ (by omega) (by omega) (by omega)

theorem lStx (g : Guard) (v s t : BitVec 5) (sz : BitVec 2) (sc : Bool) : Statement (.lStx g v s t sz sc) := by
  intro _ e
  have := Bool.toNat_lt sc
  exact guarded_top e _ _ _ _ (by omega) (by omega) (by omega)

theorem lLdS (g : Guard) (d s : BitVec 5) (sz : BitVec 2) (x : Bool) (off : BitVec 6) : Statement (.lLdS g d s sz x off) := by
  intro _ e
  have := Bool.toNat_lt x
  exact guarded_top e _ _ _ _ (by omega) (by omega) (by omega)

theorem lAdd (g : Guard) (d s t : BitVec 5) : Statement (.lAdd g d s t) := by
  intro _ e
  exact guarded_top e _ _ _ _ (by omega) (by omega) (by omega)

theorem lAddImm (g : Guard) (d s : BitVec 5) (imm : BitVec 7) : Statement (.lAddImm g d s imm) := by
  intro _ e
  exact guarded_top e _ _ _ _ (by omega) (by omega) (by omega)

theorem lAddImm64 (g : Guard) (d s : BitVec 5) (imm : BitVec 7) : Statement (.lAddImm64 g d s imm) := by
  intro _ e
  exact guarded_top e _ _ _ _ (by omega) (by omega) (by omega)

theorem lClaim (g : Guard) (sh : BitVec 6) : Statement (.lClaim g sh) := by
  intro _ e
  exact guarded_top e _ _ _ _ (by omega) (by omega) (by omega)

theorem lClaimDecl (g : Guard) (r : BitVec 5) (sh : BitVec 6) : Statement (.lClaimDecl g r sh) := by
  intro _ e
  exact guarded_top e _ _ _ _ (by omega) (by omega) (by omega)

theorem lPub (g : Guard) (sh : BitVec 6) : Statement (.lPub g sh) := by
  intro _ e
  exact guarded_top e _ _ _ _ (by omega) (by omega) (by omega)

theorem lDrain (g : Guard) (sh : BitVec 6) : Statement (.lDrain g sh) := by
  intro _ e
  exact guarded_top e _ _ _ _ (by omega) (by omega) (by omega)

theorem lRel (g : Guard) (sh : BitVec 6) : Statement (.lRel g sh) := by
  intro _ e
  exact guarded_top e _ _ _ _ (by omega) (by omega) (by omega)

theorem lRelB (g : Guard) (sh : BitVec 6) : Statement (.lRelB g sh) := by
  intro _ e
  exact guarded_top e _ _ _ _ (by omega) (by omega) (by omega)

theorem lSst (g : Guard) (d : BitVec 5) (sh : BitVec 6) : Statement (.lSst g d sh) := by
  intro _ e
  exact guarded_top e _ _ _ _ (by omega) (by omega) (by omega)

theorem lGetA (g : Guard) (d s : BitVec 5) : Statement (.lGetA g d s) := by
  intro _ e
  exact guarded_top e _ _ _ _ (by omega) (by omega) (by omega)

theorem lGetB (g : Guard) (d s : BitVec 5) : Statement (.lGetB g d s) := by
  intro _ e
  exact guarded_top e _ _ _ _ (by omega) (by omega) (by omega)

theorem lGetN (g : Guard) (d : BitVec 5) (s : BitVec 4) : Statement (.lGetN g d s) := by
  intro _ e
  exact guarded_top e _ _ _ _ (by omega) (by omega) (by omega)

theorem lGetD (g : Guard) (d : BitVec 5) (s : BitVec 4) : Statement (.lGetD g d s) := by
  intro _ e
  exact guarded_top e _ _ _ _ (by omega) (by omega) (by omega)

theorem mFmt (g : Guard) (sel : BitVec 2) (word : BitVec 17) : Statement (.mFmt g sel word) := by
  intro _ e
  exact guarded_top e _ _ _ _ (by omega) (by omega) (by omega)

theorem mLdb (g : Guard) (s : BitVec 5) (gen : Bool) (off : BitVec 13) : Statement (.mLdb g s gen off) := by
  intro _ e
  have := Bool.toNat_lt gen
  exact guarded_top e _ _ _ _ (by omega) (by omega) (by omega)

theorem mLdbt (g : Guard) (s : BitVec 5) (gen : Bool) (off : BitVec 13) : Statement (.mLdbt g s gen off) := by
  intro _ e
  have := Bool.toNat_lt gen
  exact guarded_top e _ _ _ _ (by omega) (by omega) (by omega)

theorem mMulSet (g : Guard) (z : BitVec 4) (asrc : BitVec 2) (wide : Bool) (a : BitVec 5) : Statement (.mMulSet g z asrc wide a) := by
  intro _ e
  have := Bool.toNat_lt wide
  exact encMul_top e _ _ _ _ _ _ _ (by omega) (by omega)

theorem mMulAcc (g : Guard) (z : BitVec 4) (asrc : BitVec 2) (wide : Bool) (a : BitVec 5) : Statement (.mMulAcc g z asrc wide a) := by
  intro _ e
  have := Bool.toNat_lt wide
  exact encMul_top e _ _ _ _ _ _ _ (by omega) (by omega)

theorem mMulPch (g : Guard) (z : BitVec 4) (asrc : BitVec 2) (wide : Bool) (a : BitVec 5) : Statement (.mMulPch g z asrc wide a) := by
  intro _ e
  have := Bool.toNat_lt wide
  exact encMul_top e _ _ _ _ _ _ _ (by omega) (by omega)

theorem mMulPq (g : Guard) (z : BitVec 4) (asrc : BitVec 2) (wide : Bool) (a : BitVec 5) (pq : BitVec 4) : Statement (.mMulPq g z asrc wide a pq) := by
  intro _ e
  have := Bool.toNat_lt wide
  exact encMul_top e _ _ _ _ _ _ _ (by omega) (by omega)

theorem mDrain (g : Guard) (z : BitVec 4) (l : BitVec 5) (e : BitVec 4) (wide pub : Bool) : Statement (.mDrain g z l e wide pub) := by
  intro _ e
  have := Bool.toNat_lt wide
  have := Bool.toNat_lt pub
  exact guarded_top e _ _ _ _ (by omega) (by omega) (by omega)

theorem mDrainQueue (g : Guard) (z : BitVec 4) (lq : BitVec 4) (e : BitVec 4) (wide : Bool) : Statement (.mDrainQueue g z lq e wide) := by
  intro _ e
  have := Bool.toNat_lt wide
  exact guarded_top e _ _ _ _ (by omega) (by omega) (by omega)

theorem mChk (g : Guard) (z : BitVec 4) (e : BitVec 4) (wide : Bool) : Statement (.mChk g z e wide) := by
  intro _ e
  have := Bool.toNat_lt wide
  exact guarded_top e _ _ _ _ (by omega) (by omega) (by omega)

theorem mZero (g : Guard) (z : BitVec 4) : Statement (.mZero g z) := by
  intro _ e
  exact guarded_top e _ _ _ _ (by omega) (by omega) (by omega)

theorem mChain (g : Guard) (af pf : Bool) : Statement (.mChain g af pf) := by
  intro _ e
  have := Bool.toNat_lt af
  have := Bool.toNat_lt pf
  exact guarded_top e _ _ _ _ (by omega) (by omega) (by omega)

theorem mTol (g : Guard) (e : BitVec 4) (s : BitVec 5) : Statement (.mTol g e s) := by
  intro _ e
  exact guarded_top e _ _ _ _ (by omega) (by omega) (by omega)

theorem nSend (g : Guard) (lq : BitVec 4) (s : BitVec 5) (off : BitVec 10) : Statement (.nSend g lq s off) := by
  intro _ e
  exact guarded_top e _ _ _ _ (by omega) (by omega) (by omega)

theorem nRecv (g : Guard) (lq : BitVec 4) (s : BitVec 5) (off : BitVec 10) : Statement (.nRecv g lq s off) := by
  intro _ e
  exact guarded_top e _ _ _ _ (by omega) (by omega) (by omega)

theorem nFwd (g : Guard) (m : BitVec 4) (lq : BitVec 4) : Statement (.nFwd g m lq) := by
  intro _ e
  exact guarded_top e _ _ _ _ (by omega) (by omega) (by omega)

theorem nBsend (g : Guard) (c : BitVec 3) (s : BitVec 4) : Statement (.nBsend g c s) := by
  intro _ e
  exact guarded_top e _ _ _ _ (by omega) (by omega) (by omega)

theorem nBlatch (g : Guard) (d : BitVec 4) (c : BitVec 3) : Statement (.nBlatch g d c) := by
  intro _ e
  exact guarded_top e _ _ _ _ (by omega) (by omega) (by omega)

theorem nQfmt (g : Guard) (lq : BitVec 4) (s : BitVec 4) : Statement (.nQfmt g lq s) := by
  intro _ e
  exact guarded_top e _ _ _ _ (by omega) (by omega) (by omega)

theorem nLoan (g : Guard) (s : BitVec 5) (off : BitVec 14) : Statement (.nLoan g s off) := by
  intro _ e
  exact guarded_top e _ _ _ _ (by omega) (by omega) (by omega)

theorem nFence (g : Guard) (sc : BitVec 3) : Statement (.nFence g sc) := by
  intro _ e
  exact guarded_top e _ _ _ _ (by omega) (by omega) (by omega)

theorem nRed (g : Guard) (m : BitVec 4) (lq : BitVec 4) (s : BitVec 5) (ty : Bool) : Statement (.nRed g m lq s ty) := by
  intro _ e
  have := Bool.toNat_lt ty
  exact guarded_top e _ _ _ _ (by omega) (by omega) (by omega)

theorem nQsl (g : Guard) (lq : BitVec 4) (clr : Bool) (k : BitVec 6) : Statement (.nQsl g lq clr k) := by
  intro _ e
  have := Bool.toNat_lt clr
  exact guarded_top e _ _ _ _ (by omega) (by omega) (by omega)

theorem nGetA (g : Guard) (d : BitVec 4) (s : BitVec 5) : Statement (.nGetA g d s) := by
  intro _ e
  exact guarded_top e _ _ _ _ (by omega) (by omega) (by omega)

theorem nGetB (g : Guard) (d : BitVec 4) (s : BitVec 5) : Statement (.nGetB g d s) := by
  intro _ e
  exact guarded_top e _ _ _ _ (by omega) (by omega) (by omega)

theorem nGetL (g : Guard) (d : BitVec 4) (s : BitVec 5) : Statement (.nGetL g d s) := by
  intro _ e
  exact guarded_top e _ _ _ _ (by omega) (by omega) (by omega)

theorem nGetD (g : Guard) (d : BitVec 4) (s : BitVec 4) : Statement (.nGetD g d s) := by
  intro _ e
  exact guarded_top e _ _ _ _ (by omega) (by omega) (by omega)

theorem dNopReserve (d : BitVec 4) (u : BitVec 2) (f : BitVec 5) (cnt : BitVec 8) : Statement (.dNopReserve d u f cnt) := by
  intro _ e
  exact mkWord_top e _ _ _ (by omega) (by omega)

theorem dGet (d : BitVec 4) (f : BitVec 5) : Statement (.dGet d f) := by
  intro _ e
  exact mkWord_top e _ _ _ (by omega) (by omega)

theorem dIncRow (d : BitVec 4) (f : BitVec 5) : Statement (.dIncRow d f) := by
  intro _ e
  exact mkWord_top e _ _ _ (by omega) (by omega)

theorem dIncBank (d : BitVec 4) (f : BitVec 5) : Statement (.dIncBank d f) := by
  intro _ e
  exact mkWord_top e _ _ _ (by omega) (by omega)

theorem dAct (g : Guard) (d : BitVec 4) (u : BitVec 2) (f : BitVec 5) : Statement (.dAct g d u f) := by
  intro _ e
  exact encDCmd_top e _ _ _ _ _ (by omega)

theorem dPre (g : Guard) (d : BitVec 4) (u : BitVec 2) (f : BitVec 5) : Statement (.dPre g d u f) := by
  intro _ e
  exact encDCmd_top e _ _ _ _ _ (by omega)

theorem dPrea (g : Guard) (d : BitVec 4) (u : BitVec 2) (f : BitVec 5) : Statement (.dPrea g d u f) := by
  intro _ e
  exact encDCmd_top e _ _ _ _ _ (by omega)

theorem dRd (g : Guard) (d : BitVec 4) (s : BitVec 5) (cnt : BitVec 6) (last : Bool) : Statement (.dRd g d s cnt last) := by
  intro _ e
  have := Bool.toNat_lt last
  exact guarded_top e _ _ _ _ (by omega) (by omega) (by omega)

theorem dWr (g : Guard) (d : BitVec 4) (s : BitVec 5) (cnt : BitVec 6) (rel : Bool) : Statement (.dWr g d s cnt rel) := by
  intro _ e
  have := Bool.toNat_lt rel
  exact guarded_top e _ _ _ _ (by omega) (by omega) (by omega)

theorem dRef (g : Guard) (d : BitVec 4) (u : BitVec 2) (f : BitVec 5) : Statement (.dRef g d u f) := by
  intro _ e
  exact encDCmd_top e _ _ _ _ _ (by omega)

theorem dRefpb (g : Guard) (d : BitVec 4) (u : BitVec 2) (f : BitVec 5) : Statement (.dRefpb g d u f) := by
  intro _ e
  exact encDCmd_top e _ _ _ _ _ (by omega)

theorem dSre (g : Guard) (d : BitVec 4) (u : BitVec 2) (f : BitVec 5) : Statement (.dSre g d u f) := by
  intro _ e
  exact encDCmd_top e _ _ _ _ _ (by omega)

theorem dSrx (g : Guard) (d : BitVec 4) (u : BitVec 2) (f : BitVec 5) : Statement (.dSrx g d u f) := by
  intro _ e
  exact encDCmd_top e _ _ _ _ _ (by omega)

theorem dPde (g : Guard) (d : BitVec 4) (u : BitVec 2) (f : BitVec 5) : Statement (.dPde g d u f) := by
  intro _ e
  exact encDCmd_top e _ _ _ _ _ (by omega)

theorem dPdx (g : Guard) (d : BitVec 4) (u : BitVec 2) (f : BitVec 5) : Statement (.dPdx g d u f) := by
  intro _ e
  exact encDCmd_top e _ _ _ _ _ (by omega)

theorem dMrs (g : Guard) (d : BitVec 4) (s : BitVec 5) : Statement (.dMrs g d s) := by
  intro _ e
  exact guarded_top e _ _ _ _ (by omega) (by omega) (by omega)

theorem dWin (g : Guard) (d : BitVec 4) (s : BitVec 5) : Statement (.dWin g d s) := by
  intro _ e
  exact guarded_top e _ _ _ _ (by omega) (by omega) (by omega)

theorem issueSelection (core : Nat) : Statement (.issueSelection core) :=
  fun h => absurd h (Nat.lt_irrefl 8)

theorem quietBoundExpiry (ctx : Nat) : Statement (.quietBoundExpiry ctx) :=
  fun h => absurd h (Nat.lt_irrefl 8)

theorem retimingRelease (ctx : Nat) : Statement (.retimingRelease ctx) :=
  fun h => absurd h (Nat.lt_irrefl 8)

theorem resultLanding (o : Origin) (w : Write) : Statement (.resultLanding o w) :=
  fun h => absurd h (Nat.lt_irrefl 8)

theorem shelfTransitionApply (o : Origin) (sh : Nat) (tr : Trans) : Statement (.shelfTransitionApply o sh tr) :=
  fun h => absurd h (Nat.lt_irrefl 8)

theorem scalarLoadSample (o : Origin) (acc : Access) (d : Nat) (x : Bool) (spec : Bool) : Statement (.scalarLoadSample o acc d x spec) :=
  fun h => absurd h (Nat.lt_irrefl 8)

theorem scalarStorePerform (o : Origin) (acc : Access) (v : Reg) : Statement (.scalarStorePerform o acc v) :=
  fun h => absurd h (Nat.lt_irrefl 8)

theorem vectorLoadSample (o : Origin) (l : VLoad) : Statement (.vectorLoadSample o l) :=
  fun h => absurd h (Nat.lt_irrefl 8)

theorem vectorStorePerform (o : Origin) (acc : Access) (cells : List (Nat × Byte)) : Statement (.vectorStorePerform o acc cells) :=
  fun h => absurd h (Nat.lt_irrefl 8)

theorem stationaryLoadComplete (o : Origin) : Statement (.stationaryLoadComplete o) :=
  fun h => absurd h (Nat.lt_irrefl 8)

theorem arrayRowUpdate (o : Origin) (i : Nat) : Statement (.arrayRowUpdate o i) :=
  fun h => absurd h (Nat.lt_irrefl 8)

theorem drainRowRead (o : Origin) (i : Nat) : Statement (.drainRowRead o i) :=
  fun h => absurd h (Nat.lt_irrefl 8)

theorem drainVerdict (o : Origin) : Statement (.drainVerdict o) :=
  fun h => absurd h (Nat.lt_irrefl 8)

theorem elementRecompute (o : Origin) : Statement (.elementRecompute o) :=
  fun h => absurd h (Nat.lt_irrefl 8)

theorem drainRowWrite (o : Origin) (i : Nat) : Statement (.drainRowWrite o i) :=
  fun h => absurd h (Nat.lt_irrefl 8)

theorem drainComplete (o : Origin) : Statement (.drainComplete o) :=
  fun h => absurd h (Nat.lt_irrefl 8)

theorem commandArrival (c : DCmd) : Statement (.commandArrival c) :=
  fun h => absurd h (Nat.lt_irrefl 8)

theorem readBurstLanding (o : Origin) (j : Nat) (b : Burst) (data : BitVec 256) (poison : Bool) : Statement (.readBurstLanding o j b data poison) :=
  fun h => absurd h (Nat.lt_irrefl 8)

theorem writeBurstSample (o : Origin) (j : Nat) (b : Burst) : Statement (.writeBurstSample o j b) :=
  fun h => absurd h (Nat.lt_irrefl 8)

theorem flitDeparture (link : Nat) (f : Flit) : Statement (.flitDeparture link f) :=
  fun h => absurd h (Nat.lt_irrefl 8)

theorem flitArrival (link : Nat) (f : Flit) : Statement (.flitArrival link f) :=
  fun h => absurd h (Nat.lt_irrefl 8)

theorem replay (link : Nat) : Statement (.replay link) :=
  fun h => absurd h (Nat.lt_irrefl 8)

theorem linkDown (link : Nat) : Statement (.linkDown link) :=
  fun h => absurd h (Nat.lt_irrefl 8)

theorem receiveOrderPass (link : Nat) : Statement (.receiveOrderPass link) :=
  fun h => absurd h (Nat.lt_irrefl 8)

theorem passThrough (link : Nat) (f : Flit) : Statement (.passThrough link f) :=
  fun h => absurd h (Nat.lt_irrefl 8)

theorem recvShelfWrite (o : Origin) (acc : Access) (data : BitVec 512) : Statement (.recvShelfWrite o acc data) :=
  fun h => absurd h (Nat.lt_irrefl 8)

theorem bayLatchWrite (o : Origin) (bay : Nat) (c : Nat) (v : Reg) : Statement (.bayLatchWrite o bay c v) :=
  fun h => absurd h (Nat.lt_irrefl 8)

theorem spanMarkerReceive (link : Nat) (c : BitVec 64) : Statement (.spanMarkerReceive link c) :=
  fun h => absurd h (Nat.lt_irrefl 8)

theorem countStep (slip : Int) : Statement (.countStep slip) :=
  fun h => absurd h (Nat.lt_irrefl 8)

theorem loanCompletion (id : Nat) : Statement (.loanCompletion id) :=
  fun h => absurd h (Nat.lt_irrefl 8)

theorem loanDelivery (id : Nat) : Statement (.loanDelivery id) :=
  fun h => absurd h (Nat.lt_irrefl 8)

theorem invalidationComplete (id : Nat) : Statement (.invalidationComplete id) :=
  fun h => absurd h (Nat.lt_irrefl 8)

theorem homeRequest (p : Packet) : Statement (.homeRequest p) :=
  fun h => absurd h (Nat.lt_irrefl 8)

theorem packetRoute (p : Packet) : Statement (.packetRoute p) :=
  fun h => absurd h (Nat.lt_irrefl 8)

theorem packetResponse (p : Packet) : Statement (.packetResponse p) :=
  fun h => absurd h (Nat.lt_irrefl 8)

theorem endToEndTimerExpiry (home : Nat) (engine : Nat) (seq : BitVec 32) : Statement (.endToEndTimerExpiry home engine seq) :=
  fun h => absurd h (Nat.lt_irrefl 8)

theorem openSlotIssue (pc : Nat) : Statement (.openSlotIssue pc) :=
  fun h => absurd h (Nat.lt_irrefl 8)

theorem refreshRateChange (double : Bool) : Statement (.refreshRateChange double) :=
  fun h => absurd h (Nat.lt_irrefl 8)

theorem trapEntry (ctx : Nat) : Statement (.trapEntry ctx) :=
  fun h => absurd h (Nat.lt_irrefl 8)

theorem resumptionFromRecord (ctx : Nat) : Statement (.resumptionFromRecord ctx) :=
  fun h => absurd h (Nat.lt_irrefl 8)

theorem contextEnd (ctx : Nat) : Statement (.contextEnd ctx) :=
  fun h => absurd h (Nat.lt_irrefl 8)

theorem contextSave (ctx : Nat) : Statement (.contextSave ctx) :=
  fun h => absurd h (Nat.lt_irrefl 8)

theorem launchCheck (id : Nat) : Statement (.launchCheck id) :=
  fun h => absurd h (Nat.lt_irrefl 8)

theorem launchStart (id : Nat) : Statement (.launchStart id) :=
  fun h => absurd h (Nat.lt_irrefl 8)

theorem launchEnd (id : Nat) : Statement (.launchEnd id) :=
  fun h => absurd h (Nat.lt_irrefl 8)

theorem childPlacement (die : Nat) : Statement (.childPlacement die) :=
  fun h => absurd h (Nat.lt_irrefl 8)

theorem hostMemoryRead (fn : Nat) (off : Nat) (len : Nat) : Statement (.hostMemoryRead fn off len) :=
  fun h => absurd h (Nat.lt_irrefl 8)

theorem hostMemoryWrite (fn : Nat) (off : Nat) (bytes : List Byte) (ep : Bool) : Statement (.hostMemoryWrite fn off bytes ep) :=
  fun h => absurd h (Nat.lt_irrefl 8)

theorem hostFetchadd (fn : Nat) (off : Nat) (size : Nat) (v : Reg) : Statement (.hostFetchadd fn off size v) :=
  fun h => absurd h (Nat.lt_irrefl 8)

theorem hostSwap (fn : Nat) (off : Nat) (size : Nat) (v : Reg) : Statement (.hostSwap fn off size v) :=
  fun h => absurd h (Nat.lt_irrefl 8)

theorem hostCas (fn : Nat) (off : Nat) (size : Nat) (cmp : Reg) (v : Reg) : Statement (.hostCas fn off size cmp v) :=
  fun h => absurd h (Nat.lt_irrefl 8)

theorem queueDoorbell (q : Nat) : Statement (.queueDoorbell q) :=
  fun h => absurd h (Nat.lt_irrefl 8)

theorem queuePoll (q : Nat) : Statement (.queuePoll q) :=
  fun h => absurd h (Nat.lt_irrefl 8)

theorem powerSample (milliwatts : Nat) : Statement (.powerSample milliwatts) :=
  fun h => absurd h (Nat.lt_irrefl 8)

theorem temperatureSample (die : Nat) (millidegrees : Nat) : Statement (.temperatureSample die millidegrees) :=
  fun h => absurd h (Nat.lt_irrefl 8)

theorem dieStatusPoll (die : Nat) (answers : Bool) : Statement (.dieStatusPoll die answers) :=
  fun h => absurd h (Nat.lt_irrefl 8)

theorem reserveCoreTakeover (core : Nat) : Statement (.reserveCoreTakeover core) :=
  fun h => absurd h (Nat.lt_irrefl 8)

theorem spareDieTakeover (die : Nat) : Statement (.spareDieTakeover die) :=
  fun h => absurd h (Nat.lt_irrefl 8)

theorem saveDeadlineExpiry (die : Nat) : Statement (.saveDeadlineExpiry die) :=
  fun h => absurd h (Nat.lt_irrefl 8)

theorem statusOverrunClear (fn : Nat) : Statement (.statusOverrunClear fn) :=
  fun h => absurd h (Nat.lt_irrefl 8)

theorem registerWrite (r : DevReg) (v : BitVec 64) : Statement (.registerWrite r v) :=
  fun h => absurd h (Nat.lt_irrefl 8)

theorem softError (u : Upset) : Statement (.softError u) :=
  fun h => absurd h (Nat.lt_irrefl 8)

theorem partitionTableWrite (w : PartWrite) : Statement (.partitionTableWrite w) :=
  fun h => absurd h (Nat.lt_irrefl 8)

theorem loanCopy : Statement (.loanCopy) :=
  fun h => absurd h (Nat.lt_irrefl 8)

theorem loanGather : Statement (.loanGather) :=
  fun h => absurd h (Nat.lt_irrefl 8)

theorem loanScatter : Statement (.loanScatter) :=
  fun h => absurd h (Nat.lt_irrefl 8)

theorem loanScatterAccumulate : Statement (.loanScatterAccumulate) :=
  fun h => absurd h (Nat.lt_irrefl 8)

theorem loanFill : Statement (.loanFill) :=
  fun h => absurd h (Nat.lt_irrefl 8)

theorem loanDeposit : Statement (.loanDeposit) :=
  fun h => absurd h (Nat.lt_irrefl 8)

theorem atomicAdd : Statement (.atomicAdd) :=
  fun h => absurd h (Nat.lt_irrefl 8)

theorem atomicMin : Statement (.atomicMin) :=
  fun h => absurd h (Nat.lt_irrefl 8)

theorem atomicMax : Statement (.atomicMax) :=
  fun h => absurd h (Nat.lt_irrefl 8)

theorem atomicAnd : Statement (.atomicAnd) :=
  fun h => absurd h (Nat.lt_irrefl 8)

theorem atomicOr : Statement (.atomicOr) :=
  fun h => absurd h (Nat.lt_irrefl 8)

theorem atomicXor : Statement (.atomicXor) :=
  fun h => absurd h (Nat.lt_irrefl 8)

theorem atomicSwap : Statement (.atomicSwap) :=
  fun h => absurd h (Nat.lt_irrefl 8)

theorem atomicCas : Statement (.atomicCas) :=
  fun h => absurd h (Nat.lt_irrefl 8)

theorem remotePublish : Statement (.remotePublish) :=
  fun h => absurd h (Nat.lt_irrefl 8)

theorem remoteBarrierArrive : Statement (.remoteBarrierArrive) :=
  fun h => absurd h (Nat.lt_irrefl 8)

theorem ownershipTokenAcquire : Statement (.ownershipTokenAcquire) :=
  fun h => absurd h (Nat.lt_irrefl 8)

theorem ownershipTokenRelease : Statement (.ownershipTokenRelease) :=
  fun h => absurd h (Nat.lt_irrefl 8)

theorem status : Statement (.status) :=
  fun h => absurd h (Nat.lt_irrefl 8)

theorem warmStart : Statement (.warmStart) :=
  fun h => absurd h (Nat.lt_irrefl 8)

theorem coldStart : Statement (.coldStart) :=
  fun h => absurd h (Nat.lt_irrefl 8)

theorem launch : Statement (.launch) :=
  fun h => absurd h (Nat.lt_irrefl 8)

theorem endLaunch : Statement (.endLaunch) :=
  fun h => absurd h (Nat.lt_irrefl 8)

theorem preEmpt : Statement (.preEmpt) :=
  fun h => absurd h (Nat.lt_irrefl 8)

theorem restore : Statement (.restore) :=
  fun h => absurd h (Nat.lt_irrefl 8)

theorem invalidate : Statement (.invalidate) :=
  fun h => absurd h (Nat.lt_irrefl 8)

theorem breakpoints : Statement (.breakpoints) :=
  fun h => absurd h (Nat.lt_irrefl 8)

theorem hostInterrupt : Statement (.hostInterrupt) :=
  fun h => absurd h (Nat.lt_irrefl 8)

theorem windowFigures : Statement (.windowFigures) :=
  fun h => absurd h (Nat.lt_irrefl 8)

theorem telemetry : Statement (.telemetry) :=
  fun h => absurd h (Nat.lt_irrefl 8)

theorem functionBinding : Statement (.functionBinding) :=
  fun h => absurd h (Nat.lt_irrefl 8)

theorem attestation : Statement (.attestation) :=
  fun h => absurd h (Nat.lt_irrefl 8)

theorem imageWrite : Statement (.imageWrite) :=
  fun h => absurd h (Nat.lt_irrefl 8)

theorem clearQuarantine : Statement (.clearQuarantine) :=
  fun h => absurd h (Nat.lt_irrefl 8)

theorem kNop : Statement (.kNop) := by
  intro _ e
  exact mkWord_top e _ _ _ (by omega) (by omega)

theorem kQuiet : Statement (.kQuiet) := by
  intro _ e
  exact mkWord_top e _ _ _ (by omega) (by omega)

theorem kYield : Statement (.kYield) := by
  intro _ e
  exact mkWord_top e _ _ _ (by omega) (by omega)

theorem kRti : Statement (.kRti) := by
  intro _ e
  exact mkWord_top e _ _ _ (by omega) (by omega)

theorem kHalt : Statement (.kHalt) := by
  intro _ e
  exact mkWord_top e _ _ _ (by omega) (by omega)

theorem vNop : Statement (.vNop) := by
  intro _ e
  exact mkWord_top e _ _ _ (by omega) (by omega)

theorem lNop : Statement (.lNop) := by
  intro _ e
  exact mkWord_top e _ _ _ (by omega) (by omega)

theorem mNop : Statement (.mNop) := by
  intro _ e
  exact mkWord_top e _ _ _ (by omega) (by omega)

theorem nNop : Statement (.nNop) := by
  intro _ e
  exact mkWord_top e _ _ _ (by omega) (by omega)

theorem dNop : Statement (.dNop) := by
  intro _ e
  exact mkWord_top e _ _ _ (by omega) (by omega)

theorem spanMarkerSend : Statement (.spanMarkerSend) :=
  fun h => absurd h (Nat.lt_irrefl 8)

theorem refreshDebtGain : Statement (.refreshDebtGain) :=
  fun h => absurd h (Nat.lt_irrefl 8)

theorem selfRefreshTimer : Statement (.selfRefreshTimer) :=
  fun h => absurd h (Nat.lt_irrefl 8)

theorem powerOn : Statement (.powerOn) :=
  fun h => absurd h (Nat.lt_irrefl 8)

theorem pcieHotReset : Statement (.pcieHotReset) :=
  fun h => absurd h (Nat.lt_irrefl 8)

theorem startTimeout : Statement (.startTimeout) :=
  fun h => absurd h (Nat.lt_irrefl 8)

theorem restartAfterFailure : Statement (.restartAfterFailure) :=
  fun h => absurd h (Nat.lt_irrefl 8)

theorem startLogClear : Statement (.startLogClear) :=
  fun h => absurd h (Nat.lt_irrefl 8)

theorem coolantFlowLost : Statement (.coolantFlowLost) :=
  fun h => absurd h (Nat.lt_irrefl 8)

theorem powerLoss : Statement (.powerLoss) :=
  fun h => absurd h (Nat.lt_irrefl 8)

end Sys2Proof.Laws.Encoding
end

