-- ==== Sys2Proof/Tests/Slice0.lean ====
section
/-!
SUPPORT. Small tests: words written out from the spec decode to their forms; ill-formed terms are refused; single steps
give the values of the spec's own examples; and for every obligation with hypotheses, states and operands that meet them.
Expected values come from the spec's worked examples and tables.
-/

namespace Sys2Proof.Tests

open Sys2Proof.Machine

set_option maxRecDepth 4000
set_option exponentiation.threshold 1024

/-! ### Words (the word tables of spec/02 and spec/05 to spec/12) -/

theorem test_decode_k :
    decodeTableWord 32 0x0107FFFD = some (.kBr ⟨false, 0⟩ (-3)) ∧ decodeTableWord 32 0x85005005 = some (.kLoop 10 5) ∧
      decodeTableWord 32 0x06080000 = some (.kBrk ⟨false, 1⟩) := by decide

/-- spec/05_opcode_map.md, the worked example, and the same word with fn = 12. -/
theorem test_decode_worked_example :
    decodeTableWord 32 0x91A8C220 = some (.add .a ⟨true, 5⟩ 3 1 2) ∧ decodeTableWord 32 0x91A8C22C = none := by decide

theorem test_decode_table_07_3 :
    decodeTableWord 32 0x1E01FFFE = some (.li .a 1 0xFFFE) ∧ decodeTableWord 32 0xAE010007 = some (.li .b 1 7) ∧
      decodeTableWord 32 0x1E811234 = some (.lui .a 1 0x1234) ∧ decodeTableWord 32 0xA7008200 = some (.getOther .b ⟨false, 0⟩ 2 1) ∧
      decodeTableWord 32 0x1400C210 = some (.eq .a ⟨false, 0⟩ 3 1 1) ∧ decodeTableWord 32 0xA400C211 = some (.ne .b ⟨false, 0⟩ 3 1 1) ∧
      decodeTableWord 32 0x18988202 = some (.addImm .a ⟨true, 3⟩ 2 1 2) ∧
      decodeTableWord 32 0xA300C411 = some (.mulh .b ⟨false, 0⟩ 3 2 1) := by decide

theorem test_decode_v :
    decodeTableWord 32 0xBAC82058 = some (.vScan .i32 2 2 1 1 true 0 false) := by decide

theorem test_decode_table_09_4 :
    decodeTableWord 32 0xC7000500 = some (.lClaim ⟨false, 0⟩ 5) ∧ decodeTableWord 32 0xC2010787 = some (.lSt ⟨false, 0⟩ 4 3 3 7) ∧
      decodeTableWord 32 0xC8000500 = some (.lPub ⟨false, 0⟩ 5) ∧
      decodeTableWord 32 0xC501870F = some (.lLdS ⟨false, 0⟩ 6 3 2 false 15) ∧
      decodeTableWord 32 0xCB020500 = some (.lSst ⟨false, 0⟩ 8 5) := by decide

theorem test_decode_m :
    decodeTableWord 32 0xD2014000 = some (.mLdb ⟨false, 0⟩ 5 false 0) ∧
      decodeTableWord 32 0xD4010080 = some (.mMulSet ⟨false, 0⟩ 2 0 false 4) ∧
      decodeTableWord 32 0xD5010C60 = some (.mDrain ⟨false, 0⟩ 2 6 3 false false) := by decide

theorem test_decode_n :
    decodeTableWord 32 0xE1010C00 = some (.nSend ⟨false, 0⟩ 2 3 0) ∧ decodeTableWord 32 0xE2001000 = some (.nRecv ⟨false, 0⟩ 0 4 0) ∧
      decodeTableWord 32 0xEA000028 = some (.nQsl ⟨false, 0⟩ 0 false 40) ∧
      decodeTableWord 32 0xE7018000 = some (.nLoan ⟨false, 0⟩ 6 0) := by decide

theorem test_decode_d :
    decodeTableWord 32 0xF1010000 = some (.dAct ⟨false, 0⟩ 2 0 0) ∧
      decodeTableWord 32 0xF4010C38 = some (.dRd ⟨false, 0⟩ 2 3 3 true) ∧
      decodeTableWord 32 0xF2014100 = some (.dPre ⟨false, 0⟩ 2 2 1) ∧ decodeTableWord 32 0xF3018000 = some (.dPrea ⟨false, 0⟩ 3 0 0) := by
  decide

/-! ### Ill-formed terms are refused -/

theorem test_ill_special : Instr.wf (.kMsr 0 0x00F) = false ∧ Instr.wf (.kMrs 0 0x015) = false ∧
    Instr.wf (.rsr .a 0 0x030) = false ∧ Instr.wf (.rsr .a 0 0x02F) = true := by decide

theorem test_ill_vector_types : Instr.wf (.vExp2 .i32 0 0 0) = false ∧ Instr.wf (.vRcp .i16 0 0 0) = false ∧
    Instr.wf (.vRsqrt .i8 0 0 0) = false ∧ Instr.wf (.vShl .f32 0 0 0 0) = false ∧ Instr.wf (.vShr .bf16 0 0 0 0) = false ∧
    Instr.wf (.vSar .f16 0 0 0 0) = false ∧ Instr.wf (.vCvtSr .f32 0 0 0 0) = false ∧ Instr.wf (.vLdz .i8 0 0 0 0) = false ∧
    Instr.wf (.vWiden .f32 0 0 0) = false ∧ Instr.wf (.vNarrow .i32 0 0 0) = false := by decide

theorem test_ill_vector_fields : Instr.wf (.vCvt .f32 0 0 0 4 .f32) = false ∧ Instr.wf (.vQuant 0 0 0 13) = false ∧
    Instr.wf (.vHash 0 0 0 1) = false ∧ Instr.wf (.vScan .f32 0 0 0 0 true 3 false) = false ∧
    Instr.wf (.vScan .f32 0 0 0 1 false 0 false) = false ∧ Instr.wf (.vRed .f32 0 0 0 3) = false ∧
    Instr.wf (.vBcast .f32 0 0 0 14) = false ∧ Instr.wf (.vWiden .f16 0 1 0) = false ∧
    Instr.wf (.vNarrow .f16 0 0 1) = false := by decide

theorem test_ill_scratchpad : Instr.wf (.lLd ⟨false, 0⟩ 0 0 3 true 0) = false ∧
    Instr.wf (.lLdx ⟨false, 0⟩ 0 0 0 3 true false) = false ∧ Instr.wf (.lLdS ⟨false, 0⟩ 0 0 3 true 0) = false := by decide

theorem test_ill_matrix : Instr.wf (.mFmt ⟨false, 0⟩ 3 0) = false ∧ Instr.wf (.mFmt ⟨false, 0⟩ 0 14) = false ∧
    Instr.wf (.mMulSet ⟨false, 0⟩ 1 0 true 0) = false ∧ Instr.wf (.mMulAcc ⟨false, 0⟩ 0 3 false 0) = false ∧
    Instr.wf (.mMulPch ⟨false, 0⟩ 0 1 false 1) = false ∧ Instr.wf (.mMulPq ⟨false, 0⟩ 0 2 false 16 0) = false ∧
    Instr.wf (.mDrain ⟨false, 0⟩ 1 0 0 true false) = false ∧ Instr.wf (.mDrainQueue ⟨false, 0⟩ 1 0 0 true) = false ∧
    Instr.wf (.mChk ⟨false, 0⟩ 1 0 true) = false := by decide

theorem test_ill_network_dram : Instr.wf (.nFence ⟨false, 0⟩ 7) = false ∧ Instr.wf (.dNopReserve 0 0 0 0) = false ∧
    Instr.wf (.dNopReserve 0 0 1 1) = false ∧ Instr.wf (.dAct ⟨false, 0⟩ 0 0 1) = false ∧
    Instr.wf (.dPre ⟨false, 0⟩ 0 0 1) = false ∧ Instr.wf (.dPrea ⟨false, 0⟩ 0 0 1) = false ∧
    Instr.wf (.dRef ⟨false, 0⟩ 0 0 1) = false ∧ Instr.wf (.dRefpb ⟨false, 0⟩ 0 0 1) = false ∧
    Instr.wf (.dSre ⟨false, 0⟩ 0 0 1) = false ∧ Instr.wf (.dSrx ⟨false, 0⟩ 0 0 1) = false ∧
    Instr.wf (.dPde ⟨false, 0⟩ 0 0 1) = false ∧ Instr.wf (.dPdx ⟨false, 0⟩ 0 0 1) = false := by decide

theorem test_ill_numbers : Instr.wf (.issueSelection 288) = false ∧ Instr.wf (.quietBoundExpiry 1152) = false ∧
    Instr.wf (.retimingRelease 1152) = false ∧ Instr.wf (.trapEntry 1152) = false ∧
    Instr.wf (.resumptionFromRecord 1152) = false ∧ Instr.wf (.contextEnd 1152) = false ∧
    Instr.wf (.contextSave 1152) = false ∧ Instr.wf (.childPlacement 8) = false ∧ Instr.wf (.replay 24) = false ∧
    Instr.wf (.linkDown 24) = false ∧ Instr.wf (.receiveOrderPass 24) = false ∧
    Instr.wf (.spanMarkerReceive 24 0) = false ∧ Instr.wf (.openSlotIssue 512) = false ∧
    Instr.wf (.queueDoorbell 256) = false ∧ Instr.wf (.queuePoll 256) = false ∧
    Instr.wf (.temperatureSample 9 0) = false ∧ Instr.wf (.dieStatusPoll 9 true) = false ∧
    Instr.wf (.spareDieTakeover 9) = false ∧ Instr.wf (.saveDeadlineExpiry 9) = false ∧
    Instr.wf (.reserveCoreTakeover 378) = false := by decide

/-- A flit of zeros. -/
def flit0 : Flit := { data := 0, side := 0, hdr := 0 }

theorem test_ill_links : Instr.wf (.flitDeparture 24 flit0) = false ∧ Instr.wf (.flitArrival 24 flit0) = false ∧
    Instr.wf (.passThrough 24 flit0) = false := by decide

/-- A register that the context lacks: v8 with one V granule, z1 with one accumulator (R11). -/
theorem test_missing_register : Instr.missing 1 1 (.vNot .f32 0 8 0) = some (0, 8) ∧
    Instr.missing 1 1 (.mZero ⟨false, 0⟩ 1) = some (1, 1) ∧ Instr.missing 1 1 (.vNot .f32 0 7 0) = none := by decide

/-! ### States for single slots -/

/-- Context 0 in supervisor mode with every grant, and the same in user mode. -/
def sup0 : Context := fetchContext 0

def user0 : Context := { sup0 with sup := false }

/-- Context 0 issues a bundle of one word at PC 0; its slot has been fetched. -/
def issuing (c : Context) : State :=
  { State.reset with
    ctxs := [(0, c)]
    cur := { open_ := true, ctx := 0, pc := 0, words := [0], idx := 1 } }

abbrev always : Guard := ⟨false, 0⟩

abbrev never : Guard := ⟨true, 0⟩

def origin0 : Origin := { ctx := 0, t := 0, pc := 0, slot := 0, unit := 0, word := 0 }

/-! ### Witnesses: words, steps, registers -/

theorem witness_DecodeEncode : Instr.unit (.vAdd .f32 0 63 63 63) < 8 ∧ Instr.wf (.vAdd .f32 0 63 63 63) = true ∧
    Instr.missing 8 16 (.vAdd .f32 0 63 63 63) = none := by decide

theorem witness_EncodeDecode : decodeSlot 8 16 0xD2014000 = .ok (.mLdb ⟨false, 0⟩ 5 false 0) := rfl

theorem witness_StepRunsInstruction_slot :
    let s : State := { issuing sup0 with cur := { open_ := true, ctx := 0, words := [0x1E01FFFE], idx := 0 } }
    s.cur.open_ = true ∧ s.cur.idx < s.cur.words.length ∧
      decodeSlot s.me.vg s.me.zg (s.cur.words.getD s.cur.idx 0) = .ok (.li .a 1 0xFFFE) :=
  ⟨rfl, by decide, rfl⟩

theorem witness_StepRunsInstruction_illegal :
    let s : State := { issuing user0 with cur := { open_ := true, ctx := 0, words := [0x91A8C22C], idx := 0 } }
    s.cur.open_ = true ∧ s.cur.idx < s.cur.words.length ∧ s.me.sup = false ∧
      decodeSlot s.me.vg s.me.zg (s.cur.words.getD s.cur.idx 0) = .error { why := 2 } :=
  ⟨rfl, by decide, rfl, rfl⟩

theorem witness_StepRunsInstruction_row :
    let d : Due := ⟨0, rankUntimed, .op .powerLoss⟩
    let s : State := { State.reset with todo := [d] }
    s.cur.open_ = false ∧ s.todo = d :: [] ∧ d.ev = .op .powerLoss := ⟨rfl, rfl, rfl⟩

/-- Entries due in the next cycle and in the one after it. -/
theorem witness_AdvanceBringsDueWork :
    let d : Due := ⟨1, rankUntimed, .op .powerLoss⟩
    let e : Due := ⟨2, 0, .op .powerLoss⟩
    let s : State := { State.reset with agenda := [d, e] }
    s.cur.open_ = false ∧ s.todo = [] ∧ d ∈ s.agenda ∧ d.rank ∈ allRanks ∧ d.at_ ≤ s.now + 1 ∧ e ∈ s.agenda ∧
      e.rank ∈ allRanks ∧ s.now + 1 < e.at_ := by decide

theorem witness_MemoryStaysCanonical : Memory.wf State.reset.mem = true ∧ step State.reset = .next State.reset.advance :=
  ⟨rfl, rfl⟩

/-- The first and the last register of each file; cells with no byte twice; the first and the last tolerance entry. -/
theorem witness_LandingWritesRegister : (1 : Nat) ≠ 0 ∧ 1 < 32 ∧ (31 : Nat) ≠ 0 ∧ 31 < 32 ∧ (15 : Nat) ≠ 0 ∧ 15 < 16 ∧
    (([(0, 1), (8191, 2)] : List (Nat × Byte)).map (fun e => e.1)).Nodup ∧ (3 : Nat) ≠ 0 ∧ (0 : Nat) < 16 := by
  decide

/-- R10: n0 and d0 are registers like any other. -/
theorem test_landing_zero_registers :
    (match exec (.resultLanding origin0 (.n 0 7)) (issuing sup0) with
      | .next t => (t.ctxAt 0).regN 0 == 7
      | _ => false) = true ∧
      (match exec (.resultLanding origin0 (.d 0 7)) (issuing sup0) with
      | .next t => (t.ctxAt 0).regD 0 == 7
      | _ => false) = true := by decide

/-! ### Witnesses: A, B and K slots -/

theorem witness_guard_holds : (issuing sup0).me.passes always = true := by decide

theorem witness_ScalarArithmetic : (issuing sup0).me.passes always = true := witness_guard_holds

theorem witness_ScalarLogic : (issuing sup0).me.passes always = true := witness_guard_holds

theorem witness_ScalarShifts : (issuing sup0).me.passes always = true := witness_guard_holds

theorem witness_ScalarBits : (issuing sup0).me.passes always = true := witness_guard_holds

theorem witness_ScalarCompares : (issuing sup0).me.passes always = true := witness_guard_holds

theorem witness_PredicateLogic : (issuing sup0).me.passes always = true := witness_guard_holds

/-- A clean and a poisoned l source, a register that user mode reads and one that it does not. -/
theorem witness_ScalarCopies :
    let s := issuing { user0 with lp := 2 }
    s.me.passes always = true ∧ s.me.poisonL 0 = false ∧ s.me.poisonL 1 = true ∧ userReads 0x00E = true ∧
      s.me.sup = false ∧ userReads 0x010 = false ∧ userReads 0x014 = false := by decide

/-- A plain form, and a privileged one in the mode that may run it. -/
theorem witness_NoEffect : (issuing sup0).me.passes never = false ∧ Instr.guard (.add .a never 1 2 3) = some never ∧
    privilegeOf false false false false (.add .a never 1 2 3) = none ∧ Instr.guard (.dMrs never 0 0) = some never ∧
    privilegeOf true true true true (.dMrs never 0 0) = none := by decide

theorem witness_SlotFrame : Instr.unit .kNop < 8 ∧ exec .kNop (issuing sup0) = .next (issuing sup0) := ⟨by decide, rfl⟩

theorem witness_Transfers :
    let s := issuing { sup0 with lp := 2 }
    s.me.passes always = true ∧
      (∃ i, i < 4 ∧ (2 : BitVec 4).getLsbD i = true ∧ s.me.poisonL (4 * 0 + i) = true) ∧
      (∀ i, i < 4 → (1 : BitVec 4).getLsbD i = true → s.me.poisonL (4 * 0 + i) = false) :=
  ⟨by decide, ⟨1, by decide⟩, by decide⟩

/-- A result that is due in the next cycle is pending. -/
def oneDue : List Due := [⟨1, rankLand, .op (.resultLanding origin0 (.a 1 0))⟩]

theorem witness_TrapAndQuiet :
    (issuing user0).me.sup = false ∧ (issuing user0).me.inDelay = false ∧
      (issuing user0).pending (issuing user0).cur.ctx = false ∧ (issuing user0).me.ev = {} ∧
      (let s := { issuing user0 with agenda := oneDue }
       s.me.inDelay = false ∧ s.pending s.cur.ctx = true ∧ s.me.il = false) ∧
      (let s := { issuing { user0 with il := true } with agenda := oneDue }
       s.me.inDelay = false ∧ s.pending s.cur.ctx = true ∧ s.me.il = true) := by decide

def entry0 : LoopEntry := { count := 1, index := 0, start := 4, stop := 0, rot := false, vrot := false }

/-- Five entries on the stack, the end at the next bundle, the smallest counts; and an empty stack. -/
theorem witness_Loops :
    let s := issuing { sup0 with loops := [entry0, entry0, entry0, entry0, entry0], ra := [(1, 1)] }
    (s.loopEnd 1).toNat ≥ s.nextPc.toNat ∧ s.me.loops.length < 6 ∧ (true = true → 8 ≤ s.me.vg) ∧ (1 : BitVec 8) ≠ 0 ∧
      (s.me.regA (1 : BitVec 5).toNat).setWidth 32 ≠ 0 ∧ (1 : BitVec 6) ≠ 0 ∧ (0 : BitVec 8) = 0 ∧
      s.me.passes always = true ∧ s.me.loops = entry0 :: [entry0, entry0, entry0, entry0] ∧
      (issuing sup0).me.loops = [] ∧ ((issuing sup0).loopEnd 1).toNat ≥ (issuing sup0).nextPc.toNat := by decide

theorem witness_EndBundleRule :
    let c : Context := { sup0 with loops := [entry0] }
    let d : Context := { sup0 with loops := [{ entry0 with count := 2, rot := true, vrot := true }] }
    c.loops = entry0 :: [] ∧ entry0.stop ≠ 4 ∧ entry0.stop = 0 ∧ entry0.count.toNat ≤ 1 ∧
      d.loops = { entry0 with count := 2, rot := true, vrot := true } :: [] ∧
      1 < ({ entry0 with count := 2, rot := true, vrot := true } : LoopEntry).count.toNat := by decide

/-- A free token, a BUSY one; the cycle of a hold now, past and to come; a barrier whose phase has changed. -/
theorem witness_RetimingPoints :
    let s : State := { issuing { sup0 with toks := [(1, { st := .busy })], bts := [(0, 0x10001)], ra := [(1, 1), (2, 2)] } with
      now := 1
      bars := [(1, { expected := 2, phase := 1 })] }
    s.me.inDelay = false ∧ s.me.held = none ∧ s.me.busyToken 1 = false ∧ s.me.faultToken 1 = none ∧
      s.me.busyToken 2 = true ∧ (s.coreAt (coreOf s.cur.ctx)).det = false ∧ s.me.holdTarget 1 = s.conc ∧
      s.me.holdTarget 0 < s.conc ∧ s.conc < s.me.holdTarget 2 ∧ s.readyOthers s.cur.ctx = [] ∧
      (sget 0 s.me.bts (0 : BitVec 2).toNat).getLsbD 16 = true ∧
      (s.barrier (barKey s.cur.ctx ((sget 0 s.me.bts (0 : BitVec 2).toNat).toNat % 256))).expected ≠ 0 ∧
      s.seenPhase (coreOf s.cur.ctx) (barKey s.cur.ctx ((sget 0 s.me.bts (0 : BitVec 2).toNat).toNat % 256)) ≠
        BitVec.ofNat 8 ((sget 0 s.me.bts (0 : BitVec 2).toNat).toNat / 256) := by decide

theorem witness_ArriveAndSpawn :
    let s : State := { issuing sup0 with bars := [(1, { expected := 2 }), (2, { expected := 1 })] }
    s.me.passes always = true ∧ (s.barrier (barKey s.cur.ctx (1 : BitVec 8).toNat)).expected ≠ 0 ∧
      (s.barrier (barKey s.cur.ctx (0 : BitVec 8).toNat)).expected = 0 ∧
      (s.barrier (barKey 0 2)).arrivals + 1 = (s.barrier (barKey 0 2)).expected ∧
      (s.barrier (barKey 0 1)).arrivals + 1 ≠ (s.barrier (barKey 0 1)).expected := by decide

theorem witness_PrivilegedControls :
    let s := issuing { sup0 with ra := [(2, 7)] }
    s.me.sup = true ∧ s.pending s.cur.ctx = false ∧ (s.me.token (0 : BitVec 3).toNat).st = .free ∧
      msrAllowed true (0x00E : BitVec 10).toNat = true ∧ 8 ≤ (8 : BitVec 10).toNat ∧ (10 : BitVec 10).toNat ≤ 10 ∧
      11 ≤ (11 : BitVec 10).toNat ∧ (13 : BitVec 10).toNat ≤ 13 ∧
      formatInvalid ((s.me.regA (0 : BitVec 5).toNat).toNat % 2 ^ 32) = false ∧ 32 ≤ (32 : BitVec 10).toNat ∧
      (47 : BitVec 10).toNat ≤ 47 ∧ tolValid (s.me.regA (0 : BitVec 5).toNat) = true := by decide

theorem witness_PrivilegeTraps :
    let s := issuing { user0 with gM := false, gN := false, gD := false }
    s.me.sup = false ∧ ((0x008 : BitVec 10) = 0x008 ∨ (0x008 : BitVec 10) = 0x00A) ∧ (0x009 : BitVec 10) ≠ 0x008 ∧
      (0x009 : BitVec 10) ≠ 0x00A ∧ s.me.gM = false ∧ s.me.gN = false ∧ s.me.gD = false ∧
      (let r := issuing { sup0 with gD := false }
       r.me.sup = true ∧ r.me.gD = false) := by decide

/-! ### Witnesses: L slots -/

theorem witness_ScratchpadAccesses :
    let s := issuing sup0
    s.me.passes always = true ∧ s.me.poisonL (31 : BitVec 5).toNat = false ∧ s.me.poisonL (1 : BitVec 5).toNat = false ∧
      s.me.poisonL (2 : BitVec 5).toNat = false := by decide

/-- Shelf 1 is one granule long and FULL, shelf 2 is FILLING. -/
def shelved : Context :=
  { sup0 with shelves := [(1, { len := 1, fs := .full }), (2, { base := 1, len := 1, fs := .filling })] }

/-- The last eight bytes of each half, each size, and a read past the end. -/
theorem witness_LoadSamplesAndStores :
    let s := issuing shelved
    (s.readCheck 0 { sh := 1, off := 56, size := 8 } 8).2 = none ∧ (s.readCheck 0 { sh := 1, off := 63, size := 1 } 1).2 = none ∧
      (s.readCheck 0 { sh := 1, off := 62, size := 2 } 2).2 = none ∧ (s.readCheck 0 { sh := 1, off := 60, size := 4 } 4).2 = none ∧
      (s.readCheck 0 { sh := 1, off := 64, size := 8 } 8).2 = some ⟨0x06, 2, 0⟩ ∧
      s.writeCheck 0 { sh := 2, off := 56, size := 8 } 8 = none ∧ s.writeCheck 0 { sh := 2, off := 63, size := 1 } 1 = none := by
  decide

theorem witness_AddressesAndShelves :
    (issuing sup0).me.passes always = true ∧ (issuing sup0).me.sup = true ∧
      (issuing sup0).me.poisonL (31 : BitVec 5).toNat = false := by decide

/-- A shelf in each of the four states. -/
theorem witness_ShelfTransitions :
    let s := issuing { sup0 with shelves := [(1, { len := 1 }), (2, { len := 1, fs := .filling }), (3, { len := 1, fs := .full }),
      (4, { len := 1, fs := .draining })] }
    s.me.stage = .run ∧ ∀ i, 1 ≤ i → i ≤ 4 → (s.me.shelf i).len ≠ 0 ∧ (s.me.shelf i).dbl = false ∧
      (s.me.shelf i).fs = (match i with
        | 1 => .empty
        | 2 => .filling
        | 3 => .full
        | _ => .draining) := by
  refine ⟨by decide, fun i h1 h2 => ?_⟩
  have : i = 1 ∨ i = 2 ∨ i = 3 ∨ i = 4 := by omega
  rcases this with rfl | rfl | rfl | rfl <;> decide

/-- Whether a descriptor for shelf 3 fits a context. -/
abbrev fits3 (c : Context) (e : Shelf) : Prop :=
  e.base.toNat + e.len.toNat * (1 + e.dbl.toNat) ≤ 1024 * c.sg ∧ ∀ j, j < 64 → j ≠ 3 → (c.shelf j).len ≠ 0 →
    e.base.toNat + e.len.toNat * (1 + e.dbl.toNat) ≤ (c.shelf j).base.toNat ∨
      (c.shelf j).base.toNat + (c.shelf j).len.toNat * (1 + (c.shelf j).dbl.toNat) ≤ e.base.toNat

/-- A double shelf whose halves are not EMPTY, an undeclared one; a declaration that ends with the region, one past it and one
over another shelf. -/
theorem witness_ShelfTransitions_double :
    let c : Context := { sup0 with
      partWord := 0x200, shelves := [(1, { len := 1, dbl := true, bs := .filling }), (2, { base := 8, len := 4 })] }
    c.stage = .run ∧ (c.shelf 1).len ≠ 0 ∧ (c.shelf 1).dbl = true ∧ (c.shelf 1).bs ≠ .empty ∧ (c.shelf 3).len = 0 ∧
      fits3 c { base := 1023, len := 1 } ∧ ¬ fits3 c { base := 1023, len := 1, dbl := true } ∧
      ¬ fits3 c { base := 7, len := 2 } := by
  intro c
  exact ⟨by decide, by decide, by decide, by decide, by decide, by decide, by decide, by decide⟩

/-! ### Witnesses: V slots -/

/-- The datapath is free; element counts on both sides of the tests of `v.quant` and `v.ldt`; a clean and a poisoned l. -/
theorem witness_VectorFormsStart :
    let s := issuing { sup0 with lp := 2 }
    let r := issuing { sup0 with vl := 33 }
    (s.coreAt (coreOf s.cur.ctx)).vFree ≤ s.now ∧ s.me.poisonL 0 = false ∧ s.me.poisonL 1 = true ∧ s.me.vl % 32 = 0 ∧
      s.me.vl * 4 / ElemType.f32.width % 1024 = 0 ∧ (r.coreAt (coreOf r.cur.ctx)).vFree ≤ r.now ∧ r.me.vl % 32 ≠ 0 ∧
      r.me.vl * 4 / ElemType.i8.width % 1024 ≠ 0 := by decide

/-- An operation of a form on two elements of 4 bytes, the second inactive. -/
def vop (i : Instr) : VOp :=
  { o := origin0, i := i, cnt := 2, quarter := 1, quarters := 1, lReg := 7, predVal := true, src := 0, src1 := 1, tsrc := 0,
    tsrc1 := 1, dst := 2, dst1 := 3, vs := leBytes 8 0xFFFFFFFF00000005, vs1 := [], vt := leBytes 8 3, vt1 := leBytes 8 0,
    vd := leBytes 8 0, q := [true, true, true, true], seg := [], mq := 1, mqd := 1 }

/-- The forms that need more than their own name: the float types, whole blocks, and the types that widen. -/
theorem witness_VectorElements :
    (vop (.vAdd .i32 0 2 0 0)).i = .vAdd .i32 0 2 0 0 ∧ ElemType.isFloat .f32 = true ∧ ElemType.isFloat .bf16 = true ∧
      ({ vop (.vQuant 2 0 0 0) with cnt := 32 } : VOp).cnt % 32 = 0 ∧ ElemType.widens .i8 = true ∧
      ElemType.widens .bf16 = true ∧ (vop (.vScan .i32 0 2 0 0 false 0 false)).q.getD (4 * 0) false = true ∧
      (vop (.vScan .i32 0 2 0 0 false 0 false)).q.getD (4 * 1) false = false := by decide

/-- The special cases of `v.exp2`, `v.rcp` and `v.rsqrt` are values of the format: NaN, both infinities, both zeros, 4, −4. -/
theorem witness_VectorElements_specials :
    vVal .f32 0x7FC00000 = .nan ∧ vVal .f32 0x7F800000 = .inf false ∧ vVal .f32 0xFF800000 = .inf true ∧
      (∃ e, vVal .f32 0 = .fin false 0 e) ∧ (∃ e, vVal .f32 0x80000000 = .fin true 0 e) ∧
      vVal .f32 0x40800000 = .fin false (2 ^ 23) (-21) ∧ (-21 : Int) + 23 = 2 * 1 ∧
      vVal .f32 0xC0800000 = .fin true (2 ^ 23) (-21) ∧ (vVal .f32 0x40800000).eq (.ofInt 4) = true :=
  ⟨by decide, by decide, by decide, ⟨_, rfl⟩, ⟨_, rfl⟩, by decide, by decide, by decide, by decide⟩

/-- Table 08-1 on two elements: 5 + 3 in the active one, the other not written; 2 to the power 2; 1 / 4. -/
theorem test_vector_add :
    (vop (.vAdd .i32 0 2 0 0)).results = (2, [.vec 2 [(0, 8), (1, 0), (2, 0), (3, 0)]]) := by decide

theorem test_vector_min_float :
    let v := { vop (.vMin .f32 0 2 0 0) with vs := leBytes 8 0x80000000, vt := leBytes 8 0 }
    v.results = (2, [.vec 2 [(0, 0), (1, 0), (2, 0), (3, 0x80)]]) := by decide

theorem witness_InactiveElementsKept : 0 < 2 ∧ ((2, 5) : Nat × Byte) ∈ cellsOf 2 0 [false, true] [7, 5] := by decide

theorem witness_VectorMemoryPerforms :
    let s := issuing { sup0 with shelves := [(1, { len := 32, fs := .full }), (2, { base := 32, len := 32, fs := .filling })] }
    s.writeCheck 0 { sh := 2, off := 0, size := 2048 } 64 = none ∧
      (s.readCheck 0 { sh := 1, off := 0, size := 2048 } 64).2 = none ∧
      (([(0, 1), (2047, 2)] : List (Nat × Byte)).map (fun e => e.1)).Nodup ∧
      (s.writeCheck 0 { sh := 2, off := 64, size := 2048 } 64).isSome = true ∧
      (s.readCheck 0 { sh := 2, off := 0, size := 2048 } 64).2.isSome = true := by decide

/-! ### Witnesses: M slots -/

/-- A valid stationary operand in an F-group format and an I-tagged accumulator; queue entry 0 sends and receives on link 0,
whose queue 0 takes partial sums in format 0. -/
def arrayed : State :=
  { issuing { sup0 with stat := 0x8000000000000, sides := [(0, { grpI := true })] } with
    cores := [(0, { qview := [(0, 0x80200)] })]
    parts := [(0, { valid := true, cores := [0, 1] })] }

theorem witness_MatrixForms :
    let s := arrayed
    s.me.passes always = true ∧ s.me.gM = true ∧ s.nextInPart s.cur.ctx = true ∧ s.me.poisonL 31 = false ∧
      tolValid (s.me.regL 31) = true ∧ (s.coreAt (coreOf s.cur.ctx)).inFree ≤ s.now ∧
      s.mulDetail s.cur.ctx 0 0 false 0 1 0 = none ∧ s.mulDetail s.cur.ctx 15 1 false 1 0 0 = none ∧
      s.mulDetail s.cur.ctx 15 2 false 2 0 0 = none ∧ s.mulDetail s.cur.ctx 15 3 false 0 1 0 = none ∧
      (s.coreAt (coreOf s.cur.ctx)).drFree ≤ s.now ∧ (true = true → (s.me.side 0).grpI = true) ∧
      s.viewMine s.cur.ctx = true ∧ viewTxv (s.viewEntry (coreOf s.cur.ctx) 0) = true ∧
      512 % elemBits s.me.fc.toNat = 0 := by decide

/-- The wide forms need an I-group operand. -/
theorem witness_MatrixForms_wide :
    let s := issuing { sup0 with fa := 12, stat := 0x8000C00000000, sides := [(0, { grpI := true })] }
    s.me.passes always = true ∧ s.me.gM = true ∧ (s.coreAt (coreOf s.cur.ctx)).inFree ≤ s.now ∧
      s.mulDetail s.cur.ctx 0 0 true 0 1 0 = none ∧ s.mulDetail s.cur.ctx 0 1 true 0 1 0 = none := by decide

/-- A write of each kind, and another in the same pipe. -/
theorem witness_FormatShadow :
    let c : Context := { sup0 with shadow := [0x00B, 0x00C, 0x00D, 0x2F, 0x100 + 16 * 23 + 15].map (fun n => { num := n, v := 5, left := 3 }) }
    ∀ n ∈ [0x00B, 0x00C, 0x00D, 0x2F, 0x100 + 16 * 23 + 15], ((issuing c).ctxAt 0).shadow.filter (fun w => w.num == n) =
      [{ num := n, v := 5, left := 3 }] := by decide

/-! ### Witnesses: N slots -/

/-- Queue entry 0 receives from link 0 and sends on link 1, whose outgoing cycles the partition owns; queue 0 of link 0 takes
the format whose code is 1, and queue 0 of link 2, behind entry 1, the one whose code is 0. -/
def linked : State :=
  let own : Store TTEntry := (List.range 256).map (fun i => (i, { kind := 0, part := 0 }))
  { issuing sup0 with
    cores := [(0, { qview := [(0, 0x80600), (1, 0x80602)] })]
    links := [(0, { queues := [(0, { fk := 1 })] }), (1, { outT := own })]
    latches := [(7, { assigned := true })] }

theorem witness_LinkForms :
    let s := linked
    let v := s.viewEntry 0 0
    let w := s.viewEntry 0 1
    s.me.passes always = true ∧ s.me.gN = true ∧ s.me.poisonL 31 = false ∧ viewRxv v = true ∧ viewTxv v = true ∧
      s.departFault s.me.part (viewTxl v) (s.concI + 6) = none ∧ viewRxl v / 12 = viewTxl v / 12 ∧
      (s.queue (viewRxl v) (viewRxq v)).fk.toNat = (if true then 1 else 0) ∧
      s.departFault s.me.part (viewTxl v) (s.concI + 14) = none ∧ viewRxv w = true ∧ viewTxv w = true ∧
      viewRxl w / 12 = viewTxl w / 12 ∧ (s.queue (viewRxl w) (viewRxq w)).fk.toNat = (if false then 1 else 0) := by decide

theorem witness_NetworkSettings :
    let s := linked
    let y := s.latch (bayOf (coreOf s.cur.ctx)) (7 : BitVec 3).toNat
    let w := (s.me.regN (15 : BitVec 4).toNat).toNat
    s.me.passes always = true ∧ s.me.poisonL 31 = false ∧ s.me.gN = true ∧ y.assigned = true ∧ y.part = s.me.part ∧
      viewRxv (s.viewEntry (coreOf s.cur.ctx) 0) = true ∧ formatInvalid (w % 2 ^ 17) = false ∧
      formatInvalid (w / 2 ^ 32 % 2 ^ 17) = false ∧ elemBits (w % 2 ^ 17) = elemBits (w / 2 ^ 32 % 2 ^ 17) ∧
      elemBits (w % 2 ^ 17) = 32 := by decide

/-! ### Witnesses: D slots -/

/-- Partition 0 owns every arrival cycle of pseudo-channels 0 and 1 and row 0 of pseudo-channel 0. -/
def dramOwned (h : List DCmd) : State :=
  let own : Store CircEntry := (List.range 64).map (fun i => (i, { owner := 0, open_ := false }))
  { issuing sup0 with
    pcs := [(0, { circ := own, hist := h }), (1, { circ := own })]
    windows := [(0, { base := 12287, count := 1 })] }

theorem exists_ok {α β : Type} {e : Except α β} (h : e.isOk = true) : ∃ c, e = .ok c := by
  cases e with
  | ok c => exact ⟨c, rfl⟩
  | error _ => cases h

def testsAt48 (k : DKind) : Prop := let s := dramOwned []
  s.me.passes always = true ∧ s.me.gD = true ∧ s.me.poisonL 31 = false ∧
    ∃ c, s.testTimed s.me.part {
        kind := k, pc := dPc (s.me.regD 0), bank := dBank (s.me.regD 0), row := dRow (s.me.regD 0), col := 0
        at_ := s.concI + 48, src := .timed (s.here unitD) 0 } 0 = .ok c

theorem witness_DramCommands : testsAt48 .act ∧ testsAt48 .pre ∧ testsAt48 .prea ∧ testsAt48 .ref ∧ testsAt48 .refpb ∧
    testsAt48 .sre ∧ testsAt48 .srx ∧ testsAt48 .pde ∧ testsAt48 .pdx := by
  refine ⟨?_, ?_, ?_, ?_, ?_, ?_, ?_, ?_, ?_⟩ <;>
    exact ⟨by decide, by decide, by decide, exists_ok (by decide)⟩

/-- Row 0 of bank 0 is open: four bursts are read or written up to column 63, and 255 arrival cycles can be reserved. -/
def rowOpen : State := dramOwned [{ kind := .act, pc := 0, bank := 0, row := 12287, col := 0, at_ := 0, src := .request 0 0 }]

def columns (kind : DKind) : List DCmd :=
  (List.range ((3 : BitVec 6).toNat + 1)).map (fun j => { rowOpen.cmdOf kind 0 (j * rowOpen.timing.tCCDL) j with col := 60 + j })

theorem witness_DramData_bursts :
    rowOpen.me.passes always = true ∧ rowOpen.me.gD = true ∧ rowOpen.me.poisonL 1 = false ∧
      (∃ ds, rowOpen.testAll rowOpen.me.part (60 + 3 + 1) 0 (columns .rd) = .ok ds) ∧
      (∃ ds, rowOpen.testAll rowOpen.me.part (60 + 3 + 1) 0 (columns .wr) = .ok ds) :=
  ⟨by decide, by decide, by decide, exists_ok (by decide), exists_ok (by decide)⟩

theorem witness_DramData_reserve :
    ∃ ds, rowOpen.testAll rowOpen.me.part 0 0
      ((List.range (4 : BitVec 8).toNat).map (fun i => rowOpen.cmdOf .reserve 0 i 0)) = .ok ds := exists_ok (by decide)

/-- Mode registers 12 and 15; a window that ends at the last row of a bank. -/
theorem witness_DramData_settings :
    let s := dramOwned []
    let w : BankWindow := { base := 12287, count := 1 }
    s.me.sup = true ∧ 12 ≤ (0xC05 : Reg).toNat / 2 ^ 8 % 32 ∧ (0xF05 : Reg).toNat / 2 ^ 8 % 32 ≤ 15 ∧
      (∃ ds, s.testAll s.me.part 0 0 [{ s.cmdOf .mrs 0 0 0 with col := 12, row := 5 }] = .ok ds) ∧
      w.base + w.count ≤ 12288 ∧ s.windowClash s.me.part (dPc 0) w = false :=
  ⟨by decide, by decide, by decide, exists_ok (by decide), by decide, by decide⟩

/-! ### Witnesses: the issue stage and contexts -/

/-- A one-word bundle of K at PC 0. -/
def oneBundle : Context := { user0 with code := [0x80000000] }

theorem witness_IssueRows :
    let s : State := { State.reset with ctxs := [(4 * 287 + 3, oneBundle)] }
    let c := s.ctxAt (4 * 287 + 3)
    (3 : Nat) < 4 ∧ c.bundleFault = none ∧ c.sup = false ∧ (s.coreAt 287).det = false ∧
      (∀ j, j < 4 → j ≠ 3 → (s.ctxAt (4 * 287 + j)).stage = .idle) ∧ c.stage = .run ∧ c.resumeAt ≤ s.now ∧ c.closes = [] ∧ c.held = none ∧
      c.breaks = [] ∧ c.ev = {} ∧ c.il = false ∧ c.inDelay = false ∧ c.qcount < c.qmax ∧
      retiming (c.bundle.headD .kNop) = false ∧ s.otherV (4 * 287 + 3) c.bundle = false := by decide

theorem witness_HandlerEntry :
    let x : TrapInfo := { cause := 0x15, dfr := false, more := false, pc := 8, info := 1, at_ := 0 }
    ((issuing { user0 with stage := .trap, trap := some x }).ctxAt 0).trap = some x ∧
      (let c : Context := { user0 with shadow := [{ num := 0x00B, v := 5, left := 1 }, { num := 0x2F, v := 6, left := 2 }] }
       (∀ w ∈ c.shadow, w.num ≠ 0x00C) ∧ ∀ w ∈ c.shadow, c.shadow.filter (fun y => y.num == w.num) = [w]) := by decide

/-- A context whose save has come to a point, under a launch of two contexts. -/
def saving (job status : Option Nat) : State :=
  { issuing { user0 with stage := .saving, launch := 1, saveJob := job, saveStatus := status } with
    launches := [{ id := 1, raw := 0, part := 0, home := 0, stage := .live, ctxs := [0, 3] }] }

/-- Not begun, under way, ended, refused; and a record one of whose shelves the context changed. -/
theorem witness_ContextRows :
    ((saving none none).ctxAt 0).saveStatus = none ∧ ((saving none none).ctxAt 0).saveJob = none ∧
      ((saving (some 7) none).ctxAt 0).saveStatus = none ∧ ((saving (some 7) none).ctxAt 0).saveJob ≠ none ∧
      ((saving (some 7) (some 0)).ctxAt 0).saveStatus = some 0 ∧
      (let s := saving (some 7) (some 3)
       (s.ctxAt 0).saveStatus = some 3 ∧ (s.launches.find? (fun l => l.id == (s.ctxAt 0).launch)).map (fun l => l.ctxs) =
         some [0, 3] ∧ ∀ v ∈ s.saved, v.ctx.launch = (s.ctxAt 0).launch → v.key ≠ 3) ∧
      (let c : Context := { user0 with changed := 2, record := { shelves := [(1, { len := 1 })] } }
       c.changed.getLsbD 1 = true ∧ c.changed.getLsbD 2 = false) := by decide

/-! ### Witnesses: the array and drains -/

def load0 : LoadOp := { o := origin0, tr := false, gen := true, acc := { sh := 1, off := 0, size := 64 }, fb := 0 }

def mul0 : MulOp := { o := origin0, z := 0, pin := 0, wide := false, a := .none, p := .none, fa := 0, op := {}, af := false, pf := false }

theorem witness_ArrayRows :
    ({ issuing sup0 with cores := [(0, { load := some load0 })] } : State).loadOf origin0 = some load0 ∧
      (let s : State := { issuing sup0 with muls := [mul0] }
       s.mulOf origin0 = some mul0 ∧ s.pRow (if 128 = 128 then s.chainMargin mul0 else mul0) 128 = some [] ∧
         (s.chainMargin mul0).pf = false ∧ (128 : Nat) ≤ 128) ∧
      (let m : MulOp := { mul0 with wide := true, pin := 1, fa := 12 }
       let s : State := { issuing sup0 with muls := [m] }
       s.mulOf origin0 = some m ∧ s.pRow m 127 = some [] ∧ isInt m.fa.toNat = true) ∧
      (let m : MulOp := { mul0 with p := .queue 0, pin := 3, pf := true, prows := [(0, [1])] }
       let s : State := { issuing sup0 with muls := [m] }
       s.mulOf origin0 = some m ∧ s.pRow m 0 = some [1] ∧ m.pf = true) := by
  decide

/-- A drain of z0 to shelf 2 in an 8-bit and in a block format, with one element to recompute and no margin to test. -/
def drain0 (fc : Word) : DrainOp :=
  { o := origin0, chk := false, z := 0, wide := false, pub := false, lq := none, acc := { sh := 2, off := 0, size := folioSize fc.toNat }
    fc := fc, tol := 0, side := { mr := false, mc := false }, fix := some (127, 127) }

def draining (fc : Word) : State :=
  { issuing { sup0 with shelves := [(2, { len := 2048, fs := .filling })] } with drains := [drain0 fc] }

theorem witness_DrainRows_drain : (draining 0).drainOf origin0 = some (drain0 0) ∧ (drain0 0).verdict = ([], [], false) ∧
    (drain0 0).lq = none ∧ (drain0 0).chk = false := by
  refine ⟨by decide, ?_, by decide, by decide⟩
  simp [DrainOp.verdict, drain0]

theorem witness_DrainRows_recompute :
    let d := drain0 0
    let d' := { d with rows := sput d.rows 127 (((d.rows.lookup 127).getD []).set 127 0) }
    let col := (List.range 129).map (fun k => (d'.row k).getD 127 Machine.Num.zero)
    d.fix = some (127, 127) ∧ d.side.hist = some [] ∧ ((draining 0).recompute origin0 d.wide 127 127 [] 0).2 = some 0 ∧
      d'.test ((d'.row 127).take 128) ((d'.row 127).getD 128 Machine.Num.zero) = false ∧
      d'.test (col.take 128) (col.getD 128 Machine.Num.zero) = false := by decide

theorem witness_DrainRows_write :
    (draining 0).writeCheck 0 (drain0 0).acc 64 = none ∧ isBlock 0 = false ∧
      (convertRow 0 (((drain0 0).row 127).take 128) (drain0 0).side.grpI).ok = true ∧
      (draining 5).writeCheck 0 (drain0 5).acc 64 = none ∧ isBlock 5 = true ∧
      (convertRow 5 (((drain0 5).row 127).take 128) (drain0 5).side.grpI).ok = true := by decide

/-- A drain to queue 0 of link 1, which is up and whose cycles the partition owns: a row, and the margin flits. -/
theorem witness_DrainRows_queue :
    let d : DrainOp := { drain0 0 with lq := some 0 }
    let s : State := { linked with
      drains := [d], links := linked.links.map (fun e => if e.1 = 1 then (1, { e.2 with st := 2 }) else e) }
    s.drainOf origin0 = some d ∧ d.lq = some 0 ∧ (s.link (viewTxl (s.viewEntry 0 0))).st = 2 ∧
      s.departFault (s.ctxAt 0).part (viewTxl (s.viewEntry 0 0)) s.concI = none ∧
      (convertRow 0 ((d.row 127).take 128) d.side.grpI).ok = true ∧ 128 ≤ 135 := by decide

/-! ### Witnesses: HBM4 -/

def burst0 : Burst :=
  { acc := { sh := 1, off := 32, size := 32 }, pc := 0, bank := 0, row := 0, col := 63, final := true, flag := false
    half := false }

def cmd0 (k : DKind) : DCmd := { kind := k, pc := 511, bank := 31, row := 12287, col := 63, at_ := 0, src := .timed origin0 0 }

/-- Shelf 1 is FULL and shelf 2 FILLING; data waits for a write, and a landing for a read. -/
def bursting : State :=
  { issuing shelved with
    wrData := [(origin0, 0, 1, false)]
    agenda := [⟨60, rankPerform unitD, .op (.readBurstLanding origin0 0 burst0 0 false)⟩] }

theorem witness_DramRows :
    (cmd0 .wr).kind = .wr ∧ (cmd0 .wr).src = .timed origin0 0 ∧
      bursting.wrData.find? (fun e => e.1 == origin0 && e.2.1 == 0) = some (origin0, 0, 1, false) ∧
      (⟨60, rankPerform unitD, .op (.readBurstLanding origin0 0 burst0 0 false)⟩ : Due) ∈ bursting.agenda ∧
      bursting.writeCheck 0 { burst0.acc with sh := 2 } 32 = none ∧ (bursting.readCheck 0 burst0.acc 32).2 = none := by decide

/-- A column command of a request of each kind, and a burst with a release that has named its half. -/
theorem witness_DramRows_requests :
    let q := fun (id : Nat) (k : ReqKind) => ({ id := id, owner := .loan 1, cls := 3, dpa := 64, kind := k, ready := 0, order := id } : Request)
    let qs := [q 1 .read, q 2 (.write [(0, 1), (63, 2)] [1]), q 3 (.atomic 0x10 56 8 1 7 0), q 4 (.accumulate 4 2 [(60, 1)] [])]
    let s : State := { issuing shelved with pcs := [(511, { queue := qs })] }
    (∀ r ∈ qs, (s.pseudo 511).queue.find? (fun x => x.id == r.id) = some r) ∧
      (([(0, 1), (63, 2)] : List (Nat × Byte)).map (fun e => e.1)).Nodup ∧ (∀ e ∈ ([(0, 1), (63, 2)] : List (Nat × Byte)), e.1 < 64) ∧
      56 + 8 ≤ 64 ∧ 60 + 4 ≤ 64 ∧ (s.readNamed 0 { sh := 1, off := 32, size := 32 } 32 false false).2 = none ∧
      (s.readNamed 0 { sh := 1, off := 32, size := 32 } 32 true true).2 = none := by decide

/-- An OPEN slot and a bank that owes its refreshes: the issuer has a command. -/
theorem witness_DramRows_issuer :
    let s : State := { issuing sup0 with pcs := [(0, { debt := [(0, 8)] })] }
    s.slotFree 0 (s.concI + 1) = true ∧
      ∃ c, (candidates 0 (s.concI + 1) (s.pseudo 0) (s.channelOpen 0)).find? (fun x => (s.refusedBy x).isNone) = some c := by
  refine ⟨by decide, Option.isSome_iff_exists.1 ?_⟩
  decide

theorem witness_RefreshRows :
    let s : State := { issuing sup0 with now := 65536, pcs := [(511, { debt := [(31, 7)] })] }
    sget 0 (s.pseudo 511).debt 31 < 8 ∧
      inSelfRefresh ((s.pseudo 511).hist.filter (fun c => decide (c.at_ ≤ s.concI))) = false ∧
      inSelfRefresh ((s.pseudo 511).hist.filter (fun c => decide (c.at_ < s.concI))) = false ∧
      s.idleLong 255 = true ∧
      s.refusedBy { kind := .sre, pc := 2 * 255, bank := 0, row := 0, col := 0, at_ := s.concI + 1, src := .request 0 0 } = none ∧
      (s.ctxAt 0).gD = true ∧ (s.ctxAt 0).present = true := by decide

/-! ### Witnesses: links, span and packets -/

/-- A flit of zeros with its CRC. -/
def sealed : Flit := sealFlit flit0 0

theorem witness_LinkRows :
    let s : State := { issuing { sup0 with shelves := [(2, { len := 1, fs := .filling })] } with
      links := [(0, { st := 2, nacks := [5] }), (1, { stage := [(0, some (3, sealed))] })] }
    let x := s.link 0
    let y := s.link 1
    x.st = 2 ∧ flitGood sealed = true ∧ x.taken (flitSeq sealed) = false ∧ flitGood { sealed with data := 1 } = false ∧
      x.nacks = 5 :: [] ∧ y.stage = [(y.seqIn, some (3, sealed))] ∧ flitKind sealed ≠ 3 ∧
      (y.queue (flitTxq sealed)).flits.length < 64 ∧ s.writeCheck 0 { sh := 2, off := 0, size := 64 } 64 = none ∧
      (7 : Nat) < 8 := by decide +kernel

/-- A flit that a FWD entry passes on in its cycle, one that another queue keeps, one that comes late, one that an OPEN entry
drops, and a packet's; and a held flit whose out entry is its own, is not, or is taken. -/
theorem witness_LinkRows_passing :
    let fwd : Store TTEntry := [(3, { kind := 1, fl := 7, fq := 0 })]
    let x : Link := { st := 2, lam := 3, inT := fwd }
    let y : Link := { st := 2, outT := [(8, { kind := 1, fl := 0, fq := 0 })] }
    let s : State := { State.reset with now := 3, links := [(0, x), (7, y)] }
    let nom := departureOf s.concI x.lam (flitDep sealed) + x.lam
    let late : State := { s with now := 4 }
    flitGood sealed = true ∧ nom = 3 ∧ s.concI = nom ∧ (inEntryAt x nom).kind = 1 ∧ flitTxq sealed = (inEntryAt x nom).fq ∧
      late.concI ≠ departureOf late.concI x.lam (flitDep sealed) + x.lam ∧
      departureOf late.concI x.lam (flitDep sealed) + x.lam = 3 ∧
      flitTxq (sealFlit (makeFlit 0 0 [] 5 0 0 0 0) 0) ≠ (inEntryAt x 3).fq ∧ 1 < (inEntryAt x 4).kind ∧
      flitKind (sealFlit (makeFlit 0 0 [] 0 3 0 0 0) 0) = 3 ∧ x.taken (flitSeq sealed) = false ∧
      ({ x with seqIn := 1 } : Link).taken (flitSeq sealed) = true ∧
      (let p : State := { s with now := 8, links := [(0, { x with passing := [(7, 8, sealed)] }), (7, y)] }
       p.passFrom 7 sealed = some 0 ∧ (outEntry (p.link 7) p.concI).kind = 1 ∧ (outEntry (p.link 7) p.concI).fl = 0 ∧
         (outEntry (p.link 7) p.concI).fq = flitTxq sealed ∧ p.departTaken 7 = false ∧ (p.link 7).st = 2 ∧ p.passFrom 6 sealed = none) ∧
      (let full : Queue := { flits := List.replicate 64 (0, sealed) }
       64 ≤ full.flits.length) := by decide +kernel

def packet0 (dst : Nat) : Packet :=
  { dst := dst, src := 1, engine := 0, seq := 0, cls := 0, response := false, record := 0, data := [] }

def request0 (resends : Nat) : RemoteReq :=
  { id := 1, home := 1, engine := 0, seq := 0, loan := 1, packet := packet0 1, resends := resends, sent := true }

theorem witness_SpanRows :
    let s : State := { State.reset with
      links := [(0, { st := 2 }), (23, { st := 2 })]
      remoteReqs := [request0 2]
      replies := [{ dev := 1, engine := 0, seq := 0, writes := true, response := packet0 1 }] }
    (s.link 23).st = 2 ∧ (s.link 23).open_ = false ∧ (s.link 23).upl = false ∧ (s.link 1).st ≠ 2 ∧
      (s.outstanding 0 1).find? (fun r => r.seq == 0 && r.sent) = some (request0 2) ∧ (request0 2).resends < 3 ∧
      3 ≤ (request0 3).resends ∧
      s.replies.find? (fun r => r.dev == 1 && r.engine == 0 && r.seq == 0) =
        some { dev := 1, engine := 0, seq := 0, writes := true, response := packet0 1 } := by decide

theorem witness_SpanRows_route :
    let s : State := { State.reset with routes := [(ownDevice + 1, some 23)] }
    (packet0 ownDevice).dst = ownDevice ∧ (packet0 (ownDevice + 1)).dst ≠ ownDevice ∧
      sget none s.routes (packet0 (ownDevice + 1)).dst = some 23 := by
  refine ⟨rfl, ?_, ?_⟩
  · simp [packet0]
  · simp [packet0, sget]

/-- Markers on an upstream link: slipped, not slipped after a slip, and in a start that joins; on another link. -/
theorem witness_SpanRows_markers :
    let st : Starting := { warm := true, step := 10, began := 0, number := 1, fn := none }
    let s : State := { State.reset with now := 9, links := [(1, { st := 2, upl := true, lam := 4, slipped := true }), (2, { st := 2 })] }
    let slip := fun (l : Nat) (c : BitVec 64) => s.concI - ((c.toNat : Int) + (s.link l).lam)
    (s.link 1).st = 2 ∧ (s.link 1).open_ = false ∧ (s.link 1).upl = true ∧ s.joining = none ∧ slip 1 4 ≠ 0 ∧ slip 1 5 = 0 ∧
      (s.link 1).slipped = true ∧ ({ s with starting := some st } : State).joining = some st ∧ (s.link 2).upl = false := by
  decide

/-- A peer's request: its op, its destination word and its piece. -/
def asking (op dst : Nat) (q : Piece) (data : List (BitVec 512)) : Packet :=
  { packet0 0 with record := recordOf [(0, op), (192, dst)], data := q.flit :: data }

/-- A read that holds no token and one of an op that needs none; past memory; a deposit with a wrong sum and one that is good. -/
theorem witness_SpanRows_home :
    let s : State := { State.reset with owners := [(0, some 1)] }
    let copy := asking 1 (2 ^ 62) {} []
    let far := asking 0x10 (2 ^ 62) { addr := 2 ^ 47 } []
    let torn := asking 6 (2 ^ 62) { kind := 1, sum := 1, mask := 1 } [0]
    let add := asking 0x10 (2 ^ 62) { addr := 8, kind := 2 } []
    s.replies.find? (fun r => r.dev == copy.src && r.engine == copy.engine && r.seq == copy.seq) = none ∧
      s.peerActive copy = false ∧ addrKind (recDst copy.record) ≠ 2 ∧ needsToken (recOp copy.record) = true ∧
      State.reset.mayTouch copy.src (regionOf (accessDpa copy)) = false ∧ s.mayTouch copy.src (regionOf (accessDpa copy)) = true ∧
      needsToken (recOp far.record) = false ∧ backed (accessDpa far) = false ∧ recOp torn.record = 6 ∧
      wordSum (torn.data.getD 1 0) ≠ (pieceIn torn).sum ∧ backed (accessDpa torn) = true ∧ backed (accessDpa add) = true ∧
      recOp add.record < 0x20 ∧ (pieceIn add).kind < 3 ∧
      (let m : Loan := { id := 4, owner := .peer copy, core := 0, part := 16, root := 0, raw := 0, u := 0, cls := 3 }
       let u : State := { s with loans := [m] }
       u.peerActive copy = true ∧ u.loan 4 = some m ∧ (∀ x ∈ u.loans, x.frees = none) ∧ recOp copy.record ≠ 0x22) := by
  decide

/-- A publish to a FILLING shelf of a mate's launch, and to none; an arrival at a configured barrier and at another; a free
token and one to give up. -/
theorem witness_SpanRows_signals :
    let s : State := { issuing { shelved with launch := 5 } with
      launches := [{ id := 5, raw := 0, part := 0, home := 0, stage := .live, ctxs := [0], devices := [1] }]
      bars := [(1, { expected := 1 })], owners := [(1, some 1)] }
    s.peerMate 1 (2 ^ 63 + 2 * 2 ^ 26) = some 0 ∧ ((s.ctxAt 0).shelf 2).stateAt true = .filling ∧ ((s.ctxAt 0).shelf 2).dbl = false ∧
      s.peerMate 2 (2 ^ 63) = none ∧ (s.barrier 1).expected ≠ 0 ∧ (s.barrier 0).expected = 0 ∧ s.holder 0 = none ∧
      s.holder 1 = some 1 ∧ s.regionBusy 1 1 = false ∧ s.nextWanting 1 = none ∧ s.holder 1 ≠ some 2 := by decide

/-! ### Witnesses: loans -/

/-- A loan of context 0 that has read. -/
def loan0 (raw : BitVec 512) : Loan :=
  { id := 1, owner := .context 0, core := 0, part := 0, root := 0, raw := raw, u := 0, cls := 3, stage := .read, idx := [0] }

/-- The loan is worked on; shelf 2 is one granule long and FILLING. -/
def lending (l : Loan) : State := { issuing shelved with loans := [l], loanNow := 1 }

/-- A copy of two 4-byte elements to the end of shelf 2's half. -/
def copyRec : BitVec 512 := recordOf [(0, 1), (23, 2), (192, 2 * 2 ^ 26 + 56), (256, 2)]

/-- A scatter-accumulate of one 4-byte element into shelf 2. -/
def addRec : BitVec 512 := recordOf [(0, 4), (23, 2), (192, 2 * 2 ^ 26), (256, 1)]

theorem witness_LoanMoves :
    let l := loan0 copyRec
    (lending l).loan (lending l).loanNow = some l ∧ l.owner = .context 0 ∧ l.stage = .read ∧ l.fromLog = none ∧
      (lending l).mayWrite l = true ∧ addrKind (recDst l.raw) = 0 ∧ l.writes = [56, 60] ∧
      (lending l).shut l 0 (wordShelf (recDst l.raw)) = false ∧
      (lending l).writeStatus l 0 (wordShelf (recDst l.raw)) l.writes (recSize l.raw) = 0 := by decide

/-- Context 0 published shelf 2 in the cycle after the sample, and in this cycle, which shuts nothing yet; a scatter-accumulate that
its log has with status 0; a release loan behind one that is under way. -/
theorem witness_LoanMoves_shut :
    let l := loan0 copyRec
    let s : State := { issuing { shelved with published := [(2, (1, 0))] } with loans := [l], loanNow := 1, now := 2 }
    let r : Loan := { loan0 (recordOf [(0, 1), (13, 2), (23, 2), (192, 2 * 2 ^ 26), (256, 1)]) with id := 2 }
    let w : State := { issuing shelved with loans := [l, r], loanNow := 2 }
    let m : Loan := { loan0 addRec with
      fromLog := some { ordinal := 0, op := 4, tk := 0, src := 0, dst := 0, opnd := 0, status := 0, old := 0, round := 0 } }
    s.loan s.loanNow = some l ∧ l.fromLog = none ∧ s.mayWrite l = true ∧ s.shut l 0 (wordShelf (recDst l.raw)) = true ∧
      ({ s with now := 1 } : State).shut l 0 (wordShelf (recDst l.raw)) = false ∧ w.loan w.loanNow = some r ∧ r.stage = .read ∧
      w.mayWrite r = false ∧ (lending m).mayWrite m = true ∧ l.writes ≠ [] ∧ (lending m).loan (lending m).loanNow = some m ∧ m.stage = .read ∧
      m.fromLog = some { ordinal := 0, op := 4, tk := 0, src := 0, dst := 0, opnd := 0, status := 0, old := 0, round := 0 } ∧
      recOp m.raw = 4 := by
  decide

theorem witness_LoanMoves_accumulate :
    let l := loan0 addRec
    (lending l).loan (lending l).loanNow = some l ∧ l.stage = .read ∧ l.fromLog = none ∧ (lending l).mayWrite l = true ∧
      addrKind (recDst l.raw) = 0 ∧ (lending l).writeStatus l 0 (wordShelf (recDst l.raw)) l.writes (recSize l.raw) = 0 ∧
      (lending l).backPoison 0 (wordShelf (recDst l.raw)) l.writes (recSize l.raw) = 0 ∧
      l.elems = [(some 0, ((0 : Nat) : Int))] ∧ recAtype l.raw ≠ 2 ∧ recAtype (recordOf [(0, 4), (21, 2), (23, 2)]) = 2 := by
  decide

/-- A fill of two granules of this device's memory. -/
theorem witness_LoanMoves_memory :
    let l := loan0 (recordOf [(0, 5), (23, 3), (192, 2 ^ 62 + 56), (256, 2)])
    let s := lending l
    let gs := granulesAt (l.spots.map (fun e => e.1))
    s.loan s.loanNow = some l ∧ l.owner = .context 0 ∧ l.stage = .read ∧ l.fromLog = none ∧ s.mayWrite l = true ∧
      addrKind (recDst l.raw) = 1 ∧ (s.loans.map (fun m => m.id)).Nodup ∧ gs = [0, 1] ∧
      s.engineOut l.core + gs.length + l.addGranules.length < Config.loanRequests ∧ ∀ g, (l.place g).dev = none := by
  refine ⟨rfl, rfl, rfl, rfl, by decide, by decide, by decide, by decide, by decide, fun g => ?_⟩
  simp [Loan.place, loan0]

/-- A deposit of one 8-byte element into page 1, whose home is another device. -/
def depositLoan : Loan :=
  { loan0 (recordOf [(0, 6), (23, 3), (192, 2 ^ 62 + 65536), (256, 1)]) with
    trans := [{ page := 1, pa := 0, w := true, dev := some (ownDevice + 1) }] }

theorem witness_LoanMoves_deposit :
    (lending depositLoan).loan (lending depositLoan).loanNow = some depositLoan ∧ depositLoan.stage = .read ∧ depositLoan.fromLog = none ∧
      (lending depositLoan).mayWrite depositLoan = true ∧ addrKind (recDst depositLoan.raw) = 1 ∧ depositLoan.elems ≠ [] ∧
      ((lending depositLoan).loans.map (fun m => m.id)).Nodup ∧
      ∀ g ∈ granulesAt (depositLoan.spots.map (fun e => e.1)), ∃ h, depositLoan.granuleHome g = some h ∧ h ≠ ownDevice := by
  refine ⟨rfl, rfl, rfl, by simp only [State.mayWrite, Bool.or_eq_true]; exact .inr rfl, by decide, by decide, by decide, ?_⟩
  have hk : ∀ x ∈ depositLoan.elems, ∀ i, i < (depositLoan.elemBytes x).length → (x.2.toNat + i) / 2 ^ 16 = 1 := by decide
  intro g hg
  obtain ⟨a, ha, rfl⟩ := List.mem_map.1 (List.mem_eraseDups.1 hg)
  obtain ⟨e, he, rfl⟩ := List.mem_map.1 ha
  obtain ⟨x, hx, i, hi, hs⟩ := mem_cellsBy _ _ _ he
  have hp : depositLoan.place (x.2.toNat + i) = { page := 1, pa := 0, w := true, dev := some (ownDevice + 1) } := by
    simp only [Loan.place, hk x hx i hi]
    rfl
  have hq : e.1 / 64 / 2 ^ 42 = ownDevice + 2 := by
    rw [hs]
    simp only [Loan.spot, Loan.dpa, hp]
    rw [if_neg (by omega)]
    omega
  refine ⟨ownDevice + 1, ?_, by omega⟩
  simp only [Loan.granuleHome, hq]
/-- The largest and the smallest atomic size, signed and unsigned. -/
theorem witness_LoanAtomics :
    let l := loan0 (recordOf [(0, 0x10), (23, 3), (192, 2 * 2 ^ 26 + 56)])
    let m := loan0 (recordOf [(0, 0x17), (21, 1), (23, 2), (192, 2 * 2 ^ 26 + 60)])
    (lending l).loan (lending l).loanNow = some l ∧ l.stage = .read ∧ (lending l).mayWrite l = true ∧
      l.fromLog = none ∧ m.fromLog = none ∧ addrKind (recDst l.raw) = 0 ∧ recAtype l.raw = 0 ∧
      (lending l).writeStatus l 0 (wordShelf (recDst l.raw)) [wordBase (recDst l.raw)] (recSize l.raw) = 0 ∧
      (lending m).loan (lending m).loanNow = some m ∧ (lending m).mayWrite m = true ∧ addrKind (recDst m.raw) = 0 ∧
      recAtype m.raw = 1 ∧
      (lending m).writeStatus m 0 (wordShelf (recDst m.raw)) [wordBase (recDst m.raw)] (recSize m.raw) = 0 ∧
      ({ issuing { shelved with published := [(2, (1, 0))] } with loans := [l], now := 2 } : State).shut l 0 (wordShelf (recDst l.raw)) = true ∧
      (lending l).backPoison 0 (wordShelf (recDst l.raw)) [wordBase (recDst l.raw)] (recSize l.raw) = 0 ∧
      leNat ((lending m).poolRead 0 0 4) = recCmp m.raw % 2 ^ 32 ∧ recAtype (recordOf [(0, 0x11), (21, 2), (23, 2)]) = 2 ∧
      (val32 0x7FC00000 = Machine.Num.nan ∧ val32 0 ≠ Machine.Num.nan) := by decide

theorem ownDevice_lt : ownDevice < 2048 := Nat.mod_lt _ (by decide)

/-- A publish of shelf 2 of context 0 of this device, and an arrival at barrier 1 of its die 0. -/
def publishLoan : Loan := loan0 (BitVec.ofNat 512 (0x20 + (2 ^ 63 + ownDevice * 2 ^ 44 + 2 * 2 ^ 26) * 2 ^ 192))

def arriveLoan : Loan := loan0 (BitVec.ofNat 512 (0x21 + (3 * 2 ^ 62 + ownDevice * 2 ^ 44 + 1) * 2 ^ 192))

theorem lending_loan (raw : BitVec 512) :
    (lending (loan0 raw)).loan (lending (loan0 raw)).loanNow = some (loan0 raw) ∧
      (lending (loan0 raw)).mayWrite (loan0 raw) = true := ⟨rfl, by simp only [State.mayWrite, Bool.or_eq_true]; exact .inr rfl⟩

theorem high_field (P M W a n : Nat) (ha : a < P) (hn : n < W) (hm : W * P ≤ M) : (a + n * P) % M / P % W = n := by
  have hl : a + n * P < M :=
    calc a + n * P < P + n * P := Nat.add_lt_add_right ha _
      _ = (n + 1) * P := by rw [Nat.add_mul, Nat.one_mul, Nat.add_comm]
      _ ≤ W * P := Nat.mul_le_mul_right _ hn
      _ ≤ M := hm
  rw [Nat.mod_eq_of_lt hl, Nat.add_mul_div_right _ _ (by omega), Nat.div_eq_of_lt ha, Nat.zero_add, Nat.mod_eq_of_lt hn]

theorem recDst_ofNat (a n : Nat) (ha : a < 2 ^ 192) (hn : n < 2 ^ 64) : recDst (BitVec.ofNat 512 (a + n * 2 ^ 192)) = n := by
  unfold recDst recBits
  rw [BitVec.toNat_ofNat]
  exact high_field _ _ _ _ _ ha hn (by decide)
theorem publish_dst (o : Nat) (ho : o < 2048) :
    recDst (BitVec.ofNat 512 (0x20 + (2 ^ 63 + o * 2 ^ 44 + 2 * 2 ^ 26) * 2 ^ 192)) = 2 ^ 63 + o * 2 ^ 44 + 2 * 2 ^ 26 := by
  have h : 2 ^ 63 + o * 2 ^ 44 + 2 * 2 ^ 26 < 2 ^ 64 := by omega
  exact recDst_ofNat _ _ (by decide) h

theorem arrive_dst (o : Nat) (ho : o < 2048) :
    recDst (BitVec.ofNat 512 (0x21 + (3 * 2 ^ 62 + o * 2 ^ 44 + 1) * 2 ^ 192)) = 3 * 2 ^ 62 + o * 2 ^ 44 + 1 := by
  have h : 3 * 2 ^ 62 + o * 2 ^ 44 + 1 < 2 ^ 64 := by omega
  exact recDst_ofNat _ _ (by decide) h

theorem publish_words (o : Nat) (ho : o < 2048) (w : Nat) (hw : w = 2 ^ 63 + o * 2 ^ 44 + 2 * 2 ^ 26) :
    wordDev w = o ∧ wordCtx w = some 0 ∧ wordShelf w = 2 := by
  have a : w / 2 ^ 34 % 8 = 0 := by omega
  have b : w / 2 ^ 37 % 8 = 0 := by omega
  have c : wordDie w = 0 := by simp only [wordDie]; omega
  have d : w / 2 ^ 32 % 4 = 0 := by omega
  refine ⟨by simp only [wordDev]; omega, ?_, by simp only [wordShelf]; omega⟩
  simp only [wordCtx, a, b, c, d]
  rfl

theorem arrive_words (o : Nat) (ho : o < 2048) (w : Nat) (hw : w = 3 * 2 ^ 62 + o * 2 ^ 44 + 1) :
    wordDev w = o ∧ wordDie w = 0 ∧ wordBarrier w = 1 := by
  simp only [wordDev, wordDie, wordBarrier]
  omega

theorem witness_LoanSignals_publish :
    let w := recDst publishLoan.raw
    let s := lending publishLoan
    s.loan s.loanNow = some publishLoan ∧ publishLoan.owner = .context 0 ∧ publishLoan.stage = .read ∧ publishLoan.fromLog = none ∧
      s.mayWrite publishLoan = true ∧ wordDev w = ownDevice ∧
      s.launchMate (s.ctxAt 0).launch w = some 0 ∧ ((s.ctxAt 0).shelf (wordShelf w)).len ≠ 0 ∧
      ((s.ctxAt 0).shelf (wordShelf w)).dbl = false ∧ ((s.ctxAt 0).shelf (wordShelf w)).fs = .filling := by
  have ho := ownDevice_lt
  have hw : recDst publishLoan.raw = 2 ^ 63 + ownDevice * 2 ^ 44 + 2 * 2 ^ 26 := publish_dst _ ho
  obtain ⟨h1, h2, h3⟩ := publish_words ownDevice ho _ hw
  refine ⟨(lending_loan _).1, rfl, rfl, rfl, (lending_loan _).2, h1, ?_, ?_⟩
  · simp only [State.launchMate]
    rw [show wordCtx (recDst publishLoan.raw) = some 0 from h2]
    decide
  · rw [show wordShelf (recDst publishLoan.raw) = 2 from h3]
    decide

theorem engine_full (s : State) (l : Loan) (o : List (Nat × Nat)) (h : s.loans = [l, { l with id := 2, out := o }])
    (ho : 8192 ≤ o.length) (hc : l.core < 288) : s.engineFull l.core = true := by
  simp only [State.engineFull, State.engineOut, h, Config.loanRequests, List.filter, beq_self_eq_true, List.map_cons,
    List.map_nil, List.sum_cons, List.sum_nil, hc, decide_true, Bool.true_and, decide_eq_true_eq]
  omega

/-- A publish to the device beside this one, from an engine with room and from one without. -/
theorem witness_LoanSignals_remote :
    let l := loan0 (BitVec.ofNat 512 (0x20 + (2 ^ 63 + (ownDevice + 1) % 2048 * 2 ^ 44 + 2 * 2 ^ 26) * 2 ^ 192))
    let full : State := { lending l with loans := [l, { l with id := 2, out := List.replicate 8192 (7, 0) }] }
    (lending l).loan (lending l).loanNow = some l ∧ l.stage = .read ∧ l.fromLog = none ∧ (lending l).mayWrite l = true ∧
      (lending l).engineFull l.core = false ∧ full.loan full.loanNow = some l ∧ full.engineFull l.core = true ∧
      wordDev (recDst l.raw) ≠ ownDevice := by
  have ho := ownDevice_lt
  have hm : (ownDevice + 1) % 2048 < 2048 := Nat.mod_lt _ (by decide)
  refine ⟨(lending_loan _).1, rfl, rfl, (lending_loan _).2, rfl, rfl, ?_, ?_⟩
  · exact engine_full _ _ _ rfl (Nat.le_of_eq List.length_replicate.symm) (by decide)
  have h := (publish_words _ hm _ (publish_dst _ hm)).1
  simp only [loan0, h]
  omega

theorem witness_LoanSignals_arrive :
    let w := recDst arriveLoan.raw
    let s : State := { lending arriveLoan with bars := [(1, { expected := 1 })] }
    s.loan s.loanNow = some arriveLoan ∧ arriveLoan.stage = .read ∧ arriveLoan.fromLog = none ∧ s.mayWrite arriveLoan = true ∧
      wordDev w = ownDevice ∧ (s.barrier (wordDie w * 256 + wordBarrier w)).expected ≠ 0 := by
  have ho := ownDevice_lt
  have hw : recDst arriveLoan.raw = 3 * 2 ^ 62 + ownDevice * 2 ^ 44 + 1 := arrive_dst _ ho
  obtain ⟨h1, h2, h3⟩ := arrive_words ownDevice ho _ hw
  refine ⟨(lending_loan _).1, rfl, rfl, (lending_loan _).2, h1, ?_⟩
  rw [show wordDie (recDst arriveLoan.raw) = 0 from h2, show wordBarrier (recDst arriveLoan.raw) = 1 from h3]
  decide

/-- A free token of this home, and one that this device holds. -/
theorem witness_LoanSignals_token :
    let l := loan0 (recordOf [(0, 0x22), (192, 2 ^ 62)])
    let t : State := { lending l with owners := [(0, some ownDevice)] }
    ((l.place (wordVa (recDst l.raw))).dev).getD ownDevice = ownDevice ∧
      (lending l).holder (regionOf (l.dpa (wordVa (recDst l.raw)))) = none ∧
      t.holder (regionOf (l.dpa (wordVa (recDst l.raw)))) = some ownDevice ∧
      t.nextWanting (regionOf (l.dpa (wordVa (recDst l.raw)))) = none := by
  intro l t
  have hv : wordVa (recDst l.raw) = 0 := by decide
  have hp : l.dpa (wordVa (recDst l.raw)) = 0 := by decide
  rw [hp, hv]
  exact ⟨rfl, rfl, rfl, rfl⟩

/-- A token that another device holds, and one that this device gives up while an access of it is under way. -/
theorem witness_LoanSignals_waits :
    let l := loan0 (recordOf [(0, 0x22), (192, 2 ^ 62)])
    let m : Loan := { loan0 (recordOf [(0, 1)]) with id := 2, out := [(7, 0)] }
    let q : Request := { id := 7, owner := .loan 2, cls := 3, dpa := 0, kind := .read, ready := 0, order := 0 }
    let s : State := { lending l with owners := [(0, some (ownDevice + 1))] }
    let t : State := { lending l with owners := [(0, some ownDevice)], loans := [l, m], pcs := [(0, { queue := [q] })] }
    s.holder 0 = some (ownDevice + 1) ∧ ownDevice + 1 ≠ ownDevice ∧ t.holder 0 = some ownDevice ∧
      t.regionBusy ownDevice 0 = true ∧ ({ t with loans := [{ l with frees := some 0 }] } : State).releasing ownDevice 0 = true := by
  intro l m q s t
  refine ⟨rfl, by omega, rfl, ?_, ?_⟩
  · simp only [State.regionBusy, t, q, m, l, Loan.device]
    simp [regionOf, loan0]
  · simp only [State.releasing, l, Loan.device]
    simp [loan0]

theorem witness_LoanSignals_ends :
    let l := loan0 (recordOf [(0, 1)])
    let s : State := { issuing { sup0 with toks := [(0, { st := .busy, loan := 1 }), (1, { st := .busy, loan := 9 })] } with
      loans := [l], invals := [{ id := 9, ctx := some (0, 1), fn := none, waits := [] }] }
    s.loan 1 = some l ∧ recPub l.raw = false ∧ (s.coreAt (coreOf 0)).det = false ∧
      ((s.ctxAt 0).token (recTk l.raw)).loan = l.id ∧ ((s.ctxAt 0).token (recTk l.raw)).st = .busy ∧
      s.invals.find? (fun x => x.id == 9) = some { id := 9, ctx := some (0, 1), fn := none, waits := [] } ∧
      ((s.ctxAt 0).token 1).loan = 9 ∧ ((s.ctxAt 0).token 1).st = .busy := by decide

/-- A loan that a deterministic core delivers after the record that followed its issue. -/
theorem witness_LoanSignals_kept :
    let l : Loan := { loan0 (recordOf [(0, 1)]) with afterRec := false }
    let s : State := { issuing { sup0 with toks := [(0, { st := .busy, loan := 1 })] } with
      loans := [l], cores := [(0, { det := true })] }
    s.loan 1 = some l ∧ l.owner = .context 0 ∧ l.afterRec = false ∧ (s.coreAt (coreOf 0)).det = true ∧
      ((s.ctxAt 0).token (recTk l.raw)).loan = l.id ∧ ((s.ctxAt 0).token (recTk l.raw)).st = .busy := by decide

/-- A deterministic core whose round has come to an unfinished loan's delivery: the cycle is frozen, and what ends in turns ends a
cycle later (spec/16_scheduling.md R329, R330). -/
theorem test_issueSelection_freeze :
    let s : State := { issuing { sup0 with resumeAt := 0 } with
      cur := {}, now := 5, loans := [loan0 (recordOf [(0, 1)])], late := [⟨0, 7, [(0, 3)]⟩, ⟨4, 7, []⟩]
      cores := [(0, { det := true, round := 256, vFree := 8, inFree := 5 })] }
    let t := s.freeze 0
    s.deliverTurn 0 0 = none ∧ s.takeTurn 0 = t ∧ (t.coreAt 0).round = 256 ∧ (t.coreAt 0).turn = 0 ∧ (t.coreAt 0).lag = 1 ∧
      (t.coreAt 0).vFree = 9 ∧ (t.coreAt 0).inFree = 5 ∧ t.late = [⟨0, 8, [(0, 3)]⟩, ⟨4, 7, []⟩] ∧
      t.inFlight 0 (0, 3) = true ∧ t.pendingUntil 0 = 9 := by decide

/-- A token BUSY at the record and delivered since is saved as the record took it, and its loan is delivered again after a
restoration (spec/16_scheduling.md R331). -/
theorem test_contextSave_token :
    let m : Loan := { loan0 (recordOf [(0, 1), (15, 3)]) with afterRec := false, delivered := true, stage := .finished }
    let c : Context := { sup0 with record := { toks := [(3, { st := .done, loan := 1, round := 300 })] } }
    let s : State := { issuing c with loans := [m], cores := [(0, { det := true, round := 300 })] }
    recTk m.raw = 3 ∧ c.record.withBusy [m] = { toks := [(3, { st := .busy, loan := 1, round := 300 })] } ∧
      (s.savedEntry 0).loans = [{ m with delivered := false }] := by decide

/-! ### Witnesses: launches -/

/-- The header of an image with one word of code, at 0x80, and one context with no granules, whose word stands at 0xC0. -/
def header0 : List Byte :=
  sread 0 [(0, 0x47), (1, 0x4C), (2, 0x42), (3, 0x39), (4, 1), (8, 0x80), (12, 4), (22, 0x10), (28, 0xC0)] 0 128

/-- A launch of that image on core 0 that has read it; one whose image could not be read; one with weight 0; one without a
header. -/
def goodLaunch : Launch :=
  { id := 1, raw := recordOf [(0, 0x1000), (112, 1)], part := 0, home := 0
    reads := [some header0, some [], some [0, 0, 0, 0x80], some [], some (leBytes 8 0), some [], some [], some [], some []] }

def lostLaunch : Launch := { goodLaunch with reads := [none] }

def badRecord : Launch := { goodLaunch with raw := recordOf [(0, 0x1000)] }

def badHeader : Launch := { goodLaunch with reads := [some [], some []] }

def launching (l : Launch) : State :=
  { State.reset with parts := [(0, { valid := true, cores := [0] })], launches := [l] }

def isStart (v : Verdict) : Bool :=
  match v with
  | .start _ => true
  | _ => false

theorem witness_LaunchRows_starts :
    (launching goodLaunch).launchOf goodLaunch.id = some goodLaunch ∧ goodLaunch.stage = .checking ∧
      isStart ((launching goodLaunch).judge goodLaunch) = true := by decide

theorem witness_LaunchRows_refused :
    (launching lostLaunch).launchOf lostLaunch.id = some lostLaunch ∧ (∃ x ∈ lostLaunch.reads, x = none) ∧
      (launching lostLaunch).judge lostLaunch = .refuse 1 ∧ (∀ x ∈ badRecord.reads, x ≠ none) ∧ lrWt badRecord.raw = 0 ∧
      (launching badRecord).judge badRecord = .refuse 2 ∧ (∀ x ∈ badHeader.reads, x ≠ none) ∧
      (launching badHeader).recordBad badHeader.raw badHeader.parent = false ∧ headerGood (badHeader.got 0) = false ∧
      (launching badHeader).judge badHeader = .refuse 3 := by decide

/-- A released entry of a die's pool. -/
def pooled : PoolEntry :=
  { id := 3, raw := goodLaunch.raw, ctx := 0, launch := 9, part := 0, released := true, order := 0 }

/-- The slot that the launch needs is taken: a launch of the host is refused, a child waits. -/
theorem witness_LaunchRows_waits :
    let s : State := { launching goodLaunch with ctxs := [(0, user0)] }
    let c : Launch := { goodLaunch with entry := some pooled }
    s.judge goodLaunch = .wait 4 ∧ goodLaunch.entry = none ∧ s.judge c = .wait 4 ∧
      ({ s with launches := [c] } : State).launchOf c.id = some c ∧ c.entry = some pooled ∧
      s.olderFirst c.home pooled = false ∧
      ({ s with lpool := [(0, [{ pooled with id := 2 }, pooled])] } : State).olderFirst c.home pooled = true := by decide

theorem witness_LaunchRows_live :
    let l : Launch := { goodLaunch with stage := .starting, barriers := [5], img := { parts := [(0, 0), (3, 0)] } }
    let s := launching l
    s.launchOf l.id = some l ∧ (placedCores (s.partition l.part) l.img).Nodup ∧ (l.img.parts.map (fun w => w.1)).Nodup ∧
      (∀ w ∈ l.img.parts, w.1 < 4) ∧ placedCores (s.partition l.part) l.img = [0] ∧ lrDone l.raw = 0 ∧ 5 ∈ l.barriers := by
  decide

/-- An entry that no check has taken; one die whose engine is at work, and one without entries. -/
theorem witness_LaunchRows_child :
    let s : State := { launching goodLaunch with launches := [], lpool := [(7, [pooled])] }
    s.placing 7 = false ∧ (s.poolOf 7).find? (fun e => e.released && !e.tried) = some pooled ∧
      (s.poolOf 6).find? (fun e => e.released && !e.tried) = none ∧
      ({ s with launches := [{ goodLaunch with entry := some pooled, home := 7 }] } : State).placing 7 = true := by
  decide

/-- A table write that names what does not exist; cores that another partition holds and cores that none holds; a partition
with and without a live context; a timetable entry that is a live partition's and one that is not. -/
theorem witness_LaunchRows_table :
    let s : State := { launching goodLaunch with
      ctxs := [(0, user0)], links := [(23, { inT := [(255, { al := true, part := 0 })] })] }
    (PartWrite.cores 16 [0]).ok = false ∧ (PartWrite.cores 15 [287]).ok = true ∧
      (∃ e ∈ s.parts, e.1 ≠ 1 ∧ ∃ c ∈ e.2.cores, c ∈ [0, 1]) ∧ (¬ ∃ e ∈ s.parts, e.1 ≠ 1 ∧ ∃ c ∈ e.2.cores, c ∈ [287]) ∧
      s.partLive 0 ≠ [] ∧ s.partLive 1 = [] ∧ ((s.link 23).entryAt 1 255).al = true ∧
      s.partLive ((s.link 23).entryAt 1 255).part ≠ [] ∧ ((s.link 23).entryAt 0 255).al = false := by decide

/-! ### Witnesses: host port and steward -/

/-- The last eight bytes of a granule of the PF's BAR2, and a full granule; a VF with a partition and one without; an access
past the BAR. -/
theorem witness_HostRows :
    let s : State := { State.reset with
      devState := .run, parts := [(3, { valid := true })], binds := [(1, some 3), (2, some 4)], barSizes := [(1, some 0)] }
    s.devState ≠ .quarantine ∧ (∀ a ∈ s.hostAcc, a.fn ≠ 0) ∧ 56 % 64 + 8 ≤ 64 ∧ 0 % 64 + 64 ≤ 64 ∧
      backed (56 + 8 - 1) = true ∧ 56 + 8 ≤ s.barBytes 0 ∧ 56 % 8 = 0 ∧ backed (2 ^ 38 + 2 ^ 37 + 8 - 1) = false ∧
      s.boundPart 1 = some 3 ∧ 2 ^ 30 - 8 + 8 ≤ s.barBytes 1 ∧ s.barBytes 1 < 2 ^ 30 - 7 + 8 ∧ s.boundPart 2 = none ∧
      s.hostMay 0 true = true ∧ s.hostMay 1 true = true ∧ s.hostMay 2 true = false := by decide

/-- A queue at rest and one that is off; a record that is a fill, and one whose op no queue takes. -/
theorem witness_HostRows_queue :
    let d : HostQueue := { en := true, pf := true, ridx := 64, rdy := 8, sts := 16 }
    let s : State := { State.reset with queues := [(255, d)] }
    (s.hostQueue 255).en = true ∧ d.pollAt ≤ s.now ∧ d.busy = false ∧ d.runs = 0 ∧ ({ d with busy := true, runs := 1 } : HostQueue).runs ≠ 0 ∧
      (s.hostQueue 0).en = false ∧
      leNat [(1 : Byte)] = (0 + 1) % 2 ^ 64 ∧ leNat [(0 : Byte)] ≠ (0 + 1) % 2 ^ 64 ∧
      queueRecordGood (BitVec.ofNat 512 (leNat (leBytes 64 (recordOf [(0, 5), (192, 2 ^ 62), (256, 1)]).toNat))) = true ∧
      queueRecordGood (BitVec.ofNat 512 (leNat (leBytes 64 0xFF))) = false ∧
      (let e : HostQueue := { d with slot := some 7, last := some 0 }
       e.slot = some 7 ∧ e.last = some 0) := by decide

/-- Register writes: a register that does not exist; links down, under training and up; a busy and a free mailbox; a command
that quarantine serves and one that it does not. -/
theorem witness_HostRows_registers :
    let s : State := { State.reset with
      devState := .quarantine, links := [(1, { st := 1 }), (2, { st := 2 })], boxes := [(0, { st := 1 })]
      unrouted := [{ dst := 5, src := 1, engine := 0, seq := 0, cls := 0, response := false, record := 0, data := [] }] }
    (DevReg.link 24).ok = false ∧ 0 % 4 ≠ 1 ∧ 0 % 4 ≠ 3 ∧ (s.link 1).st ≠ 2 ∧ 1 % 4 = 1 ∧ (s.link 0).st = 0 ∧ (s.link 2).st = 2 ∧
      (s.box 0).st = 1 ∧ (s.box 1).st ≠ 1 ∧ quarantineServes 0 (0x0E % 256) = true ∧ quarantineServes 0 (0x03 % 256) = false ∧
      s.hostMay 0 true = true ∧ (∃ p ∈ s.unrouted, p.dst = 5) ∧ s.hostMay 1 true = false ∧ (0 : Reg).getLsbD 2 = false ∧
      (4 : Reg).getLsbD 2 = true ∧ bar0Reg 1 0x02001010 = none ∧ 0x02001010 % 8 = 0 ∧ s.hostMay 1 false = false ∧
      State.reset.hostMay 0 false = true ∧
      (s.hostQueue 9).pf = false ∧ s.boundPart 1 ≠ some (s.hostQueue 9).part := by decide

/-- A PF command with its arguments in order; context 0 is live. -/
def argStore (args : List Nat) : Store Reg :=
  (List.zip (List.range args.length) args).foldl (fun (m : Store Reg) (e : Nat × Nat) => sset 0 m e.1 (BitVec.ofNat 64 e.2)) []

def commanded (args : List Nat) : State :=
  { issuing user0 with devState := .run, boxes := [(0, { st := 1, args := argStore args })] }

theorem witness_MailboxSettings :
    (let s := commanded [1, 2 ^ 40 - 1, 255]
     s.arg 0 = 1 ∧ 0 < s.arg 1 ∧ s.arg 1 < 2 ^ 40 ∧ 0 < s.arg 2 ∧ s.arg 2 ≤ 255) ∧
      (let s := commanded [0, 1, 1]
       s.arg 0 = 0 ∧ 0 < s.arg 1 ∧ s.arg 1 < 2 ^ 40 ∧ 0 < s.arg 2 ∧ s.arg 2 ≤ 255) ∧
      (let s := commanded [15, 16]
       0 < s.arg 0 ∧ s.arg 0 ≤ 15 ∧ ¬ s.arg 1 < 16) ∧
      (let s := commanded [1, 0, 1]
       s.arg 1 = 0 ∧ (s.ctxAt (s.arg 0)).present = false) ∧
      (let s := commanded [2, 1, 1]
       1 < s.arg 0 ∧ s.cmd = 0 ∧ s.devState ≠ .start) ∧
      (let s := commanded [0, 2 ^ 40, 0]
       s.arg 0 = 0 ∧ 2 ^ 40 ≤ s.arg 1 ∧ s.arg 2 = 0 ∧ 255 < (commanded [0, 1, 256]).arg 2) ∧
      (let s := commanded [16]
       15 < s.arg 0 ∧ ({ s with devState := .trip } : State).devState = .trip) ∧
      (let s := commanded [1]
       s.arg 0 % 64 ≠ 0 ∧ s.arg 1 = 0) ∧
      (let s := commanded [2 ^ 39]
       s.arg 0 % 64 = 0 ∧ backed (s.arg 0 + 17535) = false ∧ backed ((commanded [2 ^ 39, 1]).arg 0 + 1 - 1) = false) ∧
      (let s : State := { commanded [0] with cmd := 1 }
       (s.ctxAt (s.arg 0)).present = true ∧ s.mine (s.ctxAt (s.arg 0)).part = false) ∧
      (let s := commanded [0, 5]
       4 < s.arg 1 ∧ (s.ctxAt (s.arg 0)).present = true) ∧
      (let s := commanded [1, 1]
       ∃ i, i < s.arg 0 % 64 ∧ ¬ (s.ctxAt (s.arg (1 + i))).present = true) ∧
      (let s : State := { commanded [1, 0] with cmd := 1, boxes := [(1, { args := argStore [1, 0] })] }
       (∀ i, i < s.arg 0 % 64 → (s.ctxAt (s.arg (1 + i))).present = true) ∧
         ∃ i, i < s.arg 0 % 64 ∧ ¬ s.mine (s.ctxAt (s.arg (1 + i))).part = true) ∧
      (let s := commanded [0, 4]
       (s.ctxAt (s.arg 0)).present = true ∧ s.mine (s.ctxAt (s.arg 0)).part = true ∧ s.arg 1 ≤ 4 ∧ s.arg 0 % 64 = 0 ∧
         backed (s.arg 0 + 17535) = true ∧ 0 < s.arg 1 ∧ backed (s.arg 0 + s.arg 1 - 1) = true) ∧
      (let s := commanded [1, 0]
       ∀ i, i < s.arg 0 % 64 → (s.ctxAt (s.arg (1 + i))).present = true ∧ s.mine (s.ctxAt (s.arg (1 + i))).part = true) := by
  refine ⟨?_, ?_, ?_, ?_, ?_, ?_, ?_, ?_, ?_, ?_, ?_, ⟨0, by decide⟩, ⟨by decide, 0, by decide⟩, ?_, ?_⟩ <;> decide

/-- A saved context of index 0 with no granules, and its free slot on core 0. -/
def restoring : State :=
  { launching goodLaunch with
    devState := .run
    saved := [{ id := 0, key := 0, ctx := {}, repair := false }] }

/-- The slot fits; the slot of another index does not. -/
theorem witness_MailboxActions_restore :
    ∃ v, restoring.saved.find? (fun v => v.id == restoring.arg 0 && !restoring.restoring v) = some v ∧
      restoring.mine v.ctx.part = true ∧ restoring.slotFits v (restoring.arg 1) = true ∧
      restoring.roomFor v.ctx (coreOf (restoring.arg 1)) = true ∧ restoring.slotFits v 1 = false ∧
      restoring.saved.find? (fun x => x.id == v.id) = some v :=
  ⟨_, rfl, by decide, by decide, by decide, by decide, rfl⟩

/-- The first command of the queue, in each state of the device: a code that all states serve, one that the PF alone may give,
one past Table 20-6, and one of quarantine. -/
theorem witness_MailboxActions_judged :
    let s := fun (d : DevState) (fn op : Nat) =>
      ({ State.reset with devState := d, cmdQueue := [fn], boxes := [(fn, { st := 1, op := BitVec.ofNat 8 op })] } : State)
    State.reset.cmdQueue = [] ∧ (s .start 0 3).cmdQueue = [0] ∧ ((s .start 0 3).box 0).op.toNat = 3 ∧
      ((s .start 0 0).box 0).op.toNat = 0 ∧ ((s .quarantine 0 0x0F).box 0).op.toNat = 0x0F ∧
      ((s .quarantine 1 0).box 1).op.toNat = 0 ∧ ((s .run 0 0x10).box 0).op.toNat = 0x10 ∧ ((s .trip 1 2).box 1).op.toNat = 2 ∧
      ((s .run 1 0x0B).box 1).op.toNat = 0x0B := by decide

/-- A restore of what is not saved, and of a partition that is not the function's. -/
theorem witness_MailboxActions_restoreFails :
    ({ restoring with saved := [] } : State).saved.find? (fun v => v.id == restoring.arg 0 && !restoring.restoring v) = none ∧
      (let s : State := { restoring with cmd := 1 }
       ∃ v, s.saved.find? (fun v => v.id == s.arg 0 && !s.restoring v) = some v ∧ s.mine v.ctx.part = false) :=
  ⟨rfl, _, rfl, by decide⟩

theorem witness_MailboxActions :
    restoring.devState = .run ∧ restoring.cmd = 0 ∧ restoring.mine (lrPart restoring.argRecord) = true ∧
      restoring.mine (restoring.arg 0) = true ∧
      (let l : Launch := { goodLaunch with id := 0, stage := .live }
       let s : State := { restoring with launches := [l] }
       s.launchOf (s.arg 0) = some l ∧ s.mine l.part = true ∧ l.stage = .live ∧ goodLaunch.stage ≠ .live) ∧
      restoring.launchOf (restoring.arg 0) = none ∧ State.reset.devState ≠ .run ∧
      (let s : State := { restoring with cmd := 1 }
       s.mine (lrPart s.argRecord) = false ∧ s.mine (s.arg 0) = false) ∧
      ({ restoring with devState := .trip } : State).devState = .trip ∧ ({ restoring with devState := .quarantine } : State).devState ≠ .start := by
  decide

/-- The last failure before another kind of start, the first cycle at which a start is late, and ten minutes of running. -/
theorem witness_StartRows :
    let st : Starting := { warm := true, step := 10, began := 0, number := 1, fn := none }
    let s : State := { State.reset with now := 2 ^ 36, starting := some st }
    let f := fun (warm : Bool) (w c : Nat) => ({ State.reset with
      starting := some { st with warm := warm, step := 0 }
      flash := { warmFails := w, coldFails := c } } : State)
    (State.reset.devState ≠ .quarantine ∧ State.reset.devState ≠ .trip) ∧
      (s.starting = some st ∧ st.step ≠ 0 ∧ st.began + 2 ^ 36 ≤ s.now) ∧
      (f true 1 0).flashNow.warmFails < 2 ∧ 2 ≤ (f true 2 0).flashNow.warmFails ∧ (f false 0 2).flashNow.coldFails < 3 ∧
      3 ≤ (f false 0 3).flashNow.coldFails ∧
      (let r : State := { State.reset with now := 780000000000, runSince := some 0 }
       r.runSince = some 0 ∧ 0 + 780000000000 ≤ r.now ∧ 0 + 780000000000 > ({ r with now := 779999999999 } : State).now) ∧
      st.step = 10 ∧ ({ st with step := 0 } : Starting).step = 0 ∧ State.reset.joined st = true ∧ State.reset.starting = none ∧
      ({ s with now := 2 ^ 36 - 1 } : State).now < st.began + 2 ^ 36 := by decide

/-- Sixteen samples one milliwatt over the limit after 15 and after 16, and at it; the figures of temperature; dies and cores in each state; a reserve
that is free and one that a takeover holds. -/
theorem witness_StewardRows :
    let s : State := { State.reset with powers := List.replicate 15 1800000 }
    (let last := (s.powers ++ [1800001]).drop (s.powers.length + 1 - 16)
     last.length = 16 ∧ 16 * 1800000 < last.sum ∧ s.overPower = 0) ∧
      (let r : State := { s with powers := List.replicate 16 1800001, overPower := 1 }
       let last := (r.powers ++ [1800000]).drop (r.powers.length + 1 - 16)
       last.length = 16 ∧ 16 * 1800000 < last.sum ∧ r.overPower = 1 ∧ 2 ≤ ({ r with overPower := 2 } : State).overPower) ∧
      ¬ 16 * 1800000 < ((s.powers ++ [1800000]).drop (s.powers.length + 1 - 16)).sum ∧ sget 0 s.hot 0 < 1 ∧ s.devState ≠ .quarantine ∧ (7 : Nat) ≠ 8 ∧
      s.spareFor ≠ some 7 ∧ s.dieState 7 = .active ∧ s.dieState 8 = .reserve ∧ s.spareFor = none ∧ s.spareFree = true ∧
      ({ s with dies := [(8, some .retired)] } : State).spareFree = false ∧
      s.physState (s.physical 287) = .active ∧ (s.reserveOf 287).isSome = true ∧ s.holds 287 = false ∧
      s.hostMay 0 true = true ∧ s.hostMay 1 true = false ∧
      (let r : State := { issuing user0 with dies := [(0, some .retiring)] }
       r.dieState 0 = .retiring ∧ (r.ctxAt 0).present = true ∧ dieOf (coreOf 0) = 0 ∧ r.dieState 1 ≠ .retiring ∧
         r.spareFree = false ∧ r.holds 0 = true ∧
         (countEvent (sget ({} : Window) r.dieEvents (r.physDie 0)).w0 0 (BitVec.ofNat 40 r.conc) r.dieWin.1.toNat).2 <
           r.dieWin.2) := by decide

/-! ### Witnesses: bundles that commit, micro effects and the checks that fail -/

/-- A bundle whose slots have run, with an effect for this cycle and one for the next, and work of both already there. -/
theorem witness_AdvanceBringsDueWork_commit :
    let d : Due := ⟨0, rankUntimed, .op .powerLoss⟩
    let e : Due := ⟨1, rankUntimed, .op .powerLoss⟩
    let s : State := { issuing sup0 with todo := [d], agenda := [e], cur := { (issuing sup0).cur with buf := [d, e] } }
    s.cur.open_ = true ∧ s.cur.words.length ≤ s.cur.idx ∧ d ∈ s.cur.buf ∧ d.at_ ≤ s.now ∧ e ∈ s.cur.buf ∧ ¬ e.at_ ≤ s.now ∧
      d ∈ s.todo ∧ e ∈ s.agenda := by decide

/-- Every number of Table 05-5 is one that a 10-bit field holds, the last tolerance entry among them, read in supervisor mode. -/
theorem witness_ScalarCopies_numbers :
    (issuing sup0).me.passes always = true ∧ (issuing sup0).me.sup = true ∧ (0x02F : BitVec 10).toNat = 0x020 + 15 ∧
      (0x007 : BitVec 10).toNat = 0x004 + 3 ∧ (0x019 : BitVec 10).toNat = 0x019 := by decide

/-- A transfer that is due at the commit, and none. -/
theorem witness_Transfers_commit :
    let s := issuing { sup0 with xfers := [.to 8, .no, .no] }
    let r := issuing sup0
    s.cur.open_ = true ∧ s.cur.words.length ≤ s.cur.idx ∧ s.me.xfers.headD .no = .to 8 ∧ r.me.xfers.headD .no = .no ∧
      (r.me.endBundle r.cur.pc r.cur.brk).2 = none := by decide

/-- Both modes, a delay position, each event alone and the later ones beside the first; the commit of a quiet bundle that issues
for the first time and again, and of one that is not quiet. -/
theorem witness_TrapAndQuiet_events :
    let ev := fun (e : Pending) => issuing { user0 with ev := e }
    let all : Pending := { repair := some 1, preempt := true, refresh := some 2, host := some 3 }
    (issuing sup0).me.sup = true ∧ (issuing { user0 with xfers := [.no, .to 8, .no] }).me.inDelay = true ∧
      (ev all).me.inDelay = false ∧ (ev all).pending 0 = false ∧ (ev all).me.sup = false ∧ (ev all).me.ev.repair ≠ none ∧
      (let e : Pending := { all with repair := none }
       (ev e).me.ev.repair = none ∧ (ev e).me.ev.preempt = true) ∧
      (let e : Pending := { all with repair := none, preempt := false }
       (ev e).me.ev.preempt = false ∧ (ev e).me.ev.refresh = some 2) ∧
      (let e : Pending := { host := some 3 }
       (ev e).me.ev.refresh = none ∧ (ev e).me.ev.host = some 3) ∧ (issuing sup0).pending 0 = false := by decide

theorem witness_TrapAndQuiet_commit :
    let q := fun (c : Context) => ({ issuing c with cur := { (issuing c).cur with quiet := true } } : State)
    (q user0).cur.open_ = true ∧ (q user0).cur.words.length ≤ (q user0).cur.idx ∧ (q user0).cur.quiet = true ∧
      (q user0).me.sup = false ∧ (q user0).me.reissue = false ∧ (q { user0 with reissue := true }).me.reissue = true ∧
      (q sup0).me.sup = true ∧ (issuing user0).cur.quiet = false := by decide

/-- An end before the next bundle; counts of 0; seven V granules; a full stack and one with a place. -/
theorem witness_Loops_tests :
    let s := issuing { sup0 with partWord := 0x20000007, loops := List.replicate 6 entry0 }
    let next := s.cur.pc + BitVec.ofNat 32 (4 * s.cur.words.length)
    (s.cur.pc + BitVec.ofNat 32 (4 * (0 : BitVec 11).toNat)).toNat < next.toNat ∧
      next.toNat ≤ (s.cur.pc + BitVec.ofNat 32 (4 * (1 : BitVec 11).toNat)).toNat ∧ (0 : BitVec 8).setWidth 32 = (0 : Word) ∧
      (0 : BitVec 6).setWidth 32 = (0 : Word) ∧ (s.me.regA 1).setWidth 32 = (0 : Word) ∧ s.me.vg < 8 ∧ 8 ≤ (issuing sup0).me.vg ∧
      6 ≤ s.me.loops.length ∧ (issuing { sup0 with loops := List.replicate 5 entry0 }).me.loops.length < 6 := by decide

/-- The commit of an end bundle, of one that breaks, of one that starts a rotation. -/
theorem witness_EndBundleRule_commit :
    let s := issuing { sup0 with loops := [{ entry0 with count := 2 }] }
    let brk : State := { s with cur := { s.cur with brk := true } }
    let rot : State := { s with cur := { s.cur with push := some { entry0 with rot := true }, rot := some true } }
    s.cur.open_ = true ∧ s.cur.words.length ≤ s.cur.idx ∧ s.cur.brk = false ∧ s.cur.push = none ∧ s.cur.rot = none ∧
      s.me.xfers.headD .no = .no ∧ (s.me.endBundle s.cur.pc false).2 = some entry0.start ∧ brk.cur.brk = true ∧
      brk.cur.push = none ∧ rot.cur.brk = false ∧ rot.cur.push = some { entry0 with rot := true } ∧ rot.cur.rot = some true := by
  decide

/-- A BUSY token beside a FAULT one, a FAULT one alone; a bundle already held; a core with another context that is ready; a
deterministic core; a token without its valid bit, one of an unconfigured barrier, one whose phase stands. -/
theorem witness_RetimingPoints_held :
    let held : Held := { t0 := 0, h := 9, others := [{ key := 1, uid := 0, issued := 0, held := false }], waits := true }
    let c : Context := { sup0 with
      toks := [(1, { st := .busy }), (2, { st := .fault, status := 7 })], bts := [(0, 1), (1, 0x10002), (2, 0x10001)], held := some held }
    let s : State := { issuing c with bars := [(1, { expected := 2 })] }
    let det : State := s.modCore 0 (fun x => { x with det := true })
    s.cur.open_ = true ∧ s.cur.words.length ≤ s.cur.idx ∧ s.me.inDelay = false ∧ (s.me.token 1).st = .busy ∧
      (∀ i, i < 8 → ¬ ((4 : BitVec 8).getLsbD i = true ∧ (s.me.token i).st = .busy)) ∧ (s.me.token 2).st = .fault ∧
      (4 : BitVec 8).getLsbD 2 = true ∧ (s.coreAt (coreOf s.cur.ctx)).det = false ∧ s.me.held = some held ∧ s.conc < held.h.toNat ∧
      (det.coreAt (coreOf det.cur.ctx)).det = true ∧ det.me.retired ≤ held.h.toNat ∧
      (let d := det.modCtx 0 (fun x => { x with retired := 10 })
       held.h.toNat < d.me.retired) ∧
      (sget 0 s.me.bts 0).getLsbD 16 = false ∧ (sget 0 s.me.bts 1).getLsbD 16 = true ∧
      (s.barrier (barKey s.cur.ctx ((sget 0 s.me.bts 1).toNat % 256))).expected = 0 ∧
      (s.barrier (barKey s.cur.ctx ((sget 0 s.me.bts 2).toNat % 256))).expected ≠ 0 ∧
      s.seenPhase 0 (barKey s.cur.ctx ((sget 0 s.me.bts 2).toNat % 256)) = BitVec.ofNat 8 ((sget 0 s.me.bts 2).toNat / 256) := by
  decide

theorem witness_RetimingPoints_yield :
    let k : Nat → State := fun n => { issuing { sup0 with code := [0] } with
      ctxs := [(0, { sup0 with held := some { t0 := 0, h := 0, waits := true, others := [{ key := 1, uid := 0, issued := 0, held := false }] } }),
        (1, { user0 with code := [0x80000000], issued := n })] }
    let s : State := { k 0 with ctxs := [(0, sup0), (1, { user0 with code := [0x80000000] })] }
    s.me.held = none ∧ s.readyOthers s.cur.ctx ≠ [] ∧ (issuing { sup0 with xfers := [.to 0, .no, .no] }).me.inDelay = true ∧
      (k 0).yieldedTo { key := 1, uid := 0, issued := 0, held := false } = false ∧
      (k 1).yieldedTo { key := 1, uid := 0, issued := 0, held := false } = true := by decide

/-- A shelf that may be read, one that may not; a pool with room and one of 64 entries. -/
theorem witness_ArriveAndSpawn_read :
    let c := shelved
    let s := issuing c
    let e : PoolEntry := { id := 1, raw := 0, ctx := 0, launch := 0, part := 0, released := false, order := 0 }
    let full : State := { s with lpool := [(0, List.replicate 64 e)] }
    (15 : Nat) ≠ 0 ∧ 15 < 16 ∧ c.stage = .run ∧
      (s.readCheck 0 { sh := 1, off := ((64 * 0 : Nat) : Int), size := 64 } 64).2 = none ∧
      (s.readCheck 0 { sh := 1, off := ((64 * 1 : Nat) : Int), size := 64 } 64).2 = some ⟨0x06, 2, 0⟩ ∧
      (s.poolOf (dieOf (coreOf 0))).length < 64 ∧ 64 ≤ (full.poolOf (dieOf (coreOf 0))).length ∧
      (full.readCheck 0 { sh := 1, off := ((64 * 0 : Nat) : Int), size := 64 } 64).2 = none := by decide

/-- The commits of the privileged forms; a token in use; translations in use, pinned and of another page. -/
theorem witness_PrivilegedControls_commit :
    let s := issuing { sup0 with xfers := [.rti, .no, .no], toks := [(7, { st := .done })] }
    let x : Trans1 := { id := 1, part := 0, va := 0, size := 65536, pa := 0, w := true, g := false, dev := 0, pins := 0, dropped := false }
    let r : State := s.modCore 0 (fun b => { b with cache := [x, { x with id := 2, pins := 1 }, { x with id := 3, va := 65536 }] })
    s.cur.open_ = true ∧ s.cur.words.length ≤ s.cur.idx ∧ s.me.xfers.headD .no = .rti ∧ s.cur.halt = false ∧
      ({ s with cur := { s.cur with halt := true } } : State).cur.halt = true ∧ (issuing sup0).me.xfers.headD .no ≠ .rti ∧
      (s.me.token (7 : BitVec 3).toNat).st ≠ .free ∧ s.me.sup = true ∧ (∀ l ∈ r.loans, l.stage ≠ .walking) ∧
      ((r.coreAt 0).cache.filter (fun y => !y.dropped && y.part == (r.ctxAt 0).part && decide (y.va ≤ 65535) &&
        decide (65535 < y.va + y.size))).map (fun y => y.id) = [1, 2] := by decide

/-- Each register of a form poisoned, alone and beside the clean ones that are tested before it. -/
theorem witness_ScratchpadAccesses_poisoned :
    let s := issuing { sup0 with lp := 2 }
    s.me.passes always = true ∧ s.me.poisonL (1 : BitVec 5).toNat = true ∧ s.me.poisonL (2 : BitVec 5).toNat = false ∧
      s.me.poisonL (0 : BitVec 5).toNat = false := by decide

/-- A half that may not be read; accesses past its end, before it and off their alignment; a half with its flag, one with an
error in the word read; a back half that is not FILLING, and one that is. -/
theorem witness_LoadSamplesAndStores_fails :
    let c : Context := { shelved with shelves := shelved.shelves ++ [(3, { base := 2, len := 1, fs := .full, fp := true })] }
    let s := (issuing c).modCore 0 (fun b => { b with poolBad := [c.halfAddr (c.shelf 1) false 56 / 8] })
    c.stage = .run ∧ (s.readCheck 0 { sh := 2, off := 0, size := 8 } 8).2 = some ⟨0x05, 1, 0⟩ ∧
      (s.readCheck 0 { sh := 1, off := 64, size := 8 } 8).2 = some ⟨0x06, 2, 0⟩ ∧
      (s.readCheck 0 { sh := 1, off := -8, size := 8 } 8).2 = some ⟨0x06, 2, 0⟩ ∧
      (s.readCheck 0 { sh := 1, off := 57, size := 2 } 2).2 = some ⟨0x06, 2, 0⟩ ∧
      (s.readCheck 0 { sh := 1, off := 56, size := 8 } 8).2 = some ⟨0x07, 2, 0⟩ ∧
      (s.readCheck 0 { sh := 3, off := 56, size := 8 } 8).2 = some ⟨0x07, 2, 0⟩ ∧
      (s.readCheck 0 { sh := 1, off := 48, size := 8 } 8).2 = none ∧
      (s.writeCheck 0 { sh := 1, off := 0, size := 8 } 8).map (fun f => f.cause) = some 0x05 ∧
      (s.writeCheck 0 { sh := 2, off := 60, size := 8 } 8).map (fun f => f.cause) = some 0x06 ∧
      s.writeCheck 0 { sh := 2, off := 56, size := 8 } 8 = none := by decide

/-- A shelf that no transition of the cycle has changed, and one that has one; an undeclared shelf; a poisoned declaration. -/
theorem witness_AddressesAndShelves_sample :
    let s := issuing { shelved with was := [(0, 1, { len := 1 }), (0, 2, {})], lp := 2 }
    (s.ctxAt 0).older = [] ∧ (∀ e ∈ (s.ctxAt 0).was, e.1 ≠ s.now ∨ e.2.1 ≠ 63) ∧
      (s.ctxAt 0).was.filter (fun e => e.1 == s.now && e.2.1 == 1) = [(0, 1, { len := 1 })] ∧ ((s.ctxAt 0).shelf 63).len = 0 ∧
      ((s.ctxAt 0).shelf 1).len ≠ 0 ∧ s.me.sup = true ∧ s.me.poisonL (1 : BitVec 5).toNat = true := by decide

/-- The first of two quarters and the last; a datapath that is occupied. -/
theorem witness_VectorFormsStart_quarter :
    let v : VOp := { vop (.vAdd .f32 0 2 0 0) with quarter := 0, quarters := 2 }
    let s := issuing { sup0 with vop := some v }
    let r := s.modCore 0 (fun b => { b with vFree := 1 })
    (s.ctxAt 0).vop = some v ∧ v.quarter + 1 < v.quarters ∧ ({ v with quarter := 1 } : VOp).quarters ≤ 1 + 1 ∧
      r.now < (r.coreAt (coreOf r.cur.ctx)).vFree ∧ Instr.unit (.vAdd .f32 0 2 0 0) = unitV := by decide

theorem witness_VectorElements_memory :
    (vop (.vLd .f32 0 2 31 0)).i = .vLd .f32 0 2 31 0 ∧ (vop (.vLdS .f32 0 2 31 0)).i = .vLdS .f32 0 2 31 0 ∧
      (vop (.vLdt .f32 0 2 31 0)).i = .vLdt .f32 0 2 31 0 ∧ (vop (.vSt .f32 0 31 2 0)).i = .vSt .f32 0 31 2 0 ∧
      (vop (.vLdz .f32 0 2 15 15)).i = .vLdz .f32 0 2 15 15 ∧ 0 < (vop (.vAdd .i32 0 2 0 0)).results.1 := by decide

/-- Queue 0 of link 0 holds flits, without a conversion; entry 0 of the view names it. -/
def popping (q : Queue) : State := { linked with links := [(0, { queues := [(0, q)] })] }

/-- A queue popped in this cycle, one that has overflowed, an empty one, one whose flit is to come; a plain flit with its sum and
one without; a row that its margins bear out. -/
theorem witness_LinkForms_pops :
    let row := makeFlit 0 0 [] 0 1 0 16 0
    let q : Queue := { flits := [(0, flit0)] }
    let first := fun (s : State) => s.queue (viewRxl (s.viewEntry 0 0)) (viewRxq (s.viewEntry 0 0))
    ((popping q).ctxAt 0).stage = .run ∧ (first (popping { q with popAt := some 0 })).popAt = some (popping q).now ∧
      (first (popping { q with ovf := true })).popAt ≠ some (popping q).now ∧ (first (popping { q with ovf := true })).ovf = true ∧
      (first (popping {})).flits = [] ∧ (first (popping q)).flits = (0, flit0) :: [] ∧ (first (popping q)).ovf = false ∧
      (popping q).concI < 1 + ({ q with flits := [(1, flit0)] } : Queue).slack ∧ 0 + q.slack ≤ (popping q).concI ∧
      flitKind flit0 = 0 ∧ flitKind flit0 ≠ 1 ∧ wordSum flit0.data = flitMargin flit0 ∧
      wordSum ({ flit0 with data := 1 } : Flit).data ≠ flitMargin { flit0 with data := 1 } ∧
      ((popping { q with flits := [(0, row)] }).pop 0 0 (some (1, none)) false).2.toOption = some row ∧
      q.fs = q.fk := by decide

/-- A shelf that a send or an anthology step may read, and one that it may not. -/
theorem witness_LinkForms_samples :
    let s := issuing shelved
    (s.ctxAt 0).stage = .run ∧ (s.readCheck 0 { sh := 1, off := 0, size := 64 } 64).2 = none ∧
      (s.readCheck 0 { sh := 2, off := 0, size := 64 } 64).2 = some ⟨0x05, 1, 0⟩ := by decide

/-- The record of a loan stands at the beginning of shelf 1. -/
def recorded (c : Context) (r : BitVec 512) : State :=
  { issuing c with cores := [(0, { pool := swrite 0 [] (c.accessAddr { sh := 1, off := 0, size := 64 } false) (leBytes 64 r.toNat) })] }

/-- The tests of a record in the order of Table 12-4, for the context's token. -/
def loanTests (c : Context) (r : LoanRec) : List Bool :=
  let op := recOp r
  [knownOp op && recBits r 27 5 == 0 && recScope r != 7 && shapeOk r && (!recPub r || pubOk op) && (!recRel r || relOk op) &&
      (!recNr r || isAtomic op) && (!(srcKinds op).isEmpty || recSrc r == 0) && unusedClean r && depositOk r false true,
    (c.token (recTk r)).st == .free,
    addrOk (recSrc r) (srcKinds op) && addrOk (recDst r) (dstKinds op),
    recOrd r != 3 && (recOrd r != 1 || opReads op) && (recOrd r != 2 || opWrites op)]

/-- A record that passes; one of no operation; a token in use; a destination of the wrong kind; a reserved order; the last ordinal
and the one past it. -/
theorem witness_NetworkSettings_record :
    let s := recorded shelved copyRec
    (s.readCheck 0 { sh := 1, off := 0, size := 64 } 64).2 = none ∧
      BitVec.ofNat 512 (leNat (s.shelfBytes 0 { sh := 1, off := 0, size := 64 })) = copyRec ∧
      loanTests shelved copyRec = [true, true, true, true] ∧ loanTests shelved (recordOf [(0, 0x3F)]) = [false, true, true, true] ∧
      loanTests { shelved with toks := [(0, { st := .busy })] } copyRec = [true, false, true, true] ∧
      loanTests shelved (copyRec ||| BitVec.ofNat 512 (3 * 2 ^ 254)) = [true, true, false, true] ∧
      loanTests shelved (copyRec ||| recordOf [(13, 3)]) = [true, true, true, false] ∧
      (s.ctxAt 0).ordinal < 256 ∧ 256 ≤ ({ shelved with ordinal := 256 } : Context).ordinal ∧ shelved.stage = .run ∧
      isAtomic (recOp copyRec) = false ∧ recOp copyRec = 1 := by decide

/-- The last pseudo-channel. -/
theorem witness_DramData_window : (511 : Nat) < 512 ∧ ((0 : Nat) ≠ 1 ∨ (511 : Nat) ≠ 511) := by decide

/-- A product whose A comes from a shelf with a good header, or a bad one; from the chain without a partner, with one that forwards
nothing, that has no row yet, that has one; from a queue with a row flit and an empty one. -/
theorem witness_ArrayRows_shelf :
    let m : MulOp := { mul0 with a := .shelf { sh := 1, off := 0, size := 64 } }
    let s := fun (r : BitVec 512) => ({ recorded shelved r with muls := [m] } : State)
    let h := fun (r : BitVec 512) => leNat (((s r).poolRead 0 ((s r).ctxAt 0 |>.accessAddr { sh := 1, off := 0, size := 64 } false) 64).take 8)
    let good := BitVec.ofNat 512 (2 ^ 32 * 128 + 2 ^ 40)
    (s good).loadOf origin0 = none ∧ (s good).mulOf origin0 = some m ∧ ((s good).ctxAt 0).stage = .run ∧
      ((s good).readCheck 0 { sh := 1, off := 0, size := 64 } 64).2 = none ∧ h good % 32 = fwCode m.fa.toNat ∧
      h good / 2 ^ 32 % 256 = 128 ∧ h good / 2 ^ 40 % 256 = 1 ∧ h (BitVec.ofNat 512 (2 ^ 32 * 129 + 2 ^ 40)) / 2 ^ 32 % 256 = 129 ∧
      (({ issuing { shelved with shelves := [] } with muls := [m] } : State).readCheck 0 { sh := 1, off := 0, size := 64 } 64).2.isSome
        = true := by decide

theorem witness_ArrayRows_chain :
    let o : Origin := { origin0 with ctx := 4, t := 2 }
    let m : MulOp := { mul0 with o := o, a := .chain }
    let s := fun (l : List MulOp) => ({ issuing sup0 with ctxs := [(4, sup0)], muls := m :: l } : State)
    let p : MulOp := { mul0 with af := true }
    let r : MRow := ⟨List.replicate 128 1, [0x7F, 0x7F, 0x7F, 0x7F]⟩
    (s []).loadOf o = none ∧ (s []).mulOf o = some m ∧ ((s []).ctxAt o.ctx).stage = .run ∧ (s []).partner o = none ∧
      (s [mul0]).partner o = some mul0 ∧ mul0.af = false ∧ (s [p]).partner o = some p ∧ p.af = true ∧ sget none p.arows 127 = none ∧
      (s [{ p with arows := [(127, some r)] }]).partner o = some { p with arows := [(127, some r)] } ∧
      sget none ({ p with arows := [(127, some r)] } : MulOp).arows 127 = some r := by decide

theorem witness_ArrayRows_queue :
    let row := makeFlit 0 0 [] 0 1 127 16 0
    let m : MulOp := { mul0 with a := .queue 0, p := .queue 0 }
    let s := fun (q : Queue) => ({ popping q with muls := [m] } : State)
    (s {}).mulOf origin0 = some m ∧ (if true then m.p else m.a) = .queue 0 ∧ (if false then m.p else m.a) = .queue 0 ∧
      ((s {}).pop 0 0 (some (1, some 127)) false (some (0, 0))).2.isOk = false ∧
      ((s { flits := [(0, row)] }).pop 0 0 (some (1, some 127)) false (some (0, 0))).2.toOption = some row ∧ (135 : Nat) < 136 := by decide

theorem witness_ArrayRows_load :
    let l : LoadOp := { load0 with rv := 128, cv := 128, lines := (List.range 128).map (fun r => (r, List.replicate 128 1)) }
    ({ issuing sup0 with cores := [(0, { load := some l })] } : State).loadOf origin0 = some l ∧
      (∀ r, r < 128 → (sget [] l.lines r).length = 128) ∧ l.rv ≤ 128 ∧ l.cv ≤ 128 := by decide

theorem witness_ContextRows_errors :
    ((issuing user0).coreAt (coreOf 0)).poolBad = [] ∧ ({ fp := true } : Shelf).fp = true ∧ ({ bp := true } : Shelf).bp = true := by
  decide

/-- Two parts of one granule's adds, of which one is answered while the other is outstanding, and is sent again with it. -/
theorem witness_SpanRows_parts :
    let p := asking 4 (2 ^ 62) { kind := 3, total := 99 } []
    let r : RemoteReq := { request0 0 with packet := { p with dst := 1 } }
    let m : Loan := { id := 1, owner := .context 0, core := 0, part := 0, root := 0, raw := 0, u := 0, cls := 3, answered := [{ r with id := 3 }] }
    let s : State := { State.reset with remoteReqs := [r, { r with id := 2, seq := 1 }], loans := [m] }
    (s.outstanding 0 1).find? (fun r => r.seq == 0 && r.sent) = some r ∧ s.loan r.loan = some m ∧ inParts r.packet = true ∧
      (∃ x ∈ s.remoteReqs, x.id ≠ r.id ∧ r.sameGranule x = true) ∧ (∃ x ∈ m.answered, r.sameGranule x = true) ∧ r.resends < 3 := by
  decide

/-- A publish of a double shelf; of a shelf that is not FILLING; of a context that is none of the launch. -/
theorem witness_LoanSignals_publishFails :
    let w := recDst publishLoan.raw
    let s := fun (c : Store Context) => ({ lending publishLoan with ctxs := c } : State)
    let dbl : Context := { sup0 with shelves := [(2, { len := 1, dbl := true, bs := .filling })] }
    (∀ c, (s c).loan (s c).loanNow = some publishLoan ∧ (s c).mayWrite publishLoan = true) ∧ wordDev w = ownDevice ∧
      (s [(0, dbl)]).launchMate ((s [(0, dbl)]).ctxAt 0).launch w = some 0 ∧
      (((s [(0, dbl)]).ctxAt 0).shelf (wordShelf w)).len ≠ 0 ∧
      (((s [(0, dbl)]).ctxAt 0).shelf (wordShelf w)).stateAt true = .filling ∧
      (s [(0, sup0)]).launchMate ((s [(0, sup0)]).ctxAt 0).launch w = some 0 ∧
      (((s [(0, sup0)]).ctxAt 0).shelf (wordShelf w)).stateAt true ≠ .filling ∧
      (s []).launchMate ((s []).ctxAt 0).launch w = none := by
  have ho := ownDevice_lt
  have hw : recDst publishLoan.raw = 2 ^ 63 + ownDevice * 2 ^ 44 + 2 * 2 ^ 26 := publish_dst _ ho
  obtain ⟨h1, h2, h3⟩ := publish_words ownDevice ho _ hw
  intro w s dbl
  have h2 : wordCtx w = some 0 := h2
  have h3 : wordShelf w = 2 := h3
  refine ⟨fun c => ⟨rfl, by simp only [State.mayWrite, Bool.or_eq_true]; exact .inr rfl⟩, h1, ?_, ?_, ?_, ?_, ?_, ?_⟩
  · simp only [State.launchMate]; rw [h2]; decide
  · rw [h3]; decide
  · rw [h3]; decide
  · simp only [State.launchMate]; rw [h2]; decide
  · rw [h3]; decide
  · simp only [State.launchMate]; rw [h2]; decide

/-- An arrival at a barrier that nothing has configured, and a release of a token that this device does not hold. -/
theorem witness_LoanSignals_refused :
    let w := recDst arriveLoan.raw
    let l := loan0 (recordOf [(0, 0x23), (192, 2 ^ 62)])
    let s := lending arriveLoan
    s.loan s.loanNow = some arriveLoan ∧ s.mayWrite arriveLoan = true ∧ wordDev w = ownDevice ∧
      (s.barrier (wordDie w * 256 + wordBarrier w)).expected = 0 ∧ (lending l).loan (lending l).loanNow = some l ∧
      (lending l).holder 0 ≠ some ownDevice ∧ (lending l).regionBusy ownDevice 0 = false := by
  have ho := ownDevice_lt
  have hw : recDst arriveLoan.raw = 3 * 2 ^ 62 + ownDevice * 2 ^ 44 + 1 := arrive_dst _ ho
  refine ⟨(lending_loan _).1, (lending_loan _).2, (arrive_words ownDevice ho _ hw).1, rfl, rfl, by decide, ?_⟩
  simp [State.regionBusy, lending, issuing, loan0, State.reset]

/-- The last arrival of a launch of the last die: at a barrier that still counts, at one that the end has freed, and none. -/
theorem witness_LaunchRows_arrival :
    let l : Launch := { goodLaunch with raw := goodLaunch.raw ||| recordOf [(368, 255), (376, 1)], home := 7, barriers := [5] }
    let s : State := { launching l with bars := [(256 * 7 + 255, { expected := 2, arrivals := 1 })] }
    l.home < 8 ∧ lrDone l.raw = 0 ∧ lrEbv l.raw = true ∧ (s.barrier (256 * l.home + lrEbar l.raw)).expected ≠ 0 ∧
      256 * l.home + lrEbar l.raw ∉ l.barriers ∧ lrEbv goodLaunch.raw = false ∧ s.launchOf l.id = some l ∧
      256 * 7 + 255 ∈ ({ l with barriers := [2047] } : Launch).barriers := by decide

/-- A channel that goes into self-refresh, one that stands in it; lost coolant outside quarantine. -/
theorem witness_StartRows_sleep :
    let c : DCmd := { kind := .sre, pc := 510, bank := 0, row := 0, col := 0, at_ := -9, src := .control }
    let s : State := { State.reset with pcs := [(510, { hist := [c] })] }
    s.devState ≠ .quarantine ∧ inSelfRefresh (s.pseudo (2 * 255)).hist = true ∧ inSelfRefresh (s.pseudo (2 * 0)).hist = false ∧
      asleep (s.pseudo (2 * 0)).hist = false ∧
      (((s.control .prea (2 * 0)).control .prea (2 * 0 + 1)).earliest
        { kind := .sre, pc := 2 * 0, bank := 0, row := 0, col := 0, at_ := s.concI + 1, src := .control } (fun _ => true)
        searchBound (s.concI + 1)).isSome = true := by decide +kernel

/-- The cycles of the samples, with readings, a silent die and an input; a launch with a context on the die and one without. -/
theorem witness_StewardRows_samples :
    let s : State := { State.reset with
      now := 2 ^ 20 - 1, power := some 5, heat := [(7, some 6)], silent := [3], inputs := [(2 ^ 20, .op (.powerSample 9))] }
    s.cur.open_ = false ∧ s.todo = [] ∧ ({ s with now := s.now + 1 } : State).conc % 2 ^ 20 = 0 ∧
      ({ s with now := s.now + 1 } : State).conc % 2 ^ 17 = 0 ∧ (7, some 6) ∈ s.heat ∧ 3 ∈ s.silent ∧ 8 ∉ s.silent ∧
      ((2 ^ 20, .op (.powerSample 9)) : Nat × Event) ∈ s.inputs ∧ 2 ^ 20 ≤ s.now + 1 := by decide

theorem witness_StewardRows_launches :
    let l : Launch := { id := 1, raw := 0, part := 0, home := 0, stage := .live, ctxs := [0] }
    let m : Launch := { l with id := 2, ctxs := [4 * 36], cores := [0, 36] }
    let s : State := { State.reset with launches := [l, m], dies := [(8, some .retired)] }
    s.spareFree = false ∧ s.dieState 0 = .active ∧ (∃ k ∈ l.ctxs, dieOf (coreOf k) = 0) ∧
      ∀ x ∈ s.launches, x.id = m.id → x.stage = .live → ∀ k ∈ x.ctxs, dieOf (coreOf k) ≠ 0 := by decide

/-! ### The spec's worked examples -/

/-- FIPS 202: SHAKE256 of the empty message begins 46 B9 DD 2B 0B A8 8D 13. -/
theorem test_shake256_empty : (shake 8 []).map BitVec.toNat = [70, 185, 221, 43, 11, 168, 141, 19] := by decide +kernel


/-- spec/15_translation_host.md, the worked example: the entry of the root table leads to the table whose entry is the page; a
misaligned entry is refused; R306 places the word. -/
theorem test_walk_worked_example :
    0x200000 + 8 * levelIndex 1 0x400000000100 = 0x280000 ∧ walkEntry 1 0x400000000100 0x100001 = .table 0x100000 ∧
      walkEntry 2 0x400000000100 0x246800007 = .leaf 0x246800100 true none ∧
      walkEntry 2 0x400000000100 0x246900007 = .fault ∧ dpaOf 4 8 291 0 = 0x246800100 := by decide

/-- spec/04_number_formats.md R99, the worked example. -/
theorem test_stochastic_worked_example :
    bfloat16.round (binary32.decode 0x3F80C000) .sr false 0x3FFFFFFF = 0x3F80 ∧
      bfloat16.round (binary32.decode 0x3F80C000) .sr false 0x40000000 = 0x3F81 ∧
      bfloat16.round (binary32.decode 0x3F80C000) .rne false 0 = 0x3F81 ∧
      bfloat16.round (binary32.decode 0x3F80C000) .rz false 0 = 0x3F80 := by decide

/-- spec/04_number_formats.md R103, the worked example: sums of four terms, each rounded once. -/
theorem test_dot_worked_example :
    let row : List Nat := [0x4580, 0x3F80, 0x3F80, 0x3F80, 0x3F80] ++ List.replicate 123 0
    arrayDotF 1 row [] 1 row [] 128 = 0x4B800002 := by decide

/-- spec/18_integrity_repair.md Table 18-7 and its third event past the window. -/
theorem test_row_events_worked_example :
    countEvent 1405 1 700001405 (2 ^ 30) = (1405, 2) ∧ countEvent 1405 2 900000000 (2 ^ 30) = (1405, 3) ∧
      countEvent 1405 2 1073743300 (2 ^ 30) = (1073743300, 1) := by decide

/-- spec/07_instr_scalar.md R145, the examples of the fields. -/
theorem test_fields_worked_example :
    bfxOf 0x12350000 0x0710 = 0x35 ∧ bfxsOf 0x12350000 0x0710 = 0x35 ∧
      bfxsOf 0xF000000000000000 0x3F3C = 0xFFFFFFFFFFFFFFFF := by decide

/-- spec/02_bundles_and_encoding.md R62, the worked example: when and with what a slot's result lands. -/
def landing (i : Instr) (ra : Store Reg) : List (Nat × Event) :=
  match exec i { issuing { sup0 with ra := ra } with now := 100 } with
  | .next t => t.cur.buf.map (fun d => (d.at_, d.ev))
  | _ => []

theorem test_latency_worked_example :
    (landing (.add .a always 3 1 2) [(1, 5), (2, 3)]).map (fun e => e.1) = [101] ∧
      (landing (.mul .a always 5 3 3) [(3, 8)]).map (fun e => e.1) = [103] ∧
      (landing (.getOther .b always 4 1) [(1, 5)]).map (fun e => e.1) = [102] := by decide

theorem test_result_worked_example :
    (landing (.add .a always 3 1 2) [(1, 5), (2, 3)]).any (fun e => match e.2 with
      | .op (.resultLanding _ w) => w == .a 3 8
      | _ => false) = true ∧
      (landing (.mul .a always 5 3 3) [(3, 8)]).any (fun e => match e.2 with
        | .op (.resultLanding _ w) => w == .a 5 64
        | _ => false) = true := by decide

/-- The word that is placed for the next fetch runs as the first slot of a bundle: `li` of spec/07_instr_scalar.md. -/
theorem test_step_runs_placed_word :
    (match step (State.reset.withFetchWord 32 0x9E01FFFE) with
      | .next t => t.cur.idx == 1 && t.cur.buf.length == 1
      | _ => false) = true := by decide

end Sys2Proof.Tests
end

section
/-!
SUPPORT. What leaves HBM4 as it is: every operation over the state but the writes of the memory
controllers and the starts.
-/

namespace Sys2Proof.Machine

/-! ### Choices and folds -/

/-- A choice between two states leaves HBM4 as both do. -/
@[simp] theorem State.mem_ite (c : Prop) [Decidable c] (s t : State) :
    (if c then s else t).mem = if c then s.mem else t.mem := apply_ite State.mem c s t

theorem State.mem_ite_of {c : Prop} [Decidable c] {s t : State} {m : Store Byte} (hs : s.mem = m) (ht : t.mem = m) :
    (if c then s else t).mem = m := by
  split <;> assumption

/-- A fold of updates that each leave HBM4 alone leaves it alone. -/
@[simp] theorem State.foldl_mem {α : Type} (f : State → α → State) (l : List α) (s : State)
    (h : ∀ u a, (f u a).mem = u.mem) : (l.foldl f s).mem = s.mem := foldl_keeps State.mem f h l s

/-! ### Bundles, traps and the quiet record -/

@[simp] theorem State.setQueueFormat_mem (s : State) (q : Nat) (v : Reg) : (s.setQueueFormat q v).mem = s.mem := rfl
@[simp] theorem State.tickShadow_mem (s : State) (k : Nat) : (s.tickShadow k).mem = s.mem := rfl
@[simp] theorem State.illegal_mem (s : State) (e : Illegal) : (s.illegal e).mem = s.mem := rfl
@[simp] theorem State.refuse7_mem (s : State) (detail : Nat) : (s.refuse7 detail).mem = s.mem := rfl
@[simp] theorem State.poisoned_mem (s : State) (unit i : Nat) : (s.poisoned unit i).mem = s.mem := rfl
@[simp] theorem State.record_mem (s : State) (k : Nat) (pc : Word) : (s.record k pc).mem = s.mem := rfl
@[simp] theorem State.returnToRecord_mem (s : State) (k : Nat) : (s.returnToRecord k).mem = s.mem := rfl

/-! ### Events that become traps -/

theorem State.raisePending_mem (s : State) (k : Nat) (t : State) (h : s.raisePending k = some t) : t.mem = s.mem := by
  unfold State.raisePending at h
  dsimp only at h
  repeat' split at h
  all_goals cases h
  all_goals simp

/-! ### Shelves -/

@[simp] theorem State.changeShelf_mem (s : State) (k sh : Nat) (d : Shelf) : (s.changeShelf k sh d).mem = s.mem := rfl

@[simp] theorem State.countPool_mem (s : State) (k addr n : Nat) : (s.countPool k addr n).mem = s.mem := by
  simp [State.countPool]

@[simp] theorem State.readPoison_mem (s : State) (k : Nat) (a : Access) (back : Bool) :
    (s.readPoison k a back).1.mem = s.mem := by
  simp [State.readPoison]

@[simp] theorem State.readBytes_mem (s : State) (k : Nat) (a : Access) (align : Nat) (back : Bool) :
    (s.readBytes k a align back).1.mem = s.mem := by
  simp only [State.readBytes]
  split <;> simp

@[simp] theorem State.readHalf_mem (s : State) (k : Nat) (a : Access) (align : Nat) (back : Bool) :
    (s.readHalf k a align back).1.mem = s.mem := by
  simp only [State.readHalf]
  split <;> simp

@[simp] theorem State.readNamed_mem (s : State) (k : Nat) (a : Access) (align : Nat) (half freed : Bool) :
    (s.readNamed k a align half freed).1.mem = s.mem := by
  unfold State.readNamed
  split <;> simp

@[simp] theorem State.keepSeen_mem (s : State) (k sh : Nat) : (s.keepSeen k sh).mem = s.mem := rfl

theorem State.untimedTransition_mem (s : State) (k sh : Nat) (tr : Trans) (own : Bool) (t : State)
    (h : s.untimedTransition k sh tr own = some t) : t.mem = s.mem := by
  unfold State.untimedTransition at h
  dsimp only at h
  repeat' split at h
  all_goals cases h
  all_goals simp

@[simp] theorem State.notePublish_mem (s : State) (k sh : Nat) (tr : Trans) : (s.notePublish k sh tr).mem = s.mem := by
  simp [State.notePublish]

@[simp] theorem State.noteRelease_mem (s : State) (k sh : Nat) (tr : Trans) : (s.noteRelease k sh tr).mem = s.mem := by
  simp [State.noteRelease]

/-! ### The scratchpad -/

@[simp] theorem State.sstSample_mem (s : State) (o : Origin) (d sh : Nat) : (s.sstSample o d sh).mem = s.mem := by
  simp [State.sstSample]

/-! ### Control flow -/

@[simp] theorem State.goTo_mem (s : State) (pc : Word) : (s.goTo pc).mem = s.mem := rfl
@[simp] theorem State.closeBundle_mem (s : State) : s.closeBundle.mem = s.mem := rfl

theorem State.takeEvent_mem (s : State) (k : Nat) (pc : Word) (t : State) (h : s.takeEvent k pc = some t) :
    t.mem = s.mem := by
  unfold State.takeEvent at h
  dsimp only at h
  repeat' split at h
  all_goals cases h
  all_goals simp

@[simp] theorem startLoop_mem (s : State) (count : Word) (e : BitVec 11) (rot vrot : Bool) :
    (startLoop s count e rot vrot).mem = s.mem := by
  simp [startLoop]

@[simp] theorem State.cancelReserved_mem (s : State) (k : Nat) : (s.cancelReserved k).mem = s.mem := rfl

@[simp] theorem State.releaseReserved_mem (s : State) (k : Nat) : (s.releaseReserved k).mem = s.mem := by
  simp [State.releaseReserved]

@[simp] theorem quietPasses_mem (s : State) : (quietPasses s).mem = s.mem := by
  unfold quietPasses
  dsimp only
  split
  · rfl
  · split
    · next t ht =>
      have h := State.takeEvent_mem _ _ _ t ht
      rw [h]
      split <;> simp
    · rfl

@[simp] theorem holdBundle_mem (s : State) (h : Reg) (others : List Awaited) : (holdBundle s h others).mem = s.mem := by
  unfold holdBundle
  split <;> rfl

@[simp] theorem invalSlot_mem (s : State) (tk : BitVec 3) (va : Option Nat) : (invalSlot s tk va).mem = s.mem := by
  simp [invalSlot]

@[simp] theorem State.barrierArrive_mem (s : State) (o : Origin) (bt bar : Nat) :
    (s.barrierArrive o bt bar).mem = s.mem := rfl

@[simp] theorem State.spawnRead_mem (s : State) (o : Origin) (sh idx pd : Nat) :
    (s.spawnRead o sh idx pd).mem = s.mem := by
  simp only [State.spawnRead]
  split <;> simp

/-! ### Folios -/

@[simp] theorem State.openFolio_mem (s : State) (o : Origin) (acc : Access) (fw : Nat) :
    (s.openFolio o acc fw).1.mem = s.mem := by
  unfold State.openFolio
  dsimp only
  repeat' split
  all_goals simp

/-! ### Links -/

@[simp] theorem State.setQueue_mem (s : State) (l q : Nat) (v : Queue) : (s.setQueue l q v).mem = s.mem := rfl

@[simp] theorem State.commitDepart_mem (s : State) (link : Nat) (dep : Int) : (s.commitDepart link dep).mem = s.mem :=
  rfl

@[simp] theorem State.sendFlit_mem (s : State) (link : Nat) (f : Flit) : (s.sendFlit link f).mem = s.mem := by
  simp [State.sendFlit]

@[simp] theorem State.takePacketFlit_mem (s : State) (link : Nat) (f : Flit) :
    (s.takePacketFlit link f).mem = s.mem := by
  simp only [State.takePacketFlit]
  split <;> simp

@[simp] theorem State.passStage_mem (s : State) (link n : Nat) : (s.passStage link n).mem = s.mem := by
  induction n generalizing s with
  | zero => rfl
  | succ n ih =>
    simp only [State.passStage]
    split
    · rfl
    · rw [ih]
      repeat' split
      all_goals simp

@[simp] theorem State.nack_mem (s : State) (link : Nat) (seq : BitVec 8) : (s.nack link seq).mem = s.mem := by
  simp [State.nack]

@[simp] theorem State.ack_mem (s : State) (link : Nat) (seq : BitVec 8) : (s.ack link seq).mem = s.mem := rfl
@[simp] theorem State.joinAgain_mem (s : State) : s.joinAgain.mem = s.mem := by simp [State.joinAgain]

@[simp] theorem State.downLink_mem (s : State) (link : Nat) : (s.downLink link).mem = s.mem := by
  unfold State.downLink
  rw [State.joinAgain_mem]
  exact State.foldl_mem _ _ s (fun _ _ => rfl)

@[simp] theorem State.openDepart_mem (s : State) (link : Nat) : (s.openDepart link).mem = s.mem := by
  unfold State.openDepart
  dsimp only
  repeat' split
  all_goals simp

@[simp] theorem State.bufferPacket_mem (s : State) (link : Nat) (p : Packet) : (s.bufferPacket link p).mem = s.mem :=
  rfl

@[simp] theorem State.pop_mem (s : State) (k e : Nat) (want : Option (Nat × Option Nat)) (raw : Bool)
    (words : Option (BitVec 17 × BitVec 17)) : (s.pop k e want raw words).1.mem = s.mem := by
  unfold State.pop
  dsimp only
  repeat' split
  all_goals simp

@[simp] theorem State.spanAlignment_mem (s : State) (slip : Int) : (s.spanAlignment slip).mem = s.mem :=
  State.foldl_mem _ _ s (fun _ _ => rfl)

@[simp] theorem State.joinMarker_mem (s : State) (st : Starting) (slip : Int) : (s.joinMarker st slip).mem = s.mem := by
  simp [State.joinMarker]

/-! ### Network slots -/

@[simp] theorem orPoisoned_mem (s : State) (unit l : Nat) (f : State → State) (h : (f s).mem = s.mem) :
    (orPoisoned s unit l f).mem = s.mem := by
  unfold orPoisoned
  split <;> simp [h]

@[simp] theorem withRx_mem (s : State) (e : Nat) (f : Nat → State) (h : ∀ v, (f v).mem = s.mem) :
    (withRx s e f).mem = s.mem := by
  unfold withRx
  dsimp only
  split <;> simp [h]

@[simp] theorem withTx_mem (s : State) (e : Nat) (f : Nat → State) (h : ∀ v, (f v).mem = s.mem) :
    (withTx s e f).mem = s.mem := by
  unfold withTx
  dsimp only
  split <;> simp [h]

@[simp] theorem withDeparture_mem (s : State) (e v n : Nat) (f : State → Int → State)
    (h : ∀ dep, (f s dep).mem = s.mem) : (withDeparture s e v n f).mem = s.mem := by
  unfold withDeparture
  dsimp only
  split <;> simp [h]

@[simp] theorem State.holdDeparture_mem (s : State) (link n : Nat) (dep : Int) :
    (s.holdDeparture link n dep).mem = s.mem := rfl

@[simp] theorem withLatch_mem (s : State) (c : Nat) (f : Latch → State) (h : ∀ x, (f x).mem = s.mem) :
    (withLatch s c f).mem = s.mem := by
  unfold withLatch
  dsimp only
  split <;> simp [h]

@[simp] theorem State.sendSample_mem (s : State) (o : Origin) (e : Nat) (acc : Access) (dep : Int) :
    (s.sendSample o e acc dep).mem = s.mem := by
  simp only [State.sendSample]
  split <;> simp

@[simp] theorem State.popRecv_mem (s : State) (o : Origin) (e : Nat) (acc : Access) :
    (s.popRecv o e acc).mem = s.mem := by
  simp only [State.popRecv]
  split <;> simp

@[simp] theorem State.popFwd_mem (s : State) (o : Origin) (e m : Nat) (dep : Int) :
    (s.popFwd o e m dep).mem = s.mem := by
  simp only [State.popFwd]
  split <;> simp

@[simp] theorem State.popRed_mem (s : State) (o : Origin) (e m : Nat) (acc : Access) (ty : Bool) (dep : Int) :
    (s.popRed o e m acc ty dep).mem = s.mem := by
  unfold State.popRed
  dsimp only
  repeat' split
  all_goals simp

@[simp] theorem State.qslApply_mem (s : State) (o : Origin) (e : Nat) (clr : Bool) (k : Nat) :
    (s.qslApply o e clr k).mem = s.mem := rfl

@[simp] theorem State.fenceFrom_mem (s : State) (k scope : Nat) : (s.fenceFrom k scope).mem = s.mem := rfl

/-! ### Requests to other devices -/

@[simp] theorem State.launchRequest_mem (s : State) (r : RemoteReq) : (s.launchRequest r).mem = s.mem := by
  simp [State.launchRequest]

@[simp] theorem State.flushUpTo_mem (s : State) (engine home n : Nat) : (s.flushUpTo engine home n).mem = s.mem := by
  induction n generalizing s with
  | zero => rfl
  | succ n ih =>
    simp only [State.flushUpTo]
    split
    · rfl
    · simp [ih]

@[simp] theorem State.flushRequests_mem (s : State) (engine home : Nat) :
    (s.flushRequests engine home).mem = s.mem := by
  simp [State.flushRequests]

@[simp] theorem State.dropRequests_mem (s : State) (p : RemoteReq → Bool) : (s.dropRequests p).mem = s.mem := by
  simp [State.dropRequests]

@[simp] theorem State.keepAnswered_mem (s : State) (r : RemoteReq) : (s.keepAnswered r).mem = s.mem := rfl

@[simp] theorem State.resendAnswered_mem (s : State) (r : RemoteReq) : (s.resendAnswered r).mem = s.mem := by
  unfold State.resendAnswered
  split <;> simp

@[simp] theorem State.sendRequest_mem (s : State) (l : Loan) (home : Nat) (rec : LoanRec) (data : List (BitVec 512))
    (tag : Nat) : (s.sendRequest l home rec data tag).mem = s.mem := by
  simp [State.sendRequest]

/-! ### Columns and the history of commands -/

@[simp] theorem State.setColBad_mem (s : State) (dpa : Nat) (bad : Bool) : (s.setColBad dpa bad).mem = s.mem := rfl
@[simp] theorem State.countCol_mem (s : State) (dpa : Nat) : (s.countCol dpa).mem = s.mem := by simp [State.countCol]

@[simp] theorem State.remember_mem (s : State) (c : DCmd) : (s.remember c).mem = s.mem :=
  State.foldl_mem _ _ s (fun _ _ => rfl)

/-! ### The memory controllers -/

@[simp] theorem State.updateD_mem (s : State) (d : BitVec 4) (u : BitVec 2) (f : BitVec 5) :
    (s.updateD d u f).mem = s.mem := by
  unfold State.updateD
  split <;> rfl

@[simp] theorem State.sendAll_mem (s : State) (cmds : List DCmd) (colEnd : Nat) (go : State → List DCmd → State)
    (h : ∀ t ds, (go t ds).mem = t.mem) : (s.sendAll cmds colEnd go).mem = s.mem := by
  unfold State.sendAll
  split <;> simp [h]

@[simp] theorem State.setWindow_mem (s : State) (part pc : Nat) (w : BankWindow) :
    (s.setWindow part pc w).mem = s.mem := rfl

@[simp] theorem State.commitCmd_mem (s : State) (c : DCmd) : (s.commitCmd c).mem = s.mem := by simp [State.commitCmd]
@[simp] theorem State.dCommit_mem (s : State) (cs : List DCmd) : (s.dCommit cs).mem = s.mem := by simp [State.dCommit]
@[simp] theorem State.activity_mem (s : State) (pc : Nat) : (s.activity pc).mem = s.mem := rfl

@[simp] theorem State.enqueue_mem (s : State) (owner : ReqOwner) (cls dpa : Nat) (kind : ReqKind) (ready : Int) :
    (s.enqueue owner cls dpa kind ready).1.mem = s.mem := rfl

@[simp] theorem State.commitForced_mem (s : State) (pc bank : Nat) (first : Int) :
    (s.commitForced pc bank first).1.mem = s.mem := by
  unfold State.commitForced
  dsimp only
  repeat' split
  all_goals simp

@[simp] theorem State.forceOne_mem (s : State) (pc bank : Nat) (first : Int) :
    (s.forceOne pc bank first).mem = s.mem := by
  simp [State.forceOne]

@[simp] theorem State.forceRetry_mem (s : State) (pc : Nat) : (s.forceRetry pc).mem = s.mem := by
  simp [State.forceRetry]

@[simp] theorem State.forceRefresh_mem (s : State) (pc bank : Nat) : (s.forceRefresh pc bank).mem = s.mem := by
  unfold State.forceRefresh
  exact (State.foldl_mem _ _ _ (by intros; rfl)).trans (State.forceOne_mem ..)

@[simp] theorem State.gainBank_mem (s : State) (pc bank : Nat) : (s.gainBank pc bank).mem = s.mem := by
  simp [State.gainBank]

@[simp] theorem State.gainPseudo_mem (s : State) (pc : Nat) : (s.gainPseudo pc).mem = s.mem := by
  simp [State.gainPseudo]

@[simp] theorem State.sleepChannel_mem (s : State) (ch : Nat) : (s.sleepChannel ch).mem = s.mem := by
  simp [State.sleepChannel]

@[simp] theorem State.closeBank_mem (s : State) (k pc bank : Nat) (first : Int) :
    (s.closeBank k pc bank first).1.mem = s.mem := by
  simp only [State.closeBank]
  split <;> simp

@[simp] theorem State.closeOne_mem (s : State) (k pc bank : Nat) (first : Int) :
    (s.closeOne k pc bank first).mem = s.mem := by
  simp [State.closeOne]

@[simp] theorem State.closeBanks_mem (s : State) (k : Nat) : (s.closeBanks k).mem = s.mem := by simp [State.closeBanks]
@[simp] theorem State.closeRetry_mem (s : State) (k : Nat) : (s.closeRetry k).mem = s.mem := by simp [State.closeRetry]

/-! ### Translations -/

@[simp] theorem State.modCache_mem (s : State) (core : Nat) (f : List Trans1 → List Trans1) :
    (s.modCache core f).mem = s.mem := rfl

@[simp] theorem State.pin_mem (s : State) (core id : Nat) : (s.pin core id).mem = s.mem := rfl

@[simp] theorem State.addTrans_mem (s : State) (core part va level pa : Nat) (w : Bool) (dev : Option Nat) :
    (s.addTrans core part va level pa w dev).mem = s.mem := rfl

@[simp] theorem State.unpin_mem (s : State) (core id : Nat) : (s.unpin core id).mem = s.mem := by simp [State.unpin]

@[simp] theorem State.unpinAll_mem (s : State) (core : Nat) (ids : List Nat) : (s.unpinAll core ids).mem = s.mem := by
  simp [State.unpinAll]

@[simp] theorem State.dropTrans_mem (s : State) (core part : Nat) (va : Option Nat) :
    (s.dropTrans core part va).1.mem = s.mem := rfl

@[simp] theorem State.restartWalks_mem (s : State) (core part : Nat) : (s.restartWalks core part).mem = s.mem := by
  simp [State.restartWalks]

@[simp] theorem State.invalidate_mem (s : State) (cores : List Nat) (part : Nat) (va : Option Nat)
    (ctx : Option (Nat × Nat)) (fn : Option Nat) : (s.invalidate cores part va ctx fn).mem = s.mem := by
  have hr := foldl_keeps (fun r : State × List (Nat × Nat) => r.1.mem)
    (fun r core => (((r.1.restartWalks core part).dropTrans core part va).1,
      r.2 ++ ((r.1.restartWalks core part).dropTrans core part va).2))
    (fun _ _ => by simp) cores ({ s with nextId := s.nextId + 1 }, [])
  unfold State.invalidate
  dsimp only at hr ⊢
  split <;> simp [hr]

@[simp] theorem State.invalStart_mem (s : State) (o : Origin) (tk : Nat) (va : Option Nat) :
    (s.invalStart o tk va).mem = s.mem := by
  simp [State.invalStart]

/-! ### Loans -/

@[simp] theorem State.loanLater_mem (s : State) (id : Nat) : (s.loanLater id).mem = s.mem := by simp [State.loanLater]

@[simp] theorem State.loanRecord_mem (s : State) (o : Origin) (acc : Access) (sup : Bool) :
    (s.loanRecord o acc sup).mem = s.mem := by
  unfold State.loanRecord
  dsimp only
  repeat' split
  all_goals simp

@[simp] theorem State.kickWaiting_mem (s : State) : s.kickWaiting.mem = s.mem := by simp [State.kickWaiting]

@[simp] theorem State.endLoan_mem (s : State) (id status : Nat) : (s.endLoan id status).mem = s.mem := by
  simp [State.endLoan]

@[simp] theorem State.markHalf_mem (s : State) (k sh st : Nat) (half : Bool) :
    (s.markHalf k sh st half).mem = s.mem := by
  simp [State.markHalf]

@[simp] theorem State.markFront_mem (s : State) (k : Nat) (f : Front) (st : Nat) :
    (s.markFront k f st).mem = s.mem := by
  simp [State.markFront]

@[simp] theorem State.backWrite_mem (s : State) (k sh : Nat) (cells : List (Nat × Byte)) (poison own : Bool) :
    (s.backWrite k sh cells poison own).mem = s.mem := by
  simp [State.backWrite]

@[simp] theorem State.arriveAt_mem (s : State) (w : Nat) : (s.arriveAt w).1.mem = s.mem := by
  simp only [State.arriveAt]
  split <;> simp

@[simp] theorem State.publishAt_mem (s : State) (k sh : Nat) (own : Bool) : (s.publishAt k sh own).1.mem = s.mem := by
  unfold State.publishAt
  split
  · next t ht => exact State.untimedTransition_mem _ _ _ _ _ t ht
  · rfl

@[simp] theorem State.acquireToken_mem (s : State) (l : Loan) (region : Nat) :
    (s.acquireToken l region).mem = s.mem := by
  simp [State.acquireToken]

@[simp] theorem State.releaseToken_mem (s : State) (dev region : Nat) : (s.releaseToken dev region).1.mem = s.mem := by
  unfold State.releaseToken
  dsimp only
  repeat' split
  all_goals simp

@[simp] theorem State.localAccess_mem (s : State) (l : Loan) (dpa : Nat) (k : ReqKind) (tag : Nat) :
    (s.localAccess l dpa k tag).mem = s.mem := rfl

@[simp] theorem State.refuseAccess_mem (s : State) (id status : Nat) : (s.refuseAccess id status).mem = s.mem := by
  simp [State.refuseAccess]

@[simp] theorem State.askNow_mem (s : State) (id : Nat) (a : Ask) : (s.askNow id a).mem = s.mem := by
  unfold State.askNow
  split
  · simp
  · split <;> simp

@[simp] theorem State.ask_mem (s : State) (id : Nat) (a : Ask) : (s.ask id a).mem = s.mem := by
  unfold State.ask
  split <;> simp

@[simp] theorem State.access_mem (s : State) (id : Nat) (dev : Option Nat) (dpa : Nat) (k : ReqKind) (tag : Nat) :
    (s.access id dev dpa k tag).mem = s.mem := by
  unfold State.access
  split <;> simp

@[simp] theorem State.refill_mem (s : State) (core : Nat) : (s.refill core).mem = s.mem := by simp [State.refill]

@[simp] theorem State.oldValue_mem (s : State) (l : Loan) (old : Reg) (poison : Bool) :
    (s.oldValue l old poison).1.mem = s.mem := by
  unfold State.oldValue
  dsimp only
  repeat' split
  all_goals simp

@[simp] theorem State.endFromLog_mem (s : State) (l : Loan) (e : LogEntry) : (s.endFromLog l e).mem = s.mem := by
  simp [State.endFromLog]

@[simp] theorem State.countReads_mem (s : State) (k : Nat) (d : Shelf) (back : Bool) (as : List Int) (z : Nat) :
    (s.countReads k d back as z).mem = s.mem := by
  simp [State.countReads]

@[simp] theorem State.beginLoan_mem (s : State) (l : Loan) : (s.beginLoan l).mem = s.mem := by
  unfold State.beginLoan
  repeat' split
  all_goals simp

@[simp] theorem State.takePages_mem (s : State) (id core part : Nat) (l : List (Nat × Bool)) :
    (s.takePages id core part l).1.mem = s.mem := by
  induction l generalizing s with
  | nil => rfl
  | cons e r ih =>
    obtain ⟨p, w⟩ := e
    simp only [State.takePages]
    split
    · rfl
    · split <;> simp [ih]

@[simp] theorem State.readEntry_mem (s : State) (l : Loan) (va level addr : Nat) :
    (s.readEntry l va level addr).mem = s.mem := by
  simp [State.readEntry]

@[simp] theorem State.ownPages_mem (s : State) (l : Loan) : (s.ownPages l).1.mem = s.mem := by
  unfold State.ownPages
  split <;> rfl

@[simp] theorem State.translateStep_mem (s : State) (l : Loan) : (s.translateStep l).mem = s.mem := by
  unfold State.translateStep
  dsimp only
  repeat' split
  all_goals simp

@[simp] theorem State.walkAnswer_mem (s : State) (id req : Nat) (bytes : List Byte) :
    (s.walkAnswer id req bytes).mem = s.mem := by
  unfold State.walkAnswer
  repeat' split
  all_goals simp

@[simp] theorem State.readsEnd_mem (s : State) (id : Nat) : (s.readsEnd id).mem = s.mem := by simp [State.readsEnd]

@[simp] theorem State.readOwn_mem (s : State) (l : Loan) (k : Nat) : (s.readOwn l k).mem = s.mem := by
  simp [State.readOwn]

@[simp] theorem State.readOutStep_mem (s : State) (l : Loan) (k : Nat) (left : List Nat) :
    (s.readOutStep l k left).mem = s.mem := by
  unfold State.readOutStep
  dsimp only
  split
  · split
    · simp
    · split
      · next t ht => simp [State.untimedTransition_mem _ _ _ _ _ t ht]
      · simp
  · split <;> simp

@[simp] theorem State.readStep_mem (s : State) (l : Loan) : (s.readStep l).mem = s.mem := by
  unfold State.readStep
  split
  · split <;> simp
  · simp

@[simp] theorem State.writeGranules_mem (s : State) (l : Loan) : (s.writeGranules l).mem = s.mem := by
  simp [State.writeGranules]

@[simp] theorem State.accumulateGranules_mem (s : State) (l : Loan) : (s.accumulateGranules l).mem = s.mem := by
  simp [State.accumulateGranules]

@[simp] theorem State.writeBack_mem (s : State) (l : Loan) (k sh : Nat) (own : Bool) :
    (s.writeBack l k sh own).1.mem = s.mem := by
  simp only [State.writeBack]
  split <;> simp

@[simp] theorem State.accumulateBack_mem (s : State) (l : Loan) (k sh : Nat) :
    (s.accumulateBack l k sh).1.mem = s.mem := by
  unfold State.accumulateBack
  dsimp only
  repeat' split
  all_goals simp

@[simp] theorem State.atomicBack_mem (s : State) (l : Loan) (op k sh : Nat) :
    (s.atomicBack l op k sh).1.mem = s.mem := by
  unfold State.atomicBack
  dsimp only
  repeat' split
  all_goals simp

@[simp] theorem State.writeRemote_mem (s : State) (l : Loan) : (s.writeRemote l).mem = s.mem := by
  simp [State.writeRemote]

@[simp] theorem State.afterWrites_mem (s : State) (id : Nat) : (s.afterWrites id).mem = s.mem := by
  unfold State.afterWrites
  split <;> simp

@[simp] theorem State.wroteNow_mem (r : State × Nat) (id : Nat) : (State.wroteNow r id).mem = r.1.mem := by
  unfold State.wroteNow
  split <;> simp

@[simp] theorem State.moveData_mem (s : State) (l : Loan) : (s.moveData l).mem = s.mem := by
  unfold State.moveData
  dsimp only
  repeat' split
  all_goals simp

@[simp] theorem State.moveAdds_mem (s : State) (l : Loan) : (s.moveAdds l).mem = s.mem := by
  unfold State.moveAdds
  dsimp only
  repeat' split
  all_goals simp

@[simp] theorem State.moveAtomic_mem (s : State) (l : Loan) (op : Nat) : (s.moveAtomic l op).mem = s.mem := by
  unfold State.moveAtomic
  dsimp only
  repeat' split
  all_goals simp

@[simp] theorem State.movePublish_mem (s : State) (l : Loan) : (s.movePublish l).mem = s.mem := by
  unfold State.movePublish
  dsimp only
  repeat' split
  all_goals simp

@[simp] theorem State.moveArrive_mem (s : State) (l : Loan) : (s.moveArrive l).mem = s.mem := by
  unfold State.moveArrive
  dsimp only
  repeat' split
  all_goals simp

@[simp] theorem State.ownRelease_mem (s : State) (l : Loan) (region : Nat) : (s.ownRelease l region).mem = s.mem := by
  unfold State.ownRelease
  split <;> simp

@[simp] theorem State.moveToken_mem (s : State) (l : Loan) (acquire : Bool) : (s.moveToken l acquire).mem = s.mem := by
  simp [State.moveToken]

@[simp] theorem State.lastStep_mem (s : State) (l : Loan) : (s.lastStep l).mem = s.mem := by simp [State.lastStep]

@[simp] theorem State.toWriting_mem (s : State) (l : Loan) (go : State → Loan → State)
    (h : ∀ t m, (go t m).mem = t.mem) : (s.toWriting l go).mem = s.mem := by
  unfold State.toWriting
  split <;> simp [h]

@[simp] theorem State.loanStage_mem (s : State) (l : Loan) (go : State → Loan → State)
    (h : ∀ t m, (go t m).mem = t.mem) : (s.loanStage l go).mem = s.mem := by
  unfold State.loanStage
  repeat' split
  all_goals simp [h]

@[simp] theorem State.loanAnswer_mem (s : State) (id a : Nat) (bytes : List Byte) (bad : List Nat) (status : Nat) :
    (s.loanAnswer id a bytes bad status).mem = s.mem := by
  unfold State.loanAnswer
  split <;> simp

/-! ### The end of a loan -/

@[simp] theorem State.loanPublish_mem (s : State) (l : Loan) : (s.loanPublish l).1.mem = s.mem := by
  unfold State.loanPublish
  dsimp only
  repeat' split
  all_goals simp

@[simp] theorem State.endLoanToken_mem (s : State) (k : Nat) (l : Loan) : (s.endLoanToken k l).mem = s.mem := rfl
@[simp] theorem State.dropLoan_mem (s : State) (id : Nat) : (s.dropLoan id).mem = s.mem := rfl

@[simp] theorem State.tellOwner_mem (s : State) (l : Loan) : (s.tellOwner l).mem = s.mem := by
  simp only [State.tellOwner]
  repeat' split
  all_goals simp

@[simp] theorem State.respond_mem (s : State) (p : Packet) (writes : Bool) (status old count : Nat)
    (data : List (BitVec 512)) : (s.respond p writes status old count data).mem = s.mem := by
  simp [State.respond]

@[simp] theorem State.addPeer_mem (s : State) (p : Packet) : (s.addPeer p).mem = s.mem := rfl

@[simp] theorem State.peerBack_mem (s : State) (p : Packet) : (s.peerBack p).1.mem = s.mem := by
  unfold State.peerBack
  dsimp only
  repeat' split
  all_goals simp

@[simp] theorem State.stageAdds_mem (s : State) (p : Packet) (dpa : Nat) (adds : List (Nat × Nat))
    (poison : List Nat) : (s.stageAdds p dpa adds poison).1.mem = s.mem := by
  simp only [State.stageAdds]
  split <;> simp

@[simp] theorem State.peerGranule_mem (s : State) (p : Packet) : (s.peerGranule p).mem = s.mem := by
  unfold State.peerGranule
  dsimp only
  repeat' split
  all_goals simp

@[simp] theorem State.peerRelease_mem (s : State) (l : Loan) (p : Packet) : (s.peerRelease l p).mem = s.mem := by
  simp [State.peerRelease]

@[simp] theorem State.homeExecute_mem (s : State) (p : Packet) : (s.homeExecute p).mem = s.mem := by
  unfold State.homeExecute
  dsimp only
  repeat' split
  all_goals simp

@[simp] theorem State.retryReleases_mem (s : State) : s.retryReleases.mem = s.mem := by
  refine State.foldl_mem _ _ s (fun _ _ => ?_)
  split <;> simp

@[simp] theorem State.peerAnswer_mem (s : State) (l : Loan) (p : Packet) (bytes : List Byte) (bad : List Nat)
    (status : Nat) : (s.peerAnswer l p bytes bad status).mem = s.mem := by
  unfold State.peerAnswer
  split
  · simp
  · split <;> simp

@[simp] theorem State.answerLoan_mem (s : State) (id a : Nat) (bytes : List Byte) (bad : List Nat) (status : Nat) :
    (s.answerLoan id a bytes bad status).mem = s.mem := by
  unfold State.answerLoan
  split
  · simp
  · split <;> simp

/-! ### Jobs of the engines -/

@[simp] theorem State.startJob_mem (s : State) (j : Job) (p : Space) (base n : Nat) (bytes : List Byte) :
    (s.startJob j p base n bytes).mem = s.mem := by
  simp [State.startJob]

@[simp] theorem State.spanAccesses_mem (s : State) (l : Loan) (kind : Nat → ReqKind) :
    (s.spanAccesses l kind).mem = s.mem := by
  simp [State.spanAccesses]

@[simp] theorem State.jobStep_mem (s : State) (l : Loan) (j : Job) : (s.jobStep l j).mem = s.mem := by
  unfold State.jobStep
  repeat' split
  all_goals simp

/-! ### The host port -/

@[simp] theorem State.reply_mem (s : State) (fn : Nat) (r : HostReply) : (s.reply fn r).mem = s.mem := rfl

@[simp] theorem State.modAccess_mem (s : State) (id : Nat) (f : HostAccess → HostAccess) :
    (s.modAccess id f).mem = s.mem := rfl

@[simp] theorem State.hostEnqueue_mem (s : State) (a : HostAccess) (pos : Nat) (l : List (Nat × Nat)) :
    (s.hostEnqueue a pos l).mem = s.mem := by
  induction l generalizing s pos with
  | nil => rfl
  | cons e r ih =>
    obtain ⟨dpa, n⟩ := e
    simp [State.hostEnqueue, ih]

@[simp] theorem State.hostEnd_mem (s : State) (a : HostAccess) (r : HostReply) : (s.hostEnd a r).mem = s.mem := by
  simp only [State.hostEnd]
  split <;> simp

@[simp] theorem State.hostWalk_mem (s : State) (a : HostAccess) : (s.hostWalk a).mem = s.mem := by simp [State.hostWalk]

@[simp] theorem State.hostNext_mem (s : State) (fn n : Nat) : (s.hostNext fn n).mem = s.mem := by
  induction n generalizing s with
  | zero => rfl
  | succ n ih =>
    unfold State.hostNext
    repeat' split
    all_goals simp [ih]

@[simp] theorem State.hostWalked_mem (s : State) (id status : Nat) : (s.hostWalked id status).mem = s.mem := by
  unfold State.hostWalked
  split
  · simp
  · split <;> simp

@[simp] theorem State.hostAnswer_mem (s : State) (id req : Nat) (bytes : List Byte) (bad : List Nat) :
    (s.hostAnswer id req bytes bad).mem = s.mem := by
  unfold State.hostAnswer
  split
  · simp
  · split <;> simp

@[simp] theorem State.setHostQueue_mem (s : State) (q : Nat) (d : HostQueue) : (s.setHostQueue q d).mem = s.mem := rfl

@[simp] theorem State.queueJob_mem (s : State) (q : Nat) (j : Job) (base n : Nat) (bytes : List Byte) :
    (s.queueJob q j base n bytes).mem = s.mem := by
  simp [State.queueJob]

@[simp] theorem State.queueRest_mem (s : State) (q : Nat) : (s.queueRest q).mem = s.mem := by simp [State.queueRest]

@[simp] theorem State.queueStatus_mem (s : State) (q h status : Nat) : (s.queueStatus q h status).mem = s.mem := by
  simp [State.queueStatus]

@[simp] theorem State.queueRun_mem (s : State) (q h : Nat) (bs : List Byte) : (s.queueRun q h bs).mem = s.mem := by
  simp [State.queueRun]

@[simp] theorem State.pollWithin_mem (s : State) (q n : Nat) : (s.pollWithin q n).mem = s.mem := by
  simp [State.pollWithin]

@[simp] theorem State.queueIndexed_mem (s : State) (q run status : Nat) (bs : List Byte) :
    (s.queueIndexed q run status bs).mem = s.mem := by
  simp [State.queueIndexed]

@[simp] theorem State.queueWorded_mem (s : State) (q run h status : Nat) (bs : List Byte) :
    (s.queueWorded q run h status bs).mem = s.mem := by
  simp [State.queueWorded]

@[simp] theorem State.queueRecorded_mem (s : State) (q h status : Nat) (bs : List Byte) :
    (s.queueRecorded q h status bs).mem = s.mem := by
  simp [State.queueRecorded]

@[simp] theorem State.queueStatused_mem (s : State) (q h : Nat) : (s.queueStatused q h).mem = s.mem := by
  simp [State.queueStatused]

@[simp] theorem State.queueNexted_mem (s : State) (q : Nat) : (s.queueNexted q).mem = s.mem := by
  simp [State.queueNexted]

@[simp] theorem State.queueKick_mem (s : State) (q : Nat) : (s.queueKick q).mem = s.mem := by
  unfold State.queueKick
  split <;> simp

/-! ### The array -/

@[simp] theorem withInput_mem (s : State) (f : State → State) (h : (f s).mem = s.mem) :
    (withInput s f).mem = s.mem := by
  unfold withInput
  dsimp only
  split <;> simp [h]

@[simp] theorem orPoison_mem (s : State) (unit l : Nat) (f : State → State) (h : (f s).mem = s.mem) :
    (orPoison s unit l f).mem = s.mem := by
  unfold orPoison
  split <;> simp [h]

@[simp] theorem State.shadowed_mem (s : State) (num : Nat) (v : Reg) : (s.shadowed num v).mem = s.mem := rfl
@[simp] theorem State.setChain_mem (s : State) (o : Origin) (af pf : Bool) : (s.setChain o af pf).mem = s.mem := rfl

@[simp] theorem State.setErrEntry_mem (s : State) (core p : Nat) (e : ErrEntry) :
    (s.setErrEntry core p e).mem = s.mem := rfl

@[simp] theorem State.loadStart_mem (s : State) (l : LoadOp) : (s.loadStart l).mem = s.mem := by simp [State.loadStart]

@[simp] theorem State.loadCycle_mem (s : State) (l : LoadOp) (i : Nat) : (s.loadCycle l i).mem = s.mem := by
  simp [State.loadCycle]

@[simp] theorem State.countRow_mem (s : State) (k z i : Nat) (wide : Bool) : (s.countRow k z i wide).mem = s.mem := by
  simp [State.countRow]

@[simp] theorem State.setZLow_mem (s : State) (k z i : Nat) (ws : List Nat) : (s.setZLow k z i ws).mem = s.mem := by
  simp [State.setZLow]

@[simp] theorem State.setZRow_mem (s : State) (k z i : Nat) (wide : Bool) (ws : List Nat) :
    (s.setZRow k z i wide ws).mem = s.mem := by
  simp [State.setZRow]

@[simp] theorem State.setZElem_mem (s : State) (k z i j w : Nat) : (s.setZElem k z i j w).mem = s.mem := by
  simp [State.setZElem]

@[simp] theorem State.setZValue_mem (s : State) (k z i j : Nat) (wide : Bool) (v : Nat) :
    (s.setZValue k z i j wide v).mem = s.mem := by
  simp [State.setZValue]

@[simp] theorem State.zeroZ_mem (s : State) (k z : Nat) : (s.zeroZ k z).mem = s.mem := rfl

@[simp] theorem State.mulStart_mem (s : State) (m : MulOp) : (s.mulStart m).mem = s.mem := by
  unfold State.mulStart
  repeat' split
  all_goals simp

@[simp] theorem State.setMul_mem (s : State) (m : MulOp) : (s.setMul m).mem = s.mem := rfl

@[simp] theorem State.noPartner_mem (s : State) (o : Origin) (i : Nat) : (s.noPartner o i).mem = s.mem := by
  simp [State.noPartner]

@[simp] theorem State.streamMul_mem (s : State) (m : MulOp) (i : Nat) : (s.streamMul m i).mem = s.mem := by
  unfold State.streamMul
  repeat' split
  all_goals simp

@[simp] theorem State.streamRow_mem (s : State) (o : Origin) (i : Nat) : (s.streamRow o i).mem = s.mem := by
  unfold State.streamRow
  split
  · simp
  · split <;> simp

@[simp] theorem State.folioHeader_mem (s : State) (o : Origin) (load : Bool) : (s.folioHeader o load).mem = s.mem := by
  unfold State.folioHeader
  dsimp only
  repeat' split
  all_goals simp

@[simp] theorem State.popRow_mem (s : State) (o : Origin) (f : Nat) (p : Bool) : (s.popRow o f p).mem = s.mem := by
  unfold State.popRow
  dsimp only
  repeat' split
  all_goals simp

@[simp] theorem State.noteUpdate_mem (s : State) (k z i : Nat) (wide : Bool) : (s.noteUpdate k z i wide).mem = s.mem :=
  rfl

/-! ### Drains -/

@[simp] theorem withDrainPath_mem (s : State) (f : State → State) (h : (f s).mem = s.mem) :
    (withDrainPath s f).mem = s.mem := by
  unfold withDrainPath
  dsimp only
  split <;> simp [h]

@[simp] theorem State.emitDrain_mem (s : State) (d : DrainOp) : (s.emitDrain d).mem = s.mem := rfl

@[simp] theorem withTag_mem (s : State) (z : BitVec 4) (wide : Bool) (f : State → State) (h : (f s).mem = s.mem) :
    (withTag s z wide f).mem = s.mem := by
  unfold withTag
  split <;> simp [h]

@[simp] theorem State.drainStart_mem (s : State) (d : DrainOp) : (s.drainStart d).mem = s.mem := by
  simp [State.drainStart]

@[simp] theorem State.setDrain_mem (s : State) (d : DrainOp) : (s.setDrain d).mem = s.mem := rfl
@[simp] theorem State.setPhys_mem (s : State) (p : Nat) (st : UnitState) : (s.setPhys p st).mem = s.mem := rfl

@[simp] theorem State.writeFlash_mem (s : State) (w : FlashWrite) : (s.writeFlash w).mem = s.mem := by
  simp [State.writeFlash]

@[simp] theorem State.postTakeover_mem (s : State) (core : Nat) : (s.postTakeover core).mem = s.mem := by
  simp [State.postTakeover]

@[simp] theorem State.coreEvent_mem (s : State) (core : Nat) : (s.coreEvent core).mem = s.mem := by
  simp only [State.coreEvent]
  repeat' split
  all_goals simp

@[simp] theorem State.errataEvent_mem (s : State) (core p : Nat) : (s.errataEvent core p).1.mem = s.mem := by
  simp only [State.errataEvent]
  split <;> simp

@[simp] theorem State.errataEvents_mem (s : State) (core : Nat) (l : List Nat) :
    (s.errataEvents core l).1.mem = s.mem := by
  induction l generalizing s with
  | nil => rfl
  | cons p r ih => simp [State.errataEvents, ih]

@[simp] theorem State.deaccessRow_mem (s : State) (core p : Nat) : (s.deaccessRow core p).mem = s.mem := by
  unfold State.deaccessRow
  split <;> simp

@[simp] theorem State.deaccess_mem (s : State) (core : Nat) (ps : List Nat) : (s.deaccess core ps).mem = s.mem := by
  simp [State.deaccess]

@[simp] theorem State.checksum_mem (s : State) (d : DrainOp) (sub row col nr nc kind : Nat) :
    (s.checksum d sub row col nr nc kind).mem = s.mem := by
  simp [State.checksum]

@[simp] theorem State.drainWrites_mem (s : State) (d : DrainOp) (n : Nat) : (s.drainWrites d n).mem = s.mem := by
  simp [State.drainWrites]

@[simp] theorem State.sourceFolio_mem (s : State) (k : Nat) (acc : Access) (parts : List (Nat × Nat)) :
    (s.sourceFolio k acc parts).1.mem = s.mem := by
  unfold State.sourceFolio
  split
  · exact foldl_keeps (fun t : State × Bool => t.1.mem) _ (fun _ _ => by simp) parts (s, false)
  · rfl

@[simp] theorem State.entryDot_mem (s : State) (o : Origin) (h : HistEntry) (wide : Bool) (i j : Nat) :
    (s.entryDot o h wide i j).1.mem = s.mem := by
  unfold State.entryDot
  dsimp only
  split <;> simp

@[simp] theorem State.recompute_mem (s : State) (o : Origin) (wide : Bool) (i j : Nat) (l : List HistEntry)
    (acc : Nat) : (s.recompute o wide i j l acc).1.mem = s.mem := by
  induction l generalizing s acc with
  | nil => rfl
  | cons e r ih =>
    simp only [State.recompute]
    split <;> simp [ih]

@[simp] theorem State.drainFlit_mem (s : State) (d : DrainOp) (sub e : Nat) (f : Nat → Flit) (go : State → State)
    (h : ∀ t, (go t).mem = t.mem) : (s.drainFlit d sub e f go).mem = s.mem := by
  unfold State.drainFlit
  dsimp only
  split <;> simp [h]

@[simp] theorem State.drainMarginFlit_mem (s : State) (d : DrainOp) (e m : Nat) :
    (s.drainMarginFlit d e m).mem = s.mem := by
  simp [State.drainMarginFlit]

@[simp] theorem State.drainNext_mem (s : State) (d : DrainOp) (i : Nat) : (s.drainNext d i).mem = s.mem := by
  simp [State.drainNext]

@[simp] theorem State.drainShelfRow_mem (s : State) (d : DrainOp) (i : Nat) (c : Converted) :
    (s.drainShelfRow d i c).mem = s.mem := by
  unfold State.drainShelfRow
  dsimp only
  split <;> rfl

/-! ### Issue and selection -/

@[simp] theorem State.next_mem (s : State) (es : List Event) : (s.next es).mem = s.mem := rfl
@[simp] theorem State.stampFirst_mem (s : State) (k : Nat) : (s.stampFirst k).mem = s.mem := by simp [State.stampFirst]

@[simp] theorem State.openBundle_mem (s : State) (k : Nat) : (s.openBundle k).mem = s.mem := by
  simp only [State.openBundle]
  split <;> simp

@[simp] theorem State.commitQuiet_mem (s : State) (k : Nat) (pc : Word) : (s.commitQuiet k pc).mem = s.mem := by
  unfold State.commitQuiet
  dsimp only
  repeat' split
  all_goals simp

@[simp] theorem State.commitBundle_mem (s : State) : s.commitBundle.mem = s.mem := by simp [State.commitBundle]
@[simp] theorem State.missHold_mem (s : State) (k : Nat) (i : Instr) : (s.missHold k i).mem = s.mem := rfl

/-- The event that a state takes, or else another state, leaves HBM4 as it is when both do. -/
theorem State.getD_takeEvent_mem (s : State) (k : Nat) (pc : Word) (t : State) (h : t.mem = s.mem) :
    ((s.takeEvent k pc).getD t).mem = s.mem := by
  cases hu : s.takeEvent k pc with
  | none => exact h
  | some u => exact State.takeEvent_mem s k pc u hu

@[simp] theorem State.presentRetiming_mem (s : State) (k : Nat) (i : Instr) : (s.presentRetiming k i).mem = s.mem := by
  unfold State.presentRetiming
  exact State.mem_ite_of (State.missHold_mem ..) (State.mem_ite_of rfl
    (State.mem_ite_of rfl (State.getD_takeEvent_mem _ _ _ _ rfl)))

@[simp] theorem State.breakTrap_mem (s : State) (k i : Nat) : (s.breakTrap k i).mem = s.mem := rfl
@[simp] theorem State.dropYielded_mem (s : State) (k : Nat) : (s.dropYielded k).mem = s.mem := rfl

@[simp] theorem State.presentHeld_mem (s : State) (k : Nat) : (s.presentHeld k).mem = s.mem := by
  unfold State.presentHeld
  dsimp only
  split
  · simp
  · split
    · next t ht => exact State.raisePending_mem _ _ t ht
    · split
      · simp
      · split
        · simp
        · exact State.getD_takeEvent_mem _ _ _ _ (by simp)

@[simp] theorem State.presentCtx_mem (s : State) (k : Nat) : (s.presentCtx k).mem = s.mem := by
  unfold State.presentCtx
  dsimp only
  split
  · rfl
  · split
    · simp
    · split
      · simp
      · split
        · rfl
        · split
          · next t ht => exact State.raisePending_mem _ _ t ht
          · split <;> simp

@[simp] theorem State.spendCredit_mem (s : State) (core k : Nat) (same : List Nat) :
    (s.spendCredit core k same).mem = s.mem := by
  simp [State.spendCredit]

@[simp] theorem State.issue_mem (s : State) (k : Nat) : (s.issue k).mem = s.mem := by simp [State.issue]

@[simp] theorem State.countWaiting_mem (s : State) (ks ready : List Nat) : (s.countWaiting ks ready).mem = s.mem := by
  simp [State.countWaiting]

@[simp] theorem State.select_mem (s : State) (core : Nat) : (s.select core).mem = s.mem := by
  unfold State.select
  dsimp only
  split <;> simp

theorem State.deliverTurn_mem (s : State) (core k : Nat) (t : State) (h : s.deliverTurn core k = some t) :
    t.mem = s.mem := by
  unfold State.deliverTurn at h
  dsimp only at h
  split at h
  · cases h
    exact State.foldl_mem _ _ s (fun _ _ => rfl)
  · cases h

@[simp] theorem State.freeze_mem (s : State) (core : Nat) : (s.freeze core).mem = s.mem :=
  State.foldl_mem _ _ _ (fun _ _ => rfl)

@[simp] theorem State.presentAllHeld_mem (s : State) (core : Nat) : (s.presentAllHeld core).mem = s.mem := by
  simp [State.presentAllHeld]

@[simp] theorem State.takeTurn_mem (s : State) (core : Nat) : (s.takeTurn core).mem = s.mem := by
  unfold State.takeTurn
  dsimp only
  split
  · simp
  · next t ht =>
    have h := State.deliverTurn_mem _ _ _ t ht
    repeat' split
    all_goals simp [h]

/-! ### Trap entry and return -/

@[simp] theorem State.reloadOperand_mem (s : State) (k : Nat) : (s.reloadOperand k).mem = s.mem := by
  simp [State.reloadOperand]

@[simp] theorem State.readyToIssue_mem (s : State) (k : Nat) : (s.readyToIssue k).mem = s.mem := by
  simp [State.readyToIssue]

@[simp] theorem State.leaveLaunch_mem (s : State) (launch k : Nat) (trapped : Bool) :
    (s.leaveLaunch launch k trapped).mem = s.mem := by
  simp [State.leaveLaunch]

@[simp] theorem State.settleCore_mem (s : State) (core : Nat) : (s.settleCore core).mem = s.mem := by
  simp [State.settleCore]

@[simp] theorem State.vacate_mem (s : State) (k : Nat) : (s.vacate k).mem = s.mem := rfl

@[simp] theorem State.forceEnd_mem (s : State) (id : Nat) : (s.forceEnd id).mem = s.mem := by
  unfold State.forceEnd
  split
  · rfl
  · dsimp only
    split
    · rw [State.post_mem]
      exact State.foldl_mem _ _ _ (fun _ _ => rfl)
    · exact State.foldl_mem _ _ _ (fun _ _ => rfl)

@[simp] theorem State.pokeRepair_mem (s : State) : s.pokeRepair.mem = s.mem := by simp [State.pokeRepair]

@[simp] theorem State.reportStop_mem (s : State) (k : Nat) : (s.reportStop k).mem = s.mem := by
  unfold State.reportStop
  split <;> rfl

@[simp] theorem State.offerDies_mem (s : State) (part : Nat) : (s.offerDies part).mem = s.mem := by
  simp [State.offerDies]

/-! ### Saving and restoring contexts -/

@[simp] theorem State.startSave_mem (s : State) (k : Nat) : (s.startSave k).mem = s.mem := by simp [State.startSave]
@[simp] theorem State.saveWritten_mem (s : State) (k uid status : Nat) : (s.saveWritten k uid status).mem = s.mem := rfl
@[simp] theorem State.leaveSaved_mem (s : State) (k : Nat) : (s.leaveSaved k).mem = s.mem := by simp [State.leaveSaved]

@[simp] theorem State.rewind_mem (s : State) (core : Nat) (det first : Bool) (src round : Nat) :
    (s.rewind core det first src round).mem = s.mem := by
  simp [State.rewind]

@[simp] theorem State.repairTrap_mem (s : State) (key : Nat) (pc : Word) (lvl : Nat) (more : Bool) :
    (s.repairTrap key pc lvl more).mem = s.mem := rfl

@[simp] theorem State.restoreView_mem (s : State) (core : Nat) (c : Context) : (s.restoreView core c).mem = s.mem := by
  unfold State.restoreView
  split <;> simp

@[simp] theorem State.startRestore_mem (s : State) (v : Saved) (key : Nat) (lvl fn : Option Nat) :
    (s.startRestore v key lvl fn).mem = s.mem := by
  simp [State.startRestore]

@[simp] theorem State.takeBack_mem (s : State) (v : Saved) (key : Nat) : (s.takeBack v key).mem = s.mem := rfl

@[simp] theorem State.restoreSaved_mem (s : State) (v : Saved) (key : Nat) (lvl : Option Nat) (a : List Byte) :
    (s.restoreSaved v key lvl a).mem = s.mem := by
  unfold State.restoreSaved
  split <;> simp

@[simp] theorem State.freeSlot_mem (s : State) (key : Nat) : (s.freeSlot key).mem = s.mem := by simp [State.freeSlot]

@[simp] theorem State.restoreRead_mem (s : State) (id key : Nat) (lvl fn : Option Nat) (status : Nat)
    (a : List Byte) : (s.restoreRead id key lvl fn status a).mem = s.mem := by
  unfold State.restoreRead
  repeat' split
  all_goals simp

/-! ### Launches -/

@[simp] theorem State.modLaunch_mem (s : State) (id : Nat) (f : Launch → Launch) : (s.modLaunch id f).mem = s.mem := rfl

@[simp] theorem State.withTimetable_mem (s : State) (i : Image) : (s.withTimetable i).mem = s.mem :=
  State.foldl_mem _ _ s (fun _ _ => rfl)

@[simp] theorem State.preload_mem (s : State) (core : Nat) (c : Context) (i : Image) :
    (s.preload core c i).mem = s.mem := State.foldl_mem _ _ _ (fun _ _ => rfl)

@[simp] theorem State.startCore_mem (s : State) (l : Launch) (i : Image) (core q at_ : Nat) :
    (s.startCore l i core q at_).mem = s.mem := by
  simp [State.startCore]

@[simp] theorem State.startCirculation_mem (s : State) (part : Nat) (i : Image) :
    (s.startCirculation part i).mem = s.mem := by
  unfold State.startCirculation
  exact (State.foldl_mem _ _ _ (by intros; rfl)).trans (State.foldl_mem _ _ s (by intros; rfl))

@[simp] theorem State.startBarriers_mem (s : State) (l : Launch) (keys : List Nat) :
    (s.startBarriers l keys).mem = s.mem := by
  simp [State.startBarriers]

@[simp] theorem State.startQueues_mem (s : State) (views : List Word) : (s.startQueues views).mem = s.mem :=
  State.foldl_mem _ _ s (fun _ _ => by simp)

@[simp] theorem State.endArrival_mem (s : State) (bar : Option Nat) : (s.endArrival bar).mem = s.mem := by
  unfold State.endArrival
  split <;> simp

@[simp] theorem State.completeLaunch_mem (s : State) (l : Launch) (status code : Nat) :
    (s.completeLaunch l status code).mem = s.mem := by
  simp [State.completeLaunch]

@[simp] theorem State.wordWritten_mem (s : State) (part status code trapped : Nat) (bar : Option Nat) (fault : Nat) :
    (s.wordWritten part status code trapped bar fault).mem = s.mem := by
  simp [State.wordWritten]

@[simp] theorem State.openEntries_mem (s : State) (part : Nat) : (s.openEntries part).mem = s.mem := by
  unfold State.openEntries
  split
  · rfl
  · dsimp only
    exact (State.foldl_mem _ _ _ (by intros; rfl)).trans (State.foldl_mem _ _ s (by intros; rfl))

@[simp] theorem State.readNext_mem (s : State) (l : Launch) : (s.readNext l).mem = s.mem := by
  unfold State.readNext
  split <;> simp

@[simp] theorem State.sectionRead_mem (s : State) (id status : Nat) (bs : List Byte) :
    (s.sectionRead id status bs).mem = s.mem := by
  unfold State.sectionRead
  split <;> simp

@[simp] theorem State.dropEntry_mem (s : State) (l : Launch) : (s.dropEntry l).mem = s.mem := by
  unfold State.dropEntry
  split <;> rfl

@[simp] theorem State.dropLaunch_mem (s : State) (l : Launch) : (s.dropLaunch l).mem = s.mem := by
  simp [State.dropLaunch]

@[simp] theorem State.offerDie_mem (s : State) (die : Nat) : (s.offerDie die).mem = s.mem := by simp [State.offerDie]

@[simp] theorem State.refuseLaunch_mem (s : State) (l : Launch) (code : Nat) : (s.refuseLaunch l code).mem = s.mem := by
  simp [State.refuseLaunch]

@[simp] theorem State.childWaits_mem (s : State) (l : Launch) (e : PoolEntry) : (s.childWaits l e).mem = s.mem := by
  simp [State.childWaits]

@[simp] theorem State.childAgain_mem (s : State) (l : Launch) : (s.childAgain l).mem = s.mem := by
  simp [State.childAgain]

@[simp] theorem State.startLaunch_mem (s : State) (l : Launch) : (s.startLaunch l).mem = s.mem := by
  simp [State.startLaunch]

@[simp] theorem State.submit_mem (s : State) (r : BitVec 512) : (s.submit r).1.mem = s.mem := by simp [State.submit]

/-! ### Repair -/

@[simp] theorem State.setDie_mem (s : State) (p : Nat) (st : UnitState) : (s.setDie p st).mem = s.mem := by
  simp [State.setDie]

@[simp] theorem State.setCoreState_mem (s : State) (p : Nat) (st : UnitState) : (s.setCoreState p st).mem = s.mem := by
  simp [State.setCoreState]

@[simp] theorem State.retirePhys_mem (s : State) (p : Nat) : (s.retirePhys p).mem = s.mem := by simp [State.retirePhys]

@[simp] theorem State.raiseRepair_mem (s : State) (part lvl : Nat) (merge : Bool) :
    (s.raiseRepair part lvl merge).mem = s.mem := by
  unfold State.raiseRepair
  dsimp only
  split <;> exact State.foldl_mem _ _ s (fun _ _ => rfl)

@[simp] theorem State.restoreMovers_mem (s : State) (part lvl : Nat) : (s.restoreMovers part lvl).mem = s.mem := by
  simp [State.restoreMovers]

@[simp] theorem State.returnMovers_mem (s : State) (part lvl : Nat) : (s.returnMovers part lvl).mem = s.mem := by
  simp [State.returnMovers]

@[simp] theorem State.endLive_mem (s : State) (which : Launch → Bool) : (s.endLive which).mem = s.mem := by
  simp [State.endLive]

@[simp] theorem State.retireDieNow_mem (s : State) (d : Nat) : (s.retireDieNow d).mem = s.mem := by
  simp [State.retireDieNow]

@[simp] theorem State.retireDie_mem (s : State) (d : Nat) : (s.retireDie d).mem = s.mem := by simp [State.retireDie]
@[simp] theorem State.dieEvent_mem (s : State) (d : Nat) : (s.dieEvent d).mem = s.mem := by simp [State.dieEvent]

@[simp] theorem State.moveCore_mem (s : State) (core p : Nat) : (s.moveCore core p).mem = s.mem := by
  simp [State.moveCore]

@[simp] theorem State.finishCore_mem (s : State) (core r : Nat) : (s.finishCore core r).mem = s.mem := by
  simp only [State.finishCore]
  split <;> simp

@[simp] theorem State.decideCore_mem (s : State) (core : Nat) : (s.decideCore core).mem = s.mem := by
  unfold State.decideCore
  repeat' split
  all_goals simp

@[simp] theorem State.finishTakeover_mem (s : State) (core : Nat) : (s.finishTakeover core).mem = s.mem := by
  unfold State.finishTakeover
  split <;> simp

@[simp] theorem State.takeover_mem (s : State) (core p : Nat) : (s.takeover core p).mem = s.mem := by
  simp [State.takeover]

@[simp] theorem State.moveDie_mem (s : State) (d : Nat) : (s.moveDie d).mem = s.mem := by
  unfold State.moveDie
  dsimp only
  rw [State.endLive_mem]
  refine State.foldl_mem _ _ s (fun _ _ => ?_)
  split <;> simp

@[simp] theorem State.anchorRestore_mem (s : State) (key : Nat) (c : Context) (a : Record) (det : Bool) :
    (s.anchorRestore key c a det).mem = s.mem := by
  simp [State.anchorRestore]

@[simp] theorem State.moveEntry_mem (s : State) (launch old new : Nat) : (s.moveEntry launch old new).mem = s.mem := rfl

@[simp] theorem State.restoreAnchors_mem (s : State) (part : Nat) : (s.restoreAnchors part).mem = s.mem := by
  unfold State.restoreAnchors
  dsimp only
  split
  · simp
  · refine (State.foldl_mem _ _ _ (fun _ _ => ?_)).trans (State.foldl_mem _ _ _ (fun _ _ => rfl))
    split <;> simp

@[simp] theorem State.finishDie_mem (s : State) (d : Nat) : (s.finishDie d).mem = s.mem := by simp [State.finishDie]

@[simp] theorem State.loseContext_mem (s : State) (k : Nat) : (s.loseContext k).mem = s.mem := by
  simp [State.loseContext]

@[simp] theorem State.flipZ_mem (s : State) (k z i j bit : Nat) : (s.flipZ k z i j bit).mem = s.mem := by
  simp [State.flipZ]

@[simp] theorem State.modPart_mem (s : State) (p : Nat) (f : Partition → Partition) : (s.modPart p f).mem = s.mem := rfl

@[simp] theorem State.writeCirculation_mem (s : State) (pc slot : Nat) (entry : BitVec 8) :
    (s.writeCirculation pc slot entry).mem = s.mem := by
  unfold State.writeCirculation
  dsimp only
  split
  · exact State.foldl_mem _ _ _ (fun _ _ => by simp)
  · rw [State.modPart_mem]
    exact State.foldl_mem _ _ _ (fun _ _ => by simp)

@[simp] theorem State.writeTimetable_mem (s : State) (link dir slot : Nat) (kind : BitVec 2) (al : Bool) (p : Nat) :
    (s.writeTimetable link dir slot kind al p).mem = s.mem := by
  simp [State.writeTimetable]

/-! ### The steward -/

@[simp] theorem State.flashDone_mem (s : State) : s.flashDone.mem = s.mem := by
  unfold State.flashDone
  split <;> rfl

@[simp] theorem State.markQuarantine_mem (s : State) (on : Bool) : (s.markQuarantine on).mem = s.mem := rfl
@[simp] theorem State.modBox_mem (s : State) (fn : Nat) (f : Mailbox → Mailbox) : (s.modBox fn f).mem = s.mem := rfl
@[simp] theorem State.serveLater_mem (s : State) : s.serveLater.mem = s.mem := by simp [State.serveLater]
@[simp] theorem State.mailEnd_mem (s : State) (fn res : Nat) : (s.mailEnd fn res).mem = s.mem := by simp [State.mailEnd]

@[simp] theorem State.fromHost_mem (s : State) (fn : Nat) (mail : Bool) (f : State → State) (h : (f s).mem = s.mem) :
    (s.fromHost fn mail f).mem = s.mem := by
  unfold State.fromHost
  split <;> simp [h]

@[simp] theorem State.serve_mem (s : State) : s.serve.mem = s.mem := by
  unfold State.serve
  split <;> simp

@[simp] theorem State.writeCmd_mem (s : State) (fn : Nat) (v : BitVec 64) : (s.writeCmd fn v).mem = s.mem := by
  simp [State.writeCmd]

@[simp] theorem State.measureLink_mem (s : State) (i : Nat) : (s.measureLink i).mem = s.mem := rfl

@[simp] theorem State.writeLink_mem (s : State) (i : Nat) (v : BitVec 64) : (s.writeLink i v).mem = s.mem := by
  simp [State.writeLink]

@[simp] theorem State.writeRoute_mem (s : State) (dst link : Nat) : (s.writeRoute dst link).mem = s.mem := by
  simp [State.writeRoute]

@[simp] theorem State.writeQueue_mem (s : State) (fn : Option Nat) (q word : Nat) (v : BitVec 64) :
    (s.writeQueue fn q word v).mem = s.mem := by
  unfold State.writeQueue
  repeat' split
  all_goals simp

@[simp] theorem State.writeReg_mem (s : State) (r : DevReg) (v : BitVec 64) : (s.writeReg r v).mem = s.mem := by
  cases r with
  | mailboxArg fn word => exact State.fromHost_mem _ _ _ _ rfl
  | _ =>
    unfold State.writeReg
    dsimp only
    repeat' split
    all_goals simp

@[simp] theorem State.tellStart_mem (s : State) (st : Starting) (res : Nat) : (s.tellStart st res).mem = s.mem := by
  unfold State.tellStart
  split <;> simp

@[simp] theorem State.dropStart_mem (s : State) : s.dropStart.mem = s.mem := by
  unfold State.dropStart
  split <;> simp

/-- A start clears HBM4. -/
@[simp] theorem State.fresh_mem (s : State) (warm : Bool) (fn : Option Nat) : (s.fresh warm fn).mem = [] := rfl

@[simp] theorem State.beginStart_mem (s : State) (warm : Bool) (fn : Option Nat) : (s.beginStart warm fn).mem = [] :=
  (State.serveLater_mem _).trans ((State.after_mem ..).trans ((State.drawn_mem _).trans
    ((State.after_mem ..).trans (State.fresh_mem ..))))

@[simp] theorem State.failStart_mem (s : State) (st : Starting) : (s.failStart st).mem = s.mem := by
  simp [State.failStart]

@[simp] theorem State.checkImage_mem (s : State) (st : Starting) : (s.checkImage st).1.mem = s.mem := by
  unfold State.checkImage
  dsimp only
  repeat' split
  all_goals simp

@[simp] theorem State.testSpare_mem (s : State) (n : Nat) : (s.testSpare n).mem = s.mem := by simp [State.testSpare]

@[simp] theorem State.loadFlash_mem (s : State) (st : Starting) : (s.loadFlash st).mem = s.mem := by
  simp [State.loadFlash]

@[simp] theorem State.trainLink_mem (s : State) (i : Nat) : (s.trainLink i).mem = s.mem := by simp [State.trainLink]

@[simp] theorem State.chooseUpstream_mem (s : State) : s.chooseUpstream.mem = s.mem := by
  unfold State.chooseUpstream
  split
  · simp
  · split <;> simp

@[simp] theorem State.trainLinks_mem (s : State) : s.trainLinks.mem = s.mem := by simp [State.trainLinks]
@[simp] theorem State.buildTiming_mem (s : State) : s.buildTiming.mem = s.mem := rfl

@[simp] theorem State.doStep_mem (s : State) (st : Starting) : (s.doStep st).1.mem = s.mem := by
  unfold State.doStep
  split <;> simp

@[simp] theorem State.succeed_mem (s : State) (st : Starting) : (s.succeed st).mem = s.mem := by simp [State.succeed]

@[simp] theorem State.startStep_mem (s : State) : s.startStep.mem = s.mem := by
  unfold State.startStep
  split <;> simp

@[simp] theorem State.requestPreempt_mem (s : State) (k : Nat) : (s.requestPreempt k).mem = s.mem := rfl

@[simp] theorem State.preemptClasses_mem (s : State) (p : Nat → Bool) : (s.preemptClasses p).mem = s.mem :=
  State.foldl_mem _ _ s (fun _ _ => by simp)

@[simp] theorem State.interrupt_mem (s : State) (k : Nat) (v : BitVec 16) : (s.interrupt k v).mem = s.mem := rfl

@[simp] theorem State.control_mem (s : State) (kind : DKind) (pc : Nat) : (s.control kind pc).mem = s.mem := by
  unfold State.control
  split <;> simp

@[simp] theorem State.sleepOne_mem (s : State) (ch : Nat) : (s.sleepOne ch).mem = s.mem := by simp [State.sleepOne]
@[simp] theorem State.sleepAll_mem (s : State) : s.sleepAll.mem = s.mem := by simp [State.sleepAll]

@[simp] theorem State.stewardEnd_mem (s : State) (id : Nat) : (s.stewardEnd id).mem = s.mem := by
  unfold State.stewardEnd
  split <;> simp

@[simp] theorem State.losePackets_mem (s : State) : s.losePackets.mem = s.mem := by
  unfold State.losePackets
  dsimp only
  exact (State.foldl_mem _ _ _ (by intros; rfl)).trans (State.foldl_mem _ _ s (by intros; rfl))

@[simp] theorem State.trip_mem (s : State) : s.trip.mem = s.mem := by simp [State.trip]

@[simp] theorem State.imageRead_mem (s : State) (fn status : Nat) (bs : List Byte) :
    (s.imageRead fn status bs).mem = s.mem := by
  simp [State.imageRead]

/-! ### The vector unit -/

@[simp] theorem vSlot_mem (s : State) (i : Instr) (q dst dst1 src src1 tsrc tsrc1 : Nat) (l : Reg) (p : Bool) :
    (vSlot s i q dst dst1 src src1 tsrc tsrc1 l p).mem = s.mem := by
  simp [vSlot]

@[simp] theorem vWithL_mem (s : State) (i : Instr) (q : BitVec 2) (vd vs : BitVec 6) (l : BitVec 5) :
    (vWithL s i q vd vs l).mem = s.mem := by
  simp [vWithL]

@[simp] theorem State.countQuarter_mem (s : State) (k : Nat) (v : VOp) : (s.countQuarter k v).mem = s.mem := by
  simp [State.countQuarter]

@[simp] theorem State.finishV_mem (s : State) (v : VOp) : (s.finishV v).mem = s.mem := by
  unfold State.finishV
  split <;> simp

@[simp] theorem State.quarter_mem (s : State) (k : Nat) : (s.quarter k).mem = s.mem := by
  unfold State.quarter
  split <;> simp

@[simp] theorem State.vStart_mem (s : State) (k : Nat) (v : VOp) : (s.vStart k v).mem = s.mem := by simp [State.vStart]

@[simp] theorem State.ldzRead_mem (s : State) (o : Origin) (vd z g : Nat) (active : List Bool) :
    (s.ldzRead o vd z g active).mem = s.mem := by
  simp [State.ldzRead]

@[simp] theorem State.shelfCells_mem (s : State) (k : Nat) (a : Access) (cells : List (Nat × Byte)) :
    (s.shelfCells k a cells).mem = s.mem := rfl

/-! ### The cycle -/

@[simp] theorem State.kick_mem (s : State) (id : Nat) : (s.kick id).mem = s.mem := by
  unfold State.kick
  split
  · simp
  · split <;> simp

@[simp] theorem State.answer_mem (s : State) (w : ReqOwner) (id : Nat) (bytes : List Byte) (bad : List Nat)
    (status : Nat) : (s.answer w id bytes bad status).mem = s.mem := by
  unfold State.answer
  split <;> simp

@[simp] theorem State.jobDone_mem (s : State) (j : Job) (status : Nat) (bytes : List Byte) :
    (s.jobDone j status bytes).mem = s.mem := by
  unfold State.jobDone
  split <;> simp

@[simp] theorem runMicro_mem (s : State) (m : Micro) : (runMicro s m).mem = s.mem := by
  unfold runMicro
  split <;> simp

@[simp] theorem State.advance_mem (s : State) : s.advance.mem = s.mem := rfl

end Sys2Proof.Machine
end

section
/-!
SUPPORT. Every instruction, every row and every step goes on and keeps the canonical form of HBM4.
-/

namespace Sys2Proof.Machine

/-! ### Rows that write HBM4 or clear it -/

theorem State.granuleWrite_wf (s : State) (dpa : Nat) (cells : List (Nat × Byte)) (poison : List Nat) (merge : Bool)
    (h : Memory.wf s.mem = true) : Memory.wf (s.granuleWrite dpa cells poison merge).mem = true := by
  unfold State.granuleWrite
  refine List.foldlRecOn (motive := fun t : State => Memory.wf t.mem = true) _ _ h (fun t ht k _ => ?_)
  dsimp only
  split
  · exact ht
  · rw [State.setColBad_mem]
    refine List.foldlRecOn (motive := fun t : State => Memory.wf t.mem = true) _ _ ?_
      (fun u hu e _ => swf_sset _ _ _ _ hu)
    split <;> simpa using ht

theorem State.granuleAct_wf (s : State) (dpa : Nat) (k : ReqKind) (h : Memory.wf s.mem = true) :
    Memory.wf (s.granuleAct dpa k).1.mem = true := by
  cases k with
  | read => simpa [State.granuleAct] using h
  | write bytes poison => exact State.granuleWrite_wf _ _ _ _ _ h
  | accumulate size ty adds poison => exact State.granuleWrite_wf _ _ _ _ _ h
  | atomic op off size ty v cmp =>
    simp only [State.granuleAct]
    split
    · exact State.granuleWrite_wf _ _ _ _ _ h
    · simpa using h

theorem State.requestArrival_wf (s : State) (pc id col : Nat) (h : Memory.wf s.mem = true) :
    Memory.wf (s.requestArrival pc id col).mem = true := by
  unfold State.requestArrival
  split
  · exact h
  · split
    · rw [State.post_mem]
      exact State.granuleAct_wf _ _ _ h
    · exact h

/-! ### Outcomes -/

/-- The outcome goes on, and leaves HBM4 as it is in `s`. -/
def KeepsMem (s : State) (o : Out) : Prop := ∃ t, o = .next t ∧ t.mem = s.mem

/-- The outcome goes on, and keeps the canonical form of HBM4. -/
def KeepsForm (s : State) (o : Out) : Prop := ∃ t, o = .next t ∧ (Memory.wf s.mem = true → Memory.wf t.mem = true)

theorem keepsMem_next {s t : State} (h : t.mem = s.mem) : KeepsMem s (.next t) := ⟨t, rfl, h⟩

theorem keepsForm_next {s t : State} (h : Memory.wf s.mem = true → Memory.wf t.mem = true) : KeepsForm s (.next t) :=
  ⟨t, rfl, h⟩

theorem KeepsMem.keepsForm {s : State} {o : Out} (h : KeepsMem s o) : KeepsForm s o := by
  obtain ⟨t, rfl, ht⟩ := h
  exact keepsForm_next (fun hs => by rwa [ht])

/-- What an outcome keeps from one state it keeps from any other with the same HBM4. -/
theorem KeepsForm.of_mem_eq {s t : State} {o : Out} (h : KeepsForm t o) (ht : t.mem = s.mem) : KeepsForm s o := by
  obtain ⟨u, rfl, hu⟩ := h
  exact keepsForm_next (by rwa [ht] at hu)

theorem keepsForm_of_cleared {s t : State} (h : t.mem = []) : KeepsForm s (.next t) :=
  keepsForm_next (fun _ => by rw [h]; rfl)

/-! ### The shared shapes of slots -/

theorem whenGuard_keepsMem {s : State} {g : Guard} {f : State → State} (h : (f s).mem = s.mem) :
    KeepsMem s (whenGuard s g f) := keepsMem_next (State.mem_ite_of h rfl)

theorem whenPriv_keepsMem {s : State} {f : State → Out} (h : KeepsMem s (f s)) : KeepsMem s (whenPriv s f) := by
  unfold whenPriv
  split
  · exact h
  · exact keepsMem_next (State.issueTrap_mem ..)

theorem whenGrant_keepsMem {s : State} {grant : Bool} {f : State → Out} (h : KeepsMem s (f s)) :
    KeepsMem s (whenGrant s grant f) := by
  unfold whenGrant
  split
  · exact h
  · exact keepsMem_next (State.issueTrap_mem ..)

theorem dramSlot_keepsMem {s : State} {f : State → Out} (h : KeepsMem s (f s)) : KeepsMem s (dramSlot s f) :=
  whenGrant_keepsMem h

theorem linkSlot_keepsMem {s : State} {g : Guard} {f : State → State} (h : (f s).mem = s.mem) :
    KeepsMem s (linkSlot s g f) := whenGrant_keepsMem (whenGuard_keepsMem h)

theorem arraySlot_keepsMem {s : State} {g : Guard} {f : State → State} (h : (f s).mem = s.mem) :
    KeepsMem s (arraySlot s g f) := whenGrant_keepsMem (whenGuard_keepsMem h)

theorem notInDelay_keepsMem {s : State} {f : State → State} (h : (f s).mem = s.mem) : KeepsMem s (notInDelay s f) :=
  keepsMem_next (State.mem_ite_of (State.issueTrap_mem ..) h)

theorem binary_keepsMem (s : State) (u : AB) (g : Guard) (d a b : BitVec 5) (n : Nat) (f : Reg → Reg → Reg) :
    KeepsMem s (binary s u g d a b n f) := whenGuard_keepsMem (State.land_mem ..)

theorem unary_keepsMem (s : State) (u : AB) (g : Guard) (d a : BitVec 5) (f : Reg → Reg) :
    KeepsMem s (unary s u g d a f) := whenGuard_keepsMem (State.land_mem ..)

theorem compare_keepsMem (s : State) (u : AB) (g : Guard) (pd : BitVec 4) (r : Context → Bool) :
    KeepsMem s (compare s u g pd r) := whenGuard_keepsMem (State.land_mem ..)

theorem vPlain_keepsMem (s : State) (i : Instr) (q : BitVec 2) (vd vs vt : BitVec 6) :
    KeepsMem s (vPlain s i q vd vs vt) := keepsMem_next (vSlot_mem ..)

theorem vToMask_keepsMem (s : State) (i : Instr) (q qd : BitVec 2) (vs vt : BitVec 6) (p : Bool) :
    KeepsMem s (vToMask s i q qd vs vt p) := keepsMem_next (vSlot_mem ..)

theorem loadSlot_keepsMem (s : State) (g : Guard) (regs : List Nat) (acc : Context → Access) (d : BitVec 5)
    (x spec : Bool) : KeepsMem s (loadSlot s g regs acc d x spec) :=
  whenGuard_keepsMem (by split <;> simp)

theorem storeSlot_keepsMem (s : State) (g : Guard) (regs : List Nat) (acc : Context → Access) (v : BitVec 5) :
    KeepsMem s (storeSlot s g regs acc v) :=
  whenGuard_keepsMem (by split <;> simp)

theorem shelfSlot_keepsMem (s : State) (g : Guard) (sh : BitVec 6) (t : Trans) : KeepsMem s (shelfSlot s g sh t) :=
  whenGuard_keepsMem (State.emit_mem ..)

theorem copySlotL_keepsMem (s : State) (g : Guard) (d : BitVec 5) (v : Context → Reg) :
    KeepsMem s (copySlotL s g d v) := whenGuard_keepsMem (State.land_mem ..)

theorem loadStation_keepsMem (s : State) (g : Guard) (l : BitVec 5) (gen tr : Bool) (off : BitVec 13) :
    KeepsMem s (loadStation s g l gen tr off) :=
  arraySlot_keepsMem (withInput_mem _ _ (orPoison_mem _ _ _ _ (State.emit_mem ..)))

theorem multiply_keepsMem (s : State) (g : Guard) (z : BitVec 4) (pin : Nat) (asrc : BitVec 2) (wide : Bool)
    (a : BitVec 5) (pq : BitVec 4) : KeepsMem s (multiply s g z pin asrc wide a pq) := by
  refine arraySlot_keepsMem (withInput_mem _ _ ?_)
  dsimp only
  split
  · simp
  · split
    · exact orPoison_mem _ _ _ _ (State.emit_mem ..)
    · exact State.emit_mem ..

theorem dramCommand_keepsMem (s : State) (g : Guard) (kind : DKind) (d : BitVec 4) (u : BitVec 2) (f : BitVec 5) :
    KeepsMem s (dramCommand s g kind d u f) := by
  refine dramSlot_keepsMem (whenGuard_keepsMem ?_)
  split <;> simp

theorem columnSlot_keepsMem {s : State} {g : Guard} {kind : DKind} {d : BitVec 4} {l : BitVec 5} {cnt : BitVec 6}
    {go : State → Reg → List DCmd → State} (h : ∀ t a ds, (go t a ds).mem = t.mem) :
    KeepsMem s (columnSlot s g kind d l cnt go) := by
  refine dramSlot_keepsMem (whenGuard_keepsMem ?_)
  split <;> simp [h]

/-! ### The shared shapes of rows -/

theorem State.loanRow_keepsMem {s : State} {go : State → Loan → State} (h : ∀ t l, (go t l).mem = t.mem) :
    KeepsMem s (s.loanRow go) := by
  refine keepsMem_next ?_
  split
  · rfl
  · exact State.loanStage_mem _ _ _ h

theorem State.hostArrive_keepsMem (s : State) (fn off size : Nat) (k : HostKind) :
    KeepsMem s (s.hostArrive fn off size k) := keepsMem_next (State.hostNext_mem ..)

theorem State.hostAtomic_keepsMem (s : State) (fn off size op atype v cmp : Nat) :
    KeepsMem s (s.hostAtomic fn off size op atype v cmp) := by
  unfold State.hostAtomic
  split
  · exact State.hostArrive_keepsMem ..
  · exact keepsMem_next (State.reply_mem ..)

theorem State.done_keepsMem {s t : State} (res : Nat) (h : t.mem = s.mem) : KeepsMem s (t.done res) :=
  keepsMem_next ((State.mailEnd_mem ..).trans h)

theorem State.doneWith_keepsMem {s t : State} (rs : List Reg) (h : t.mem = s.mem) : KeepsMem s (t.doneWith rs) :=
  State.done_keepsMem 0 h

theorem State.onContexts_keepsMem {s : State} {ks : List Nat} {f : State → State} (h : (f s).mem = s.mem) :
    KeepsMem s (s.onContexts ks f) := by
  unfold State.onContexts
  split
  · exact State.done_keepsMem 4 rfl
  · split
    · exact State.done_keepsMem 2 rfl
    · exact State.done_keepsMem 0 h

/-! ### Link slots -/

theorem execNSend_keepsMem (g : Guard) (lq : BitVec 4) (l : BitVec 5) (off : BitVec 10) (s : State) :
    KeepsMem s (execNSend g lq l off s) :=
  linkSlot_keepsMem (withTx_mem _ _ _ fun _ => withDeparture_mem _ _ _ _ _ fun _ => orPoisoned_mem _ _ _ _
    ((State.emit_mem ..).trans (State.holdDeparture_mem ..)))

theorem execNRecv_keepsMem (g : Guard) (lq : BitVec 4) (l : BitVec 5) (off : BitVec 10) (s : State) :
    KeepsMem s (execNRecv g lq l off s) :=
  linkSlot_keepsMem (withRx_mem _ _ _ fun _ => orPoisoned_mem _ _ _ _ (State.emit_mem ..))

theorem execNFwd_keepsMem (g : Guard) (m lq : BitVec 4) (s : State) : KeepsMem s (execNFwd g m lq s) :=
  linkSlot_keepsMem (withRx_mem _ _ _ fun _ => withTx_mem _ _ _ fun _ => withDeparture_mem _ _ _ _ _ fun _ =>
    (State.emit_mem ..).trans (State.holdDeparture_mem ..))

theorem execNRed_keepsMem (g : Guard) (m lq : BitVec 4) (l : BitVec 5) (ty : Bool) (s : State) :
    KeepsMem s (execNRed g m lq l ty s) := by
  refine linkSlot_keepsMem (withRx_mem _ _ _ fun _ => withTx_mem _ _ _ fun _ => ?_)
  split
  · exact State.refuse7_mem ..
  · split
    · exact State.refuse7_mem ..
    · exact withDeparture_mem _ _ _ _ _ fun _ => orPoisoned_mem _ _ _ _
        ((State.emit_mem ..).trans (State.holdDeparture_mem ..))

/-! ### Drain slots and the rows of the array -/

theorem execMDrain_keepsMem (g : Guard) (z : BitVec 4) (l : BitVec 5) (e : BitVec 4) (wide pub : Bool) (s : State) :
    KeepsMem s (execMDrain g z l e wide pub s) :=
  arraySlot_keepsMem (withDrainPath_mem _ _ (withTag_mem _ _ _ _ (orPoison_mem _ _ _ _ (State.emitDrain_mem ..))))

theorem execMChk_keepsMem (g : Guard) (z e : BitVec 4) (wide : Bool) (s : State) :
    KeepsMem s (execMChk g z e wide s) :=
  arraySlot_keepsMem (withDrainPath_mem _ _ (withTag_mem _ _ _ _ (State.emitDrain_mem ..)))

theorem execArrayRowUpdate_keepsMem (o : Origin) (i : Nat) (s : State) : KeepsMem s (execArrayRowUpdate o i s) := by
  refine keepsMem_next ?_
  split
  · rfl
  · dsimp only
    split <;> simp

theorem execDrainVerdict_keepsMem (o : Origin) (s : State) : KeepsMem s (execDrainVerdict o s) := by
  refine keepsMem_next ?_
  dsimp only
  repeat' split
  all_goals simp

theorem execElementRecompute_keepsMem (o : Origin) (s : State) : KeepsMem s (execElementRecompute o s) := by
  refine keepsMem_next ?_
  dsimp only
  repeat' split
  all_goals simp

theorem execDrainRowWrite_keepsMem (o : Origin) (i : Nat) (s : State) : KeepsMem s (execDrainRowWrite o i s) := by
  refine keepsMem_next ?_
  split
  · rfl
  · dsimp only
    split
    · simp
    · split
      · simp
      · split
        · simp [State.shelfStore_mem]
        · split
          · simp [State.shelfStore_mem]
          · rw [State.drainFlit_mem _ _ _ _ _ _ fun t => State.drainNext_mem ..]
            simp [State.shelfStore_mem]

theorem execDrainComplete_keepsMem (o : Origin) (s : State) : KeepsMem s (execDrainComplete o s) := by
  refine keepsMem_next ?_
  dsimp only
  repeat' split
  all_goals simp [State.shelfStore_mem]

/-! ### Accesses to the scratchpad -/

theorem execScalarStorePerform_keepsMem (o : Origin) (acc : Access) (v : Reg) (s : State) :
    KeepsMem s (execScalarStorePerform o acc v s) := by
  refine keepsMem_next ?_
  split <;> simp [State.shelfStore_mem]

theorem execRecvShelfWrite_keepsMem (o : Origin) (acc : Access) (data : BitVec 512) (s : State) :
    KeepsMem s (execRecvShelfWrite o acc data s) := by
  refine keepsMem_next ?_
  split <;> simp [State.shelfStore_mem]

theorem execReadBurstLanding_keepsMem (o : Origin) (j : Nat) (b : Burst) (data : BitVec 256) (poison : Bool)
    (s : State) : KeepsMem s (execReadBurstLanding o j b data poison s) := by
  refine keepsMem_next ?_
  split <;> simp [State.shelfStore_mem]

theorem execVectorLoadSample_keepsMem (o : Origin) (l : VLoad) (s : State) :
    KeepsMem s (execVectorLoadSample o l s) := by
  refine keepsMem_next ((State.touch_mem ..).trans ?_)
  split
  · exact (State.after_mem ..).trans (State.readCheck_mem ..)
  · split
    · exact (State.after_mem ..).trans ((State.after_mem ..).trans (State.readCheck_mem ..))
    · exact (State.fault_mem ..).trans (State.readCheck_mem ..)

theorem execWriteBurstSample_keepsMem (o : Origin) (j : Nat) (b : Burst) (s : State) :
    KeepsMem s (execWriteBurstSample o j b s) := by
  refine keepsMem_next ?_
  dsimp only
  repeat' split
  all_goals simp

/-! ### Column slots -/

theorem execDRd_keepsMem (g : Guard) (d : BitVec 4) (l : BitVec 5) (cnt : BitVec 6) (last : Bool) (s : State) :
    KeepsMem s (execDRd g d l cnt last s) :=
  columnSlot_keepsMem fun t _ _ => State.foldl_mem _ _ t fun _ _ => State.emit_mem ..

theorem execDWr_keepsMem (g : Guard) (d : BitVec 4) (l : BitVec 5) (cnt : BitVec 6) (rel : Bool) (s : State) :
    KeepsMem s (execDWr g d l cnt rel s) :=
  columnSlot_keepsMem fun t _ _ => State.foldl_mem _ _ t fun _ _ => State.emit_mem ..

/-! ### Vector slots with a condition of their own -/

theorem execVQuant_keepsMem (vd vs : BitVec 6) (mode : BitVec 2) (target : BitVec 4) (s : State) :
    KeepsMem s (execVQuant vd vs mode target s) := by
  unfold execVQuant
  split
  · exact keepsMem_next (State.refuse7_mem ..)
  · exact vPlain_keepsMem ..

theorem execVLdt_keepsMem (t : ElemType) (q : BitVec 2) (vd : BitVec 6) (l : BitVec 5) (off : BitVec 6) (s : State) :
    KeepsMem s (execVLdt t q vd l off s) := by
  unfold execVLdt
  split
  · exact keepsMem_next (State.refuse7_mem ..)
  · exact keepsMem_next (vWithL_mem ..)

/-! ### The device's clocks and sensors -/

theorem execRefreshRateChange_keepsMem (double : Bool) (s : State) : KeepsMem s (execRefreshRateChange double s) :=
  keepsMem_next (State.foldl_mem _ _ _ (by intros; rfl))

theorem execTemperatureSample_keepsMem (die millidegrees : Nat) (s : State) :
    KeepsMem s (execTemperatureSample die millidegrees s) :=
  keepsMem_next ((State.mem_ite_of (State.trip_mem ..) rfl).trans
    ((State.mem_ite_of (State.preemptClasses_mem ..) rfl).trans
      (State.mem_ite_of (State.foldl_mem _ _ _ fun _ _ => State.interrupt_mem ..) rfl)))

/-! ### Steward commands -/

theorem execLaunch_keepsMem (s : State) : KeepsMem s (execLaunch s) := by
  unfold execLaunch
  dsimp only
  split
  · exact State.done_keepsMem _ rfl
  · split
    · exact State.done_keepsMem _ rfl
    · exact State.doneWith_keepsMem _ (State.submit_mem ..)

theorem execEndLaunch_keepsMem (s : State) : KeepsMem s (execEndLaunch s) := by
  unfold execEndLaunch
  split
  · exact State.done_keepsMem _ rfl
  · split
    · exact State.done_keepsMem _ rfl
    · exact State.done_keepsMem _ (State.stewardEnd_mem ..)

theorem execPreEmpt_keepsMem (s : State) : KeepsMem s (execPreEmpt s) :=
  State.onContexts_keepsMem (f := fun s => List.foldl State.requestPreempt s _)
    (State.foldl_mem _ _ s State.requestPreempt_mem)

theorem execHostInterrupt_keepsMem (s : State) : KeepsMem s (execHostInterrupt s) :=
  State.onContexts_keepsMem (f := fun s => s.interrupt _ _) (State.interrupt_mem ..)

theorem execRestore_keepsMem (s : State) : KeepsMem s (execRestore s) := by
  unfold execRestore
  split
  · exact State.done_keepsMem _ rfl
  · dsimp only
    split
    · exact State.done_keepsMem _ rfl
    · split
      · exact State.done_keepsMem _ rfl
      · exact keepsMem_next (State.startRestore_mem ..)

theorem execInvalidate_keepsMem (s : State) : KeepsMem s (execInvalidate s) := by
  unfold execInvalidate
  dsimp only
  split
  · exact State.done_keepsMem _ rfl
  · exact keepsMem_next (State.invalidate_mem ..)

theorem execBreakpoints_keepsMem (s : State) : KeepsMem s (execBreakpoints s) := by
  unfold execBreakpoints
  dsimp only
  split
  · exact State.done_keepsMem _ rfl
  · exact State.onContexts_keepsMem (State.modCtx_mem ..)

theorem execWindowFigures_keepsMem (s : State) : KeepsMem s (execWindowFigures s) := by
  unfold execWindowFigures
  dsimp only
  split
  · exact State.done_keepsMem _ rfl
  · split
    · exact State.done_keepsMem _ rfl
    · exact State.done_keepsMem _ rfl

theorem execFunctionBinding_keepsMem (s : State) : KeepsMem s (execFunctionBinding s) := by
  unfold execFunctionBinding
  dsimp only
  split
  · exact State.done_keepsMem _ rfl
  · exact State.done_keepsMem _ rfl

theorem execAttestation_keepsMem (s : State) : KeepsMem s (execAttestation s) := by
  unfold execAttestation
  dsimp only
  split
  · exact State.done_keepsMem _ rfl
  · exact keepsMem_next (State.startJob_mem ..)

theorem execImageWrite_keepsMem (s : State) : KeepsMem s (execImageWrite s) := by
  unfold execImageWrite
  dsimp only
  split
  · exact State.done_keepsMem _ rfl
  · exact keepsMem_next (State.startJob_mem ..)

/-! ### Starts, and the commands of the memory controllers -/

theorem State.commandStart_keepsForm (s : State) (warm : Bool) : KeepsForm s (s.commandStart warm) :=
  keepsForm_of_cleared (State.beginStart_mem ..)

theorem execPcieHotReset_keepsForm (s : State) : KeepsForm s (execPcieHotReset s) := by
  unfold execPcieHotReset
  split
  · exact keepsForm_next id
  · exact keepsForm_of_cleared (State.beginStart_mem ..)

theorem execRestartAfterFailure_keepsForm (s : State) : KeepsForm s (execRestartAfterFailure s) := by
  unfold execRestartAfterFailure
  split
  · exact keepsForm_next id
  · dsimp only
    split
    · exact keepsForm_next id
    · split
      · exact keepsForm_of_cleared (State.beginStart_mem ..)
      · split
        · exact (keepsMem_next (State.markQuarantine_mem ..)).keepsForm
        · exact keepsForm_of_cleared (State.beginStart_mem ..)

theorem execWarmStart_keepsForm (s : State) : KeepsForm s (execWarmStart s) := by
  unfold execWarmStart
  split
  · exact (State.done_keepsMem 3 rfl).keepsForm
  · exact State.commandStart_keepsForm ..

theorem execClearQuarantine_keepsForm (s : State) : KeepsForm s (execClearQuarantine s) :=
  (State.commandStart_keepsForm ..).of_mem_eq (State.markQuarantine_mem ..)

/-- A command writes HBM4 where it brings a burst or a request's data, and the write keeps the form. -/
theorem execCommandArrival_keepsForm (c : DCmd) (s : State) : KeepsForm s (execCommandArrival c s) := by
  refine keepsForm_next (fun h => ?_)
  have hs : Memory.wf (if c.kind = .reserve then s else (pcsOf c).foldl State.activity s).mem = true := by
    rwa [State.mem_ite_of rfl (State.foldl_mem _ _ s State.activity_mem)]
  dsimp only
  generalize (if c.kind = .reserve then s else (pcsOf c).foldl State.activity s) = u at hs ⊢
  split
  · simpa using hs
  · split
    · exact hs
    · exact Memory.wf_memWrite _ _ _ hs
  · exact State.requestArrival_wf _ _ _ _ hs
  · exact State.requestArrival_wf _ _ _ _ hs
  · exact hs
  · exact hs
  · exact hs
  · exact hs
  · rw [State.foldl_mem _ _ u (by intros; rfl)]
    exact hs
  · exact hs
  · exact hs

/-! ### Every instruction and every row -/

/-- The rows that write HBM4, and those that start the device and so clear it. -/
def writesMem : Instr → Bool
  | .commandArrival _ | .powerOn | .powerLoss | .pcieHotReset | .restartAfterFailure | .warmStart | .coldStart
  | .clearQuarantine => true
  | _ => false

/-- Every slot form and every other row goes on and leaves HBM4 as it is. -/
theorem exec_keepsMem (i : Instr) (s : State) (h : writesMem i = false) : KeepsMem s (exec i s) := by
  unfold exec
  cases i with
  | commandArrival | powerOn | powerLoss | pcieHotReset | restartAfterFailure | warmStart | coldStart
  | clearQuarantine => cases h
  -- no operation
  | nop | kNop | vNop | lNop | mNop | nNop | dNop => exact keepsMem_next rfl
  -- the scalar units
  | add | sub | and | or | xor | andn | min | max | minn | maxn | shl | shr | sar | rol | bfx | bfxs | bfi | mul
  | mulh | mulhn | sel => exact binary_keepsMem ..
  | popc | clz | brev | addImm | andImm | orImm | xorImm | shlImm | shrImm | sarImm | rolImm => exact unary_keepsMem ..
  | eq | ne | lt | ltn | le | len | pand | por | pxor | pandn | eqImm | neImm | ltImm | ltnImm | leImm
  | lenImm => exact compare_keepsMem ..
  | li | lui => exact keepsMem_next (State.land_mem ..)
  | getOther | getN | getD => exact whenGuard_keepsMem (State.land_mem ..)
  | getL => exact whenGuard_keepsMem (by simp)
  | rsr => exact keepsMem_next (by simp)
  -- control flow
  | kTrap => exact keepsMem_next (State.issueTrap_mem ..)
  | kBr | kJr | kRet => exact whenGuard_keepsMem (State.goTo_mem ..)
  | kCall => exact whenGuard_keepsMem ((State.goTo_mem ..).trans (State.land_mem ..))
  | kLoop | kLoopReg | kRot | kRotReg => exact keepsMem_next (startLoop_mem ..)
  | kBrk =>
    refine whenGuard_keepsMem ?_
    split <;> simp
  | kSpawn => exact whenGuard_keepsMem (State.emit_mem ..)
  | kArrive | kChk | kMsr => exact keepsMem_next (by simp)
  | kQuiet | kHold | kBwait => exact notInDelay_keepsMem (by simp)
  | kWait =>
    refine notInDelay_keepsMem ?_
    repeat' split
    all_goals simp
  | kYield =>
    refine notInDelay_keepsMem ?_
    dsimp only
    repeat' split
    all_goals simp
  | kRti | kHalt => exact whenPriv_keepsMem (keepsMem_next rfl)
  | kMrs | kInval | kInvalAll | kMode => exact whenPriv_keepsMem (keepsMem_next (by simp))
  -- the vector unit
  | vAdd | vSub | vMul | vFma | vMin | vMax | vAbs | vNeg | vNot | vExp2 | vRcp | vRsqrt | vAnd | vOr | vXor | vAndn
  | vShl | vShr | vSar | vSel | vCvt | vCvtSr | vScan | vRed | vPerm | vBcast | vLdz => exact vPlain_keepsMem ..
  | vQp | vEq | vNe | vLt | vLe => exact vToMask_keepsMem ..
  | vHash | vWiden | vNarrow => exact keepsMem_next (vSlot_mem ..)
  | vGet | vLd | vLdS | vSt => exact keepsMem_next (vWithL_mem ..)
  | vQuant => exact execVQuant_keepsMem ..
  | vLdt => exact execVLdt_keepsMem ..
  -- the scratchpad unit
  | lLd | lLdx | lLdS => exact loadSlot_keepsMem ..
  | lSt | lStx => exact storeSlot_keepsMem ..
  | lAdd | lAddImm | lAddImm64 => exact whenGuard_keepsMem (State.land_mem ..)
  | lClaim | lPub | lDrain | lRel | lRelB => exact shelfSlot_keepsMem ..
  | lClaimDecl => exact whenPriv_keepsMem (whenGuard_keepsMem (by simp))
  | lSst => exact whenGuard_keepsMem (State.emit_mem ..)
  | lGetA | lGetB | lGetN | lGetD => exact copySlotL_keepsMem ..
  -- the array
  | mFmt | mZero => exact arraySlot_keepsMem (State.emit_mem ..)
  | mLdb | mLdbt => exact loadStation_keepsMem ..
  | mMulSet | mMulAcc | mMulPch | mMulPq => exact multiply_keepsMem ..
  | mDrain => exact execMDrain_keepsMem ..
  | mChk => exact execMChk_keepsMem ..
  | mDrainQueue | mChain | mTol => exact arraySlot_keepsMem (by simp)
  -- the network unit
  | nSend => exact execNSend_keepsMem ..
  | nRecv => exact execNRecv_keepsMem ..
  | nFwd => exact execNFwd_keepsMem ..
  | nRed => exact execNRed_keepsMem ..
  | nBsend => exact linkSlot_keepsMem (withLatch_mem _ _ _ fun _ => State.emit_mem ..)
  | nBlatch => exact linkSlot_keepsMem (withLatch_mem _ _ _ fun _ => State.land_mem ..)
  | nQfmt | nQsl => exact linkSlot_keepsMem (by simp)
  | nLoan => exact whenGuard_keepsMem (orPoisoned_mem _ _ _ _ (State.emit_mem ..))
  | nFence => exact whenGuard_keepsMem (State.emit_mem ..)
  | nGetA | nGetB | nGetD => exact whenGuard_keepsMem (State.land_mem ..)
  | nGetL => exact whenGuard_keepsMem (orPoisoned_mem _ _ _ _ (State.land_mem ..))
  -- the DRAM unit
  | dNopReserve | dGet | dIncRow | dIncBank => exact dramSlot_keepsMem (keepsMem_next (by simp))
  | dAct | dPre | dPrea | dRef | dRefpb | dSre | dSrx | dPde | dPdx => exact dramCommand_keepsMem ..
  | dRd => exact execDRd_keepsMem ..
  | dWr => exact execDWr_keepsMem ..
  | dMrs | dWin =>
    refine whenPriv_keepsMem (dramSlot_keepsMem (whenGuard_keepsMem ?_))
    repeat' split
    all_goals simp
  -- rows of the cores
  | quietBoundExpiry => exact keepsMem_next (State.raiseTrap_mem ..)
  | bayLatchWrite => exact keepsMem_next (State.touch_mem ..)
  | retimingRelease | resultLanding | shelfTransitionApply | trapEntry | resumptionFromRecord
  | contextEnd => exact keepsMem_next (by simp)
  | issueSelection | scalarLoadSample | vectorStorePerform | stationaryLoadComplete | drainRowRead | contextSave =>
    refine keepsMem_next ?_
    split <;> simp
  | vectorLoadSample => exact execVectorLoadSample_keepsMem ..
  | scalarStorePerform => exact execScalarStorePerform_keepsMem ..
  | arrayRowUpdate => exact execArrayRowUpdate_keepsMem ..
  | drainVerdict => exact execDrainVerdict_keepsMem ..
  | elementRecompute => exact execElementRecompute_keepsMem ..
  | drainRowWrite => exact execDrainRowWrite_keepsMem ..
  | drainComplete => exact execDrainComplete_keepsMem ..
  | readBurstLanding => exact execReadBurstLanding_keepsMem ..
  | writeBurstSample => exact execWriteBurstSample_keepsMem ..
  | recvShelfWrite => exact execRecvShelfWrite_keepsMem ..
  -- rows of the links
  | countStep => exact keepsMem_next rfl
  | flitDeparture | linkDown | receiveOrderPass | spanMarkerSend => exact keepsMem_next (by simp)
  | passThrough =>
    refine keepsMem_next ?_
    split <;> simp
  | flitArrival | spanMarkerReceive =>
    refine keepsMem_next ?_
    dsimp only
    repeat' split
    all_goals simp
  -- rows of the memory controllers
  | refreshDebtGain | selfRefreshTimer => exact keepsMem_next (by simp)
  | openSlotIssue =>
    refine keepsMem_next ?_
    repeat' split
    all_goals simp
  | refreshRateChange => exact execRefreshRateChange_keepsMem ..
  -- rows of loans and packets
  | loanCopy | loanGather | loanScatter | loanScatterAccumulate | loanFill | loanDeposit | atomicAdd | atomicMin
  | atomicMax | atomicAnd | atomicOr | atomicXor | atomicSwap | atomicCas | remotePublish | remoteBarrierArrive
  | ownershipTokenAcquire | ownershipTokenRelease => exact State.loanRow_keepsMem (by simp)
  | loanCompletion | homeRequest | packetResponse | endToEndTimerExpiry =>
    refine keepsMem_next ?_
    split <;> simp
  | replay | loanDelivery | invalidationComplete | packetRoute =>
    refine keepsMem_next ?_
    repeat' split
    all_goals simp
  -- rows of launches
  | saveDeadlineExpiry => exact keepsMem_next (by simp)
  | launchStart | launchEnd =>
    refine keepsMem_next ?_
    split <;> simp
  | launchCheck | childPlacement =>
    refine keepsMem_next ?_
    repeat' split
    all_goals simp
  -- rows of the host
  | hostMemoryRead | hostMemoryWrite => exact State.hostArrive_keepsMem ..
  | hostFetchadd | hostSwap | hostCas => exact State.hostAtomic_keepsMem ..
  | queueDoorbell | queuePoll => exact keepsMem_next (by simp)
  | statusOverrunClear => exact keepsMem_next (State.fromHost_mem _ _ _ _ rfl)
  | registerWrite =>
    refine keepsMem_next ?_
    repeat' split
    all_goals simp
  -- rows of the steward
  | coolantFlowLost => exact keepsMem_next (by simp)
  | spareDieTakeover | softError | startTimeout | startLogClear =>
    refine keepsMem_next ?_
    split <;> simp
  | powerSample | dieStatusPoll | reserveCoreTakeover | partitionTableWrite =>
    refine keepsMem_next ?_
    repeat' split
    all_goals simp
  | temperatureSample => exact execTemperatureSample_keepsMem ..
  | status | telemetry => exact State.doneWith_keepsMem _ rfl
  | launch => exact execLaunch_keepsMem s
  | endLaunch => exact execEndLaunch_keepsMem s
  | preEmpt => exact execPreEmpt_keepsMem s
  | restore => exact execRestore_keepsMem s
  | invalidate => exact execInvalidate_keepsMem s
  | breakpoints => exact execBreakpoints_keepsMem s
  | hostInterrupt => exact execHostInterrupt_keepsMem s
  | windowFigures => exact execWindowFigures_keepsMem s
  | functionBinding => exact execFunctionBinding_keepsMem s
  | attestation => exact execAttestation_keepsMem s
  | imageWrite => exact execImageWrite_keepsMem s

/-- Every instruction and every row goes on, and keeps the canonical form of HBM4. -/
theorem exec_keepsForm (i : Instr) (s : State) : KeepsForm s (exec i s) := by
  cases h : writesMem i with
  | false => exact (exec_keepsMem i s h).keepsForm
  | true =>
    cases i with
    | commandArrival c => exact execCommandArrival_keepsForm c s
    | powerOn => exact keepsForm_of_cleared (State.beginStart_mem ..)
    | powerLoss => exact keepsForm_of_cleared rfl
    | pcieHotReset => exact execPcieHotReset_keepsForm s
    | restartAfterFailure => exact execRestartAfterFailure_keepsForm s
    | warmStart => exact execWarmStart_keepsForm s
    | coldStart => exact State.commandStart_keepsForm s false
    | clearQuarantine => exact execClearQuarantine_keepsForm s
    | _ => cases h

/-! ### Every step -/

theorem State.runSlot_keepsForm (s : State) : KeepsForm s s.runSlot := by
  unfold State.runSlot
  dsimp only
  split
  · next i _ => exact (exec_keepsForm i { s with cur := { s.cur with idx := s.cur.idx + 1 } }).of_mem_eq rfl
  · refine (keepsMem_next ?_).keepsForm
    exact State.illegal_mem ..

theorem State.runEvent_keepsForm (s : State) (e : Event) : KeepsForm s (s.runEvent e) := by
  cases e with
  | op i => exact exec_keepsForm i s
  | micro m => exact (keepsMem_next (runMicro_mem s m)).keepsForm

/-- Every step goes on, and keeps the canonical form of HBM4. -/
theorem step_keepsForm (s : State) : KeepsForm s (step s) := by
  unfold step
  split
  · split
    · exact State.runSlot_keepsForm s
    · exact (keepsMem_next (State.commitBundle_mem s)).keepsForm
  · split
    · next d r _ => exact (State.runEvent_keepsForm { s with todo := r } d.ev).of_mem_eq rfl
    · exact (keepsMem_next (State.advance_mem s)).keepsForm

end Sys2Proof.Machine
end

section
/-!
SUPPORT. The work of a cycle: what joins it, what the next cycle brings, and what the commit of a bundle moves.
-/

namespace Sys2Proof.Machine

/-! ### Work that waits -/

theorem mem_insertDue (l : List Due) (d x : Due) : x ∈ insertDue l d ↔ x = d ∨ x ∈ l := by
  induction l with
  | nil => simp [insertDue]
  | cons e r ih =>
    unfold insertDue
    split
    · simp
    · simp [ih, or_left_comm]

theorem State.mem_post_todo (s : State) (d x : Due) : x ∈ (s.post d).todo ↔ x ∈ s.todo ∨ x = d ∧ x.at_ ≤ s.now := by
  unfold State.post
  split
  · next h =>
    rw [mem_insertDue, or_comm]
    exact or_congr_right ⟨fun e => ⟨e, e ▸ h⟩, And.left⟩
  · next h => exact ⟨.inl, fun hx => hx.resolve_right fun ⟨e, hd⟩ => h (e ▸ hd)⟩

theorem State.mem_post_agenda (s : State) (d x : Due) :
    x ∈ (s.post d).agenda ↔ x ∈ s.agenda ∨ x = d ∧ ¬ x.at_ ≤ s.now := by
  unfold State.post
  split
  · next h => exact ⟨.inl, fun hx => hx.resolve_right fun ⟨e, hd⟩ => hd (e ▸ h)⟩
  · next h =>
    rw [List.mem_append, List.mem_singleton]
    exact or_congr_right ⟨fun e => ⟨e, e ▸ h⟩, And.left⟩

theorem State.postAll_cons (s : State) (d : Due) (l : List Due) : s.postAll (d :: l) = (s.post d).postAll l := rfl

theorem State.mem_postAll_todo (s : State) (l : List Due) (x : Due) :
    x ∈ (s.postAll l).todo ↔ x ∈ s.todo ∨ x ∈ l ∧ x.at_ ≤ s.now := by
  induction l generalizing s with
  | nil => simp [State.postAll]
  | cons d r ih =>
    rw [State.postAll_cons, ih, State.mem_post_todo, State.post_now, List.mem_cons, or_and_right, or_assoc]

theorem State.mem_postAll_agenda (s : State) (l : List Due) (x : Due) :
    x ∈ (s.postAll l).agenda ↔ x ∈ s.agenda ∨ x ∈ l ∧ ¬ x.at_ ≤ s.now := by
  induction l generalizing s with
  | nil => simp [State.postAll]
  | cons d r ih =>
    rw [State.postAll_cons, ih, State.mem_post_agenda, State.post_now, List.mem_cons, or_and_right, or_assoc]

/-! ### The work of a cycle -/

theorem mem_insertOrdered (d x : Due) (l : List Due) : x ∈ insertOrdered d l ↔ x = d ∨ x ∈ l := by
  induction l with
  | nil => simp [insertOrdered]
  | cons e r ih =>
    unfold insertOrdered
    split
    · simp
    · simp [ih, or_left_comm]

theorem mem_ordered (l : List Due) (x : Due) : x ∈ ordered l ↔ x ∈ l := by
  have h : ∀ acc, x ∈ l.foldl (fun acc d => insertOrdered d acc) acc ↔ x ∈ acc ∨ x ∈ l := by
    induction l with
    | nil => simp
    | cons d r ih =>
      intro acc
      rw [List.foldl_cons, ih, mem_insertOrdered, List.mem_cons, or_assoc, or_left_comm]
  simpa [ordered] using h []

theorem mem_byRank (l : List Due) (x : Due) : x ∈ byRank l ↔ x ∈ l ∧ x.rank ∈ allRanks := by
  have hg : ∀ r, x ∈ (if rankLand ≤ r ∧ r < rankResolve then ordered (l.filter (fun d => d.rank == r))
      else l.filter (fun d => d.rank == r)) ↔ x ∈ l ∧ x.rank = r := by
    intro r
    split <;> simp [mem_ordered]
  simp only [byRank, List.mem_flatMap, hg]
  constructor
  · rintro ⟨r, hr, hx, rfl⟩
    exact ⟨hx, hr⟩
  · rintro ⟨hx, hr⟩
    exact ⟨x.rank, hr, hx, rfl⟩

theorem State.mem_advance_agenda (s : State) (d : Due) : d ∈ s.advance.agenda ↔ d ∈ s.agenda ∧ s.now + 1 < d.at_ := by
  simp [State.advance]

/-- What is due by the next cycle is work of that cycle. -/
theorem State.mem_advance_todo (s : State) (d : Due) (hd : d ∈ s.agenda) (hr : d.rank ∈ allRanks)
    (ht : d.at_ ≤ s.now + 1) : d ∈ s.advance.todo := by
  refine (mem_byRank _ d).2 ⟨?_, hr⟩
  simp [hd, ht]

/-! ### The commit of a bundle -/

/-- `t` has the clock, the cores, the agenda, the work and the contexts of `s`, but for the context `k` and for work
that has joined. -/
structure SameBut (k : Nat) (s t : State) : Prop where
  now : t.now = s.now
  cores : t.cores = s.cores
  agenda : t.agenda = s.agenda
  todo : ∀ d ∈ s.todo, d ∈ t.todo
  ctxAt : ∀ j, j ≠ k → t.ctxAt j = s.ctxAt j

theorem SameBut.refl (k : Nat) (s : State) : SameBut k s s := ⟨rfl, rfl, rfl, fun _ hd => hd, fun _ _ => rfl⟩

theorem SameBut.trans {k : Nat} {s t u : State} (h : SameBut k s t) (g : SameBut k t u) : SameBut k s u :=
  ⟨g.now.trans h.now, g.cores.trans h.cores, g.agenda.trans h.agenda, fun d hd => g.todo d (h.todo d hd),
    fun j hj => (g.ctxAt j hj).trans (h.ctxAt j hj)⟩

theorem SameBut.setCtx {k : Nat} {s t : State} (h : SameBut k s t) (c : Context) : SameBut k s (t.setCtx k c) :=
  ⟨h.now, h.cores, h.agenda, h.todo, fun j hj => (t.ctxAt_setCtx_other c hj.symm).trans (h.ctxAt j hj)⟩

theorem SameBut.modCtx {k : Nat} {s t : State} (h : SameBut k s t) (f : Context → Context) :
    SameBut k s (t.modCtx k f) := h.setCtx (f (t.ctxAt k))

/-- Work of the present cycle joins the list of work. -/
theorem SameBut.post {k : Nat} {s t : State} (h : SameBut k s t) (d : Due) (hd : d.at_ ≤ t.now) :
    SameBut k s (t.post d) where
  now := (t.post_now d).trans h.now
  cores := (t.post_cores d).trans h.cores
  agenda := by simp [State.post, hd, h.agenda]
  todo e he := (t.mem_post_todo d e).2 (.inl (h.todo e he))
  ctxAt j hj := (t.post_ctxAt d j).trans (h.ctxAt j hj)

theorem State.releaseReserved_sameBut (s : State) (k : Nat) : SameBut k s (s.releaseReserved k) := by
  have h (p : Store (List PoolEntry)) : SameBut k s { s with lpool := p } :=
    ⟨rfl, rfl, rfl, fun _ hd => hd, fun _ _ => rfl⟩
  unfold State.releaseReserved
  dsimp only
  split
  · exact (h _).modCtx _
  · exact ((h _).modCtx _).post _ (Nat.le_refl _)

theorem State.record_sameBut (s : State) (k : Nat) (pc : Word) : SameBut k s (s.record k pc) :=
  ⟨rfl, rfl, rfl, fun _ hd => hd, fun _ hj => s.ctxAt_setCtx_other _ hj.symm⟩

theorem State.commitQuiet_sameBut (s : State) (k : Nat) (pc : Word) : SameBut k s (s.commitQuiet k pc) := by
  have h := s.releaseReserved_sameBut k
  unfold State.commitQuiet
  dsimp only
  split
  · exact h.modCtx _
  · split
    · exact h.modCtx _
    · exact h.trans (State.record_sameBut ..)

/-- The commit ends the bundle, moves every effect that its slots have started to the work or the agenda, and keeps what
is there but for its context. -/
theorem State.commitBundle_moves (s : State) :
    s.commitBundle.cur = {} ∧ s.commitBundle.now = s.now ∧ s.commitBundle.cores = s.cores ∧
      (∀ d ∈ s.cur.buf, d ∈ if d.at_ ≤ s.now then s.commitBundle.todo else s.commitBundle.agenda) ∧
      (∀ d ∈ s.todo, d ∈ s.commitBundle.todo) ∧ (∀ d ∈ s.agenda, d ∈ s.commitBundle.agenda) ∧
      ∀ k, k ≠ s.cur.ctx → s.commitBundle.ctxAt k = s.ctxAt k := by
  have h : SameBut s.cur.ctx s (if s.cur.quiet then s.commitQuiet s.cur.ctx s.cur.pc else s) := by
    split
    · exact s.commitQuiet_sameBut _ _
    · exact .refl _ _
  unfold State.commitBundle
  dsimp only
  generalize (if s.cur.quiet then s.commitQuiet s.cur.ctx s.cur.pc else s) = u at h ⊢
  replace h : SameBut s.cur.ctx s ((u.tickShadow s.cur.ctx).modCtx s.cur.ctx (fun c => c.commit s.cur s.nextPc)) :=
    (h.modCtx _).modCtx _
  refine ⟨State.postAll_cur .., (State.postAll_now ..).trans h.now, (State.postAll_cores ..).trans h.cores,
    fun d hd => ?_, fun d hd => (State.mem_postAll_todo ..).2 (.inl (h.todo d hd)),
    fun d hd => (State.mem_postAll_agenda ..).2 (.inl (h.agenda ▸ hd)),
    fun k hk => (State.postAll_ctxAt ..).trans (h.ctxAt k hk)⟩
  split
  · next hd' => exact (State.mem_postAll_todo ..).2 (.inr ⟨hd, h.now ▸ hd'⟩)
  · next hd' => exact (State.mem_postAll_agenda ..).2 (.inr ⟨hd, h.now ▸ hd'⟩)

end Sys2Proof.Machine
end

section
/-!
PROOFS of the statements on the scope of the model (spec/00_scope.md).
-/

namespace Sys2Proof.Machine

/-- Settles O7: no row but a command's arrival writes HBM4, and its write keeps the form; a start clears HBM4. -/
theorem memoryStaysCanonical : Obligations.MemoryStaysCanonical := by
  intro s t hs ht
  obtain ⟨u, hu, hw⟩ := step_keepsForm s
  obtain rfl : u = t := by simpa [hu] using ht
  exact hw hs

/-- Settles O5, from what the next cycle and the commit do to the work lists. -/
theorem advanceBringsDueWork : Obligations.AdvanceBringsDueWork := by
  refine ⟨fun s d ho ht hd hr => ?_, fun s ho hi => ?_⟩
  · exact ⟨s.advance, step_advance s ho ht, rfl, State.mem_advance_todo s d hd hr,
      fun h => (State.mem_advance_agenda s d).2 ⟨hd, h⟩⟩
  · obtain ⟨hcur, hn, hc, hb, ht, ha, hx⟩ := s.commitBundle_moves
    refine ⟨s.commitBundle, step_commit s ho (by omega), hcur, hn, s.commitBundle_mem, hc, hb, ht, ha, hx⟩

/-- Settles O6: every instruction and every row of the table has a next state. -/
theorem everyStepGoesOn : Obligations.EveryStepGoesOn := by
  intro s
  obtain ⟨t, ht, _⟩ := step_keepsForm s
  exact ⟨t, ht⟩

end Sys2Proof.Machine
end

section
/-!
SUPPORT. Separate bytes of a pool, the elements of a run of bytes and the order in which a load arranges them.
-/

namespace Sys2Proof.Machine

/-! ### Single writes one after another -/

/-- Single writes leave every key that none of them names. -/
theorem sget_foldl_sset_other {β : Type} [DecidableEq β] (d : β) (cells m : Store β) (j : Nat)
    (h : ∀ e ∈ cells, j ≠ e.1) : sget d (cells.foldl (fun p e => sset d p e.1 e.2) m) j = sget d m j := by
  induction cells generalizing m with
  | nil => rfl
  | cons e r ih =>
    obtain ⟨he, hr⟩ := List.forall_mem_cons.1 h
    rw [List.foldl_cons, ih _ hr, sget_sset_other d m _ he.symm]

/-- Of single writes at distinct keys each one stands. -/
theorem sget_foldl_sset_mem {β : Type} [DecidableEq β] (d : β) (cells m : Store β) (e : Nat × β)
    (hn : (cells.map Prod.fst).Nodup) (he : e ∈ cells) :
    sget d (cells.foldl (fun p e => sset d p e.1 e.2) m) e.1 = e.2 := by
  induction cells generalizing m with
  | nil => cases he
  | cons c r ih =>
    obtain ⟨hc, hr⟩ := List.nodup_cons.1 hn
    rw [List.foldl_cons]
    rcases List.mem_cons.1 he with rfl | he
    · have hout : ∀ x ∈ r, e.1 ≠ x.1 := fun x hx heq => hc (heq ▸ List.mem_map_of_mem hx)
      rw [sget_foldl_sset_other d r _ _ hout, sget_sset_same]
    · exact ih _ hr he

/-! ### Separate bytes of a pool -/

theorem State.poolByte_poolCells (s : State) (n : Nat) (cells : List (Nat × Byte)) (m b : Nat) :
    (s.poolCells n cells).poolByte m b =
      if n = m then sget 0 (cells.foldl (fun p e => sset 0 p e.1 e.2) (s.coreAt n).pool) b else s.poolByte m b := by
  unfold State.poolByte State.poolCells
  rw [State.coreAt_modCore]
  split <;> rfl

theorem State.shelfCells_otherCore (s : State) (k : Nat) (a : Access) (cells : List (Nat × Byte)) {n : Nat} (b : Nat)
    (h : n ≠ coreOf k) : (s.shelfCells k a cells).poolByte n b = s.poolByte n b := by
  rw [State.shelfCells, State.poolByte_poolCells, if_neg h.symm]

/-- A byte that no cell names stands. -/
theorem State.shelfCells_otherByte (s : State) (k : Nat) (a : Access) (cells : List (Nat × Byte)) (b : Nat)
    (h : ∀ e ∈ cells, b ≠ (s.ctxAt k).accessAddr a true + e.1) :
    (s.shelfCells k a cells).poolByte (coreOf k) b = s.poolByte (coreOf k) b := by
  rw [State.shelfCells, State.poolByte_poolCells, if_pos rfl]
  exact sget_foldl_sset_other _ _ _ _ (List.forall_mem_map.2 h)

/-- Each of the cells at distinct positions is stored at its place in the back half. -/
theorem State.shelfCells_cell (s : State) (k : Nat) (a : Access) (cells : List (Nat × Byte)) (e : Nat × Byte)
    (hn : (cells.map Prod.fst).Nodup) (he : e ∈ cells) :
    (s.shelfCells k a cells).poolByte (coreOf k) ((s.ctxAt k).accessAddr a true + e.1) = e.2 := by
  rw [State.shelfCells, State.poolByte_poolCells, if_pos rfl]
  refine sget_foldl_sset_mem 0 _ _ ((s.ctxAt k).accessAddr a true + e.1, e.2) ?_
    (List.mem_map_of_mem (f := fun e => ((s.ctxAt k).accessAddr a true + e.1, e.2)) he)
  have hshift : ((cells.map Prod.fst).map ((s.ctxAt k).accessAddr a true + ·)).Nodup :=
    List.Pairwise.map _ (fun _ _ hne heq => hne (Nat.add_left_cancel heq)) hn
  rwa [List.map_map] at hshift ⊢

/-! ### A read check that passes leaves the bytes of the pools -/

theorem State.countPool_pool (s : State) (k addr n m : Nat) :
    ((s.countPool k addr n).coreAt m).pool = (s.coreAt m).pool := by
  unfold State.countPool
  dsimp only
  split
  · rfl
  · rw [State.coreAt_modCore]
    split
    · next h => rw [← h]
    · rfl

theorem State.readCheck_poolByte (s : State) (k : Nat) (a : Access) (align : Nat)
    (h : (s.readCheck k a align).2 = none) (m b : Nat) : (s.readCheck k a align).1.poolByte m b = s.poolByte m b := by
  rw [s.readCheck_pass k a align h, State.poolByte, State.countPool_pool, State.poolByte]

theorem State.readCheck_shelfBytes (s : State) (k : Nat) (a : Access) (align : Nat)
    (h : (s.readCheck k a align).2 = none) : (s.readCheck k a align).1.shelfBytes k a = s.shelfBytes k a := by
  rw [s.readCheck_pass k a align h]
  simp only [State.shelfBytes, State.poolRead, State.countPool_pool, State.countPool_ctxAt]

/-! ### Elements -/

@[simp] theorem elemsOf_length (w n : Nat) (bs : List Byte) : (elemsOf w n bs).length = n := by
  induction n generalizing bs with
  | zero => rfl
  | succ n ih => simp [elemsOf, ih]

/-- Element j stands in the w bytes from w · j on (R3). -/
theorem elemsOf_getElem? (w n : Nat) (bs : List Byte) (j : Nat) (h : j < n) :
    (elemsOf w n bs)[j]? = some (leNat ((bs.drop (w * j)).take w)) := by
  induction n generalizing bs j with
  | zero => omega
  | succ n ih =>
    cases j with
    | zero => simp [elemsOf]
    | succ j =>
      rw [elemsOf, List.getElem?_cons_succ, ih _ j (by omega), List.drop_drop, Nat.mul_succ, Nat.add_comm w]

/-- The loaded element that stands at place `k` of the destination: `v.ldt` transposes each tile of 32 × 32 (R178). -/
def loadSource (l : VLoad) (k : Nat) : Nat :=
  if l.kind = .ldt then 1024 * (k / 1024) + 32 * (k % 32) + k / 32 % 32 else k

theorem arranged_ldt (l : VLoad) (xs : List Nat) (h : l.kind = .ldt) :
    arranged l xs = (List.range l.n).map (fun k => xs.getD (loadSource l k) 0) := by
  simp [arranged, loadSource, h]

theorem arranged_of_ne_ldt (l : VLoad) (xs : List Nat) (h : l.kind ≠ .ldt) : arranged l xs = xs := by
  unfold arranged
  split
  · next hk => exact absurd hk h
  · rfl

theorem arranged_length (l : VLoad) (xs : List Nat) (h : xs.length = l.n) : (arranged l xs).length = l.n := by
  by_cases hk : l.kind = .ldt
  · simp [arranged_ldt l xs hk]
  · rw [arranged_of_ne_ldt l xs hk, h]

theorem arranged_getElem? (l : VLoad) (xs : List Nat) (k : Nat) (hk : k < l.n) (hj : loadSource l k < xs.length) :
    (arranged l xs)[k]? = xs[loadSource l k]? := by
  by_cases h : l.kind = .ldt
  · simp [arranged_ldt l xs h, hk, hj]
  · rw [arranged_of_ne_ldt l xs h, loadSource, if_neg h]

end Sys2Proof.Machine
end

section
/-!
PROOFS of the statements on the V unit (spec/08_instr_vector.md).
-/

namespace Sys2Proof.Machine

/-! ### The two rows of a vector access, one equation per outcome of the check (R176 to R179) -/

theorem exec_vectorStorePerform_pass (s : State) (o : Origin) (acc : Access) (cells : List (Nat × Byte))
    (h : s.writeCheck o.ctx acc 64 = none) :
    exec (.vectorStorePerform o acc cells) s = .next ((s.shelfCells o.ctx acc cells).touch o.ctx) := by
  simp only [exec, execVectorStorePerform, h]

theorem exec_vectorStorePerform_fail (s : State) (o : Origin) (acc : Access) (cells : List (Nat × Byte)) (f : ShelfFail)
    (h : s.writeCheck o.ctx acc 64 = some f) :
    exec (.vectorStorePerform o acc cells) s =
      .next ((s.fault o 0 f.cause (f.info acc.sh 1 unitV 0 0 acc.off)).touch o.ctx) := by
  simp only [exec, execVectorStorePerform, h]

theorem exec_vectorLoadSample_pass (s : State) (o : Origin) (l : VLoad) (h : (s.readCheck o.ctx l.acc 64).2 = none) :
    exec (.vectorLoadSample o l) s =
      .next (((s.readCheck o.ctx l.acc 64).1.after (if l.kind = .ldt then 4 else 3) rankLand (.op (.resultLanding o
        (.vec l.vd (cellsOf l.w 0 l.active (arranged l (elemsOf l.w l.n (s.shelfBytes o.ctx l.acc)))))))).touch o.ctx) := by
  simp only [exec, execVectorLoadSample, h, beq_iff_eq, s.readCheck_shelfBytes o.ctx l.acc 64 h]

theorem exec_vectorLoadSample_lds_fail (s : State) (o : Origin) (l : VLoad) (f : ShelfFail)
    (h : (s.readCheck o.ctx l.acc 64).2 = some f) (hk : l.kind = .lds) :
    exec (.vectorLoadSample o l) s = .next ((((s.readCheck o.ctx l.acc 64).1.after 3 rankLand
      (.op (.resultLanding o (.vec l.vd (cellsOf l.w 0 l.active (List.replicate l.n 0)))))).after
        3 rankLand (.op (.resultLanding o (.mask l.q 0)))).touch o.ctx) := by
  simp only [exec, execVectorLoadSample, h, hk, beq_self_eq_true, if_true]

theorem exec_vectorLoadSample_fail (s : State) (o : Origin) (l : VLoad) (f : ShelfFail)
    (h : (s.readCheck o.ctx l.acc 64).2 = some f) (hk : l.kind ≠ .lds) :
    exec (.vectorLoadSample o l) s = .next (((s.readCheck o.ctx l.acc 64).1.fault o 0 f.cause
      (f.info l.acc.sh 0 unitV 0 0 l.acc.off)).touch o.ctx) := by
  simp only [exec, execVectorLoadSample, h, beq_iff_eq, if_neg hk]

/-- Settles O36: a store that may be performed sets its cells one after another, and a load's elements are those of the
half in the order of its form; each outcome of the check has its equation. -/
theorem vectorMemoryPerforms : Obligations.VectorMemoryPerforms := by
  intro s o acc cells l
  refine ⟨fun hw => ?store, fun f hf => exec_vectorStorePerform_fail s o acc cells f hf, fun hr => ?load,
    fun f hf hk => exec_vectorLoadSample_lds_fail s o l f hf hk, fun f hf hk => exec_vectorLoadSample_fail s o l f hf hk⟩
  case store =>
    exact ⟨_, exec_vectorStorePerform_pass s o acc cells hw, s.shelfCells_mem o.ctx acc cells,
      s.shelfCells_otherByte o.ctx acc cells, fun _ b hc => s.shelfCells_otherCore o.ctx acc cells b hc, fun hn e => s.shelfCells_cell o.ctx acc cells e hn⟩
  case load =>
    have hlen := elemsOf_length l.w l.n (s.shelfBytes o.ctx l.acc)
    refine ⟨_, exec_vectorLoadSample_pass s o l hr, arranged_length l _ hlen, s.readCheck_poolByte o.ctx l.acc 64 hr,
      fun k hk hj => ?_⟩
    exact (arranged_getElem? l _ k hk (hlen.symm ▸ hj)).trans (elemsOf_getElem? l.w l.n _ _ hj)

end Sys2Proof.Machine
end
